-- ==== Sys2Proof/Word.lean ====
section
/-! DEFINITION. The word types of the J960 and the names of its fixed enumerations of width. -/

namespace Sys2Proof

/-- One byte (00 R3). -/
abbrev Byte := BitVec 8
/-- A 32-bit register lane or s-register (03 R50). -/
abbrev W32 := BitVec 32
/-- A 64-bit value of a register pair, a Chidy instruction word or a clause header (00 R3, 07 R153, R164). -/
abbrev W64 := BitVec 64
/-- A set of lanes of one warp: bit i is lane i (02 R34, 09 R213). -/
abbrev LaneMask := BitVec 64
/-- A virtual byte address of a context (19 R337). -/
abbrev VAddr := BitVec 57
/-- The sticky IEEE flags NV DZ OF UF NX at bits 4..0 (03 R59). -/
abbrev FpFlags := BitVec 5

/-- A physical byte address: local HBM below 2^52, host memory from 2^52, and the memory of
peer module m from (m + 2) * 2^52 (19 R339, 24 R411). -/
abbrev PAddr := Nat

end Sys2Proof
end

