-- ==== Sys2Proof/Syntax.lean ====
section
/-! DEFINITION. The instruction set as data: one constructor of `Instr` per row of spec/opcode_table.json.
Rows of opcodes 0x00-0xDF are instruction words and carry the operands of their encoding tables; the other
rows are steps of the module's other agents (schedulers, engines, Dergus, walkers, Chervil, the host, the fabrics and
the test port) and carry the thing they act on. -/

namespace Sys2Proof

/-- The guard of a word: GN and GP (07 R164, R165). -/
structure Guard where
  neg  : Bool
  pred : BitVec 3
  deriving DecidableEq, Repr

/-- A register operand with its .S bit: s-register when `s`, else a vector register (07 R168). -/
structure Reg where
  s : Bool
  n : BitVec 8
  deriving DecidableEq, Repr

/-- A source that may be IMM32 (07 R166). -/
inductive Src where
  | reg (r : Reg)
  | imm (x : W32)
  deriving DecidableEq, Repr

/-- Rounding modes in RM order (04 R76). -/
inductive RMode where
  | rne | rz | rd | ru
  deriving DecidableEq, Repr

/-- Scopes in code order (10 R224). -/
inductive Scope where
  | blk | gang | die | dev | sys
  deriving DecidableEq, Repr

/-- Orders in code order (10 R224, 06 R133). -/
inductive Order where
  | rlx | acq | rel | acqrel | sc
  deriving DecidableEq, Repr

/-- OPEN modes in code order (10 R227). -/
inductive Mode where
  | r | w | wz | rw | s
  deriving DecidableEq, Repr

/-- Two-source integer words (08 Table 8.1). `u` is U; where a form has no SAT or U the bit is false. -/
structure IBin where
  g : Guard
  d : Reg
  a : Reg
  b : Src
  sat : Bool
  u : Bool
  deriving DecidableEq, Repr

/-- One-source integer words (08 Table 8.1). -/
structure IUn where
  g : Guard
  d : Reg
  a : Reg
  sat : Bool
  deriving DecidableEq, Repr

/-- Three-source integer words; `u` is MOD[0] (U, UA or L) and `u1` MOD[1] (UB) (08 Table 8.1). -/
structure ITer where
  g : Guard
  d : Reg
  a : Reg
  b : Reg
  c : Reg
  sat : Bool
  u : Bool
  u1 : Bool
  deriving DecidableEq, Repr

/-- IADDC and ISUBB (08 R181). -/
structure Carry where
  g : Guard
  d : Reg
  a : Reg
  b : Reg
  pin : BitVec 3
  pout : BitVec 3
  deriving DecidableEq, Repr

/-- LOP3 (08 R183). -/
structure Lop3Op where
  g : Guard
  d : Reg
  a : Reg
  b : Reg
  c : Reg
  lut : BitVec 8
  deriving DecidableEq, Repr

/-- MOV; `pair` is SZ 01 (08 Table 8.1). -/
structure MovOp where
  g : Guard
  d : Reg
  a : Reg
  pair : Bool
  deriving DecidableEq, Repr

/-- MOVI; `sz` 0 one word, 1 sign-extended pair, 2 zero-extended pair (08 Table 8.1). -/
structure MoviOp where
  g : Guard
  d : BitVec 8
  sz : BitVec 2
  imm : W32
  deriving DecidableEq, Repr

/-- MOVS (08 R184): `sa` is an s-register number. -/
structure MovsOp where
  g : Guard
  d : Reg
  sa : BitVec 8
  b : Reg
  deriving DecidableEq, Repr

/-- SMOVV (08 R184): `sd` is an s-register, `a` a vector register. -/
structure SmovvOp where
  g : Guard
  sd : BitVec 8
  a : BitVec 8
  deriving DecidableEq, Repr

/-- SEL (08 R184). -/
structure SelOp where
  g : Guard
  d : Reg
  a : Reg
  b : Reg
  p : BitVec 3
  pair : Bool
  deriving DecidableEq, Repr

/-- Two-source floating words; `bf` is SZ 01 in the packed forms (08 Tables 8.5, 8.9). -/
structure FBin where
  g : Guard
  nf : Bool
  bf : Bool
  rm : RMode
  sat : Bool
  d : Reg
  a : Reg
  b : Src
  deriving DecidableEq, Repr

/-- Three-source floating words; `sz` is SZ (08 Tables 8.5, 8.9). -/
structure FTer where
  g : Guard
  nf : Bool
  sz : BitVec 2
  rm : RMode
  sat : Bool
  d : Reg
  a : Reg
  b : Reg
  c : Reg
  deriving DecidableEq, Repr

/-- One-source floating words; `x` is FROUND's X (08 Table 8.5). -/
structure FUn where
  g : Guard
  nf : Bool
  rm : RMode
  x : Bool
  d : Reg
  a : Reg
  deriving DecidableEq, Repr

/-- The type conversions of 08 Table 8.10; `src` and `dst` are ETYPE codes, `sz` the source element. -/
structure CvtOp where
  g : Guard
  nf : Bool
  rm : RMode
  sat : Bool
  sz : BitVec 2
  src : BitVec 4
  dst : BitVec 4
  d : Reg
  a : Reg
  deriving DecidableEq, Repr

/-- PACK (08 R193). -/
structure PackOp where
  g : Guard
  rm : RMode
  sat : Bool
  sz : BitVec 2
  t : BitVec 4
  d : Reg
  a : Reg
  b : Reg
  deriving DecidableEq, Repr

/-- UNPACK (08 R193). -/
structure UnpackOp where
  g : Guard
  sz : BitVec 2
  t : BitVec 4
  d : Reg
  a : Reg
  deriving DecidableEq, Repr

/-- QNT8.scale (08 R194); `e5` selects E5M2. -/
structure QScaleOp where
  g : Guard
  nf : Bool
  e5 : Bool
  d : Reg
  a : Reg
  deriving DecidableEq, Repr

/-- QNT8 (a is a quad) and DQNT8 (d is a quad) (08 R194). -/
structure QntOp where
  g : Guard
  nf : Bool
  e5 : Bool
  d : Reg
  a : Reg
  b : Reg
  deriving DecidableEq, Repr

/-- Compares into a predicate (08 R195); `pair` is SZ 01, `comb` MOD[5:4]. -/
structure SetpOp where
  g : Guard
  nf : Bool
  pair : Bool
  cmp : BitVec 4
  comb : BitVec 2
  pd : BitVec 3
  a : Reg
  b : Reg
  pc : BitVec 3
  deriving DecidableEq, Repr

/-- Compares into a register (08 R195). -/
structure SetOp where
  g : Guard
  nf : Bool
  pair : Bool
  u : Bool
  cmp : BitVec 4
  comb : BitVec 2
  d : Reg
  a : Reg
  b : Reg
  pc : BitVec 3
  deriving DecidableEq, Repr

/-- PLOP (08 R198). -/
structure PlopOp where
  g : Guard
  pd : BitVec 3
  pa : BitVec 3
  pb : BitVec 3
  pc : BitVec 3
  lut : BitVec 8
  deriving DecidableEq, Repr

/-- PMOV.get (08 R198); `d` is a vector register. -/
structure PmovGetOp where
  g : Guard
  d : BitVec 8
  deriving DecidableEq, Repr

/-- PMOV.set (08 R198). -/
structure PmovSetOp where
  g : Guard
  a : Reg
  mask : BitVec 7
  deriving DecidableEq, Repr

/-- SHFL (09 R214); `m` 0 pick, 1 rot, 2 slide, 3 bfly; segments of 2^w lanes; `pair` is SZ 01. -/
structure ShflOp where
  g : Guard
  pair : Bool
  m : BitVec 2
  w : BitVec 3
  d : BitVec 8
  a : Reg
  b : Reg
  pc : BitVec 3
  deriving DecidableEq, Repr

/-- QXCH and QBCAST (09 R216). -/
structure QuadOp where
  g : Guard
  pair : Bool
  k : BitVec 2
  d : BitVec 8
  a : Reg
  deriving DecidableEq, Repr

/-- VOTE.all, .any, .uni (09 R217). -/
structure VoteOp where
  g : Guard
  op : BitVec 2
  n : Bool
  pd : BitVec 3
  pa : BitVec 3
  deriving DecidableEq, Repr

/-- VOTE.ballot (09 R217); `pair` is SZ 01. -/
structure BallotOp where
  g : Guard
  pair : Bool
  n : Bool
  d : Reg
  pa : BitVec 3
  deriving DecidableEq, Repr

/-- REDUX and PREFIX (09 R218); `x` is PREFIX's X. -/
structure ReduxOp where
  g : Guard
  pair : Bool
  op : BitVec 3
  u : Bool
  sat : Bool
  x : Bool
  d : Reg
  a : Reg
  deriving DecidableEq, Repr

/-- FREDUX (09 R219). -/
structure FreduxOp where
  g : Guard
  nf : Bool
  rm : RMode
  op : BitVec 2
  d : Reg
  a : Reg
  deriving DecidableEq, Repr

/-- MATCH.any (09 R217). -/
structure MatchAnyOp where
  g : Guard
  pair : Bool
  d : BitVec 8
  a : Reg
  deriving DecidableEq, Repr

/-- MATCH.all (09 R217). -/
structure MatchAllOp where
  g : Guard
  pair : Bool
  pd : BitVec 3
  a : Reg
  deriving DecidableEq, Repr

/-- A word with one predicate destination (ELECT, 09 R217). -/
structure ElectOp where
  g : Guard
  pd : BitVec 3
  deriving DecidableEq, Repr

/-- READLANE (09 R220): `a` is a vector register. -/
structure ReadLaneOp where
  g : Guard
  pair : Bool
  d : Reg
  a : BitVec 8
  b : Src
  deriving DecidableEq, Repr

/-- WRITELANE (09 R220): `a` is an s-register. -/
structure WriteLaneOp where
  g : Guard
  pair : Bool
  d : BitVec 8
  a : BitVec 8
  b : Src
  deriving DecidableEq, Repr

/-- BRA and CALL (09 R202): signed offset in words. -/
structure BraOp where
  g : Guard
  off : W32
  deriving DecidableEq, Repr

/-- BRX and CALLX (09 R202): a pair holding the target. -/
structure BrxOp where
  g : Guard
  a : Reg
  deriving DecidableEq, Repr

/-- Words with a guard and nothing else (NOP, RET, EXIT, YIELD). -/
structure BareOp where
  g : Guard
  deriving DecidableEq, Repr

/-- JOIN (09 R209). -/
structure JoinOp where
  g : Guard
  pd : BitVec 3
  t : W32
  deriving DecidableEq, Repr

/-- TRAP, BRK and CALLCV: a guard and IMM32. -/
structure ImmOp where
  g : Guard
  imm : W32
  deriving DecidableEq, Repr

/-- PAUSE (09 R212). -/
structure PauseOp where
  g : Guard
  n : BitVec 16
  deriving DecidableEq, Repr

/-- OPEN and REOPEN (10 R227). -/
structure OpenOp where
  g : Guard
  mode : Mode
  ln : BitVec 3
  v : BitVec 6
  b : Reg
  deriving DecidableEq, Repr

/-- RECALL and FLUSHL (10 R229). -/
structure LineOp where
  g : Guard
  ln : BitVec 3
  deriving DecidableEq, Repr

/-- The offset of LDL and STL: an immediate or a register (10 R230). -/
inductive LineOff where
  | imm (x : BitVec 8)
  | reg (r : Reg)
  deriving DecidableEq, Repr

/-- LDL (10 R230); `sz` 0 four bytes, 1 eight, 2 one, 3 two. -/
structure LdlOp where
  g : Guard
  sz : BitVec 2
  d : BitVec 8
  ln : BitVec 3
  off : LineOff
  sx : Bool
  ord : Order
  scp : Scope
  deriving DecidableEq, Repr

/-- STL (10 R230). -/
structure StlOp where
  g : Guard
  sz : BitVec 2
  d : Reg
  ln : BitVec 3
  off : LineOff
  ord : Order
  scp : Scope
  deriving DecidableEq, Repr

/-- ATOML (10 R230, R233); `pair` is SZ 01. -/
structure AtomlOp where
  g : Guard
  pair : Bool
  op : BitVec 4
  d : BitVec 8
  ln : BitVec 3
  b : Reg
  ord : Order
  scp : Scope
  deriving DecidableEq, Repr

/-- LINEQ (10 R236). -/
structure LineqOp where
  g : Guard
  q : BitVec 2
  d : BitVec 8
  ln : BitVec 3
  deriving DecidableEq, Repr

/-- VIEWQ (10 R236). -/
structure ViewqOp where
  g : Guard
  f : BitVec 4
  d : Reg
  v : BitVec 6
  deriving DecidableEq, Repr

/-- PREF (10 R236, R237). -/
structure PrefOp where
  g : Guard
  t : Bool
  v : BitVec 6
  b : Reg
  deriving DecidableEq, Repr

/-- LDS and LDSM (10 R238); `sz` is SZ and 0 in LDSM. -/
structure LdsOp where
  g : Guard
  sz : BitVec 2
  d : BitVec 8
  v : BitVec 6
  b : Reg
  deriving DecidableEq, Repr

/-- STS (10 R238). -/
structure StsOp where
  g : Guard
  sz : BitVec 2
  d : Reg
  v : BitVec 6
  b : Reg
  deriving DecidableEq, Repr

/-- ATOMS (10 R238). -/
structure AtomsOp where
  g : Guard
  pair : Bool
  op : BitVec 4
  ord : Order
  gang : Bool
  d : BitVec 8
  v : BitVec 6
  b : Reg
  c : Reg
  deriving DecidableEq, Repr

/-- WAITA (10 R242); `c` names the pair comparand, timeout. -/
structure WaitaOp where
  g : Guard
  cmp : BitVec 3
  scp : Scope
  pd : BitVec 3
  v : BitVec 6
  b : Reg
  c : Reg
  deriving DecidableEq, Repr

/-- SIGA (10 R242). -/
structure SigaOp where
  g : Guard
  scp : Scope
  v : BitVec 6
  b : Reg
  c : Reg
  deriving DecidableEq, Repr

/-- FENCE (10 R245); `kind` 0 acq, 1 rel, 2 acqrel, 3 sc. -/
structure FenceOp where
  g : Guard
  kind : BitVec 2
  scp : Scope
  deriving DecidableEq, Repr

/-- BAR (10 R246): `n` is the s-register holding N when CNT = 1. -/
structure BarOp where
  g : Guard
  k : BitVec 3
  n : Option (BitVec 8)
  deriving DecidableEq, Repr

/-- GBAR (10 R246). -/
structure GbarOp where
  g : Guard
  k : BitVec 2
  deriving DecidableEq, Repr

/-- WAITF (10 R246). -/
structure WaitfOp where
  g : Guard
  mask : BitVec 12
  deriving DecidableEq, Repr

/-- BARB.post (10 R249): `d` receives the old PHASE, `c` is E. -/
structure BarbPostOp where
  g : Guard
  d : BitVec 8
  v : BitVec 6
  b : Reg
  c : Reg
  deriving DecidableEq, Repr

/-- BARB.wait (10 R249): `c` is q. -/
structure BarbWaitOp where
  g : Guard
  v : BitVec 6
  b : Reg
  c : Reg
  deriving DecidableEq, Repr

/-- SEND (10 R251): `n1` is n - 1. -/
structure SendOp where
  g : Guard
  n1 : BitVec 4
  pd : BitVec 3
  v : BitVec 6
  b : Reg
  c : Reg
  deriving DecidableEq, Repr

/-- RINGADV (10 R251). -/
structure RingadvOp where
  g : Guard
  d : Reg
  v : BitVec 6
  b : Reg
  c : Reg
  deriving DecidableEq, Repr

/-- CINV (10 R253): `a` an even s-register pair, `b` an s-register. -/
structure CinvOp where
  g : Guard
  a : BitVec 8
  b : BitVec 8
  deriving DecidableEq, Repr

/-- The Halyard card words (11 R257): `t` is the s-register receiving the ticket, `gm` the guard slot. -/
structure CpyOp where
  g : Guard
  eng : BitVec 2
  t : Option (BitVec 8)
  v : BitVec 6
  b : Reg
  gm : Option (BitVec 4)
  deriving DecidableEq, Repr

/-- Card words with a record and no destination (11 R257, 12 R280). -/
structure CardOp where
  g : Guard
  v : BitVec 6
  b : Reg
  gm : Option (BitVec 4)
  deriving DecidableEq, Repr

/-- MMAZERO (11 R257). -/
structure MmazeroOp where
  g : Guard
  acc : BitVec 3
  gm : Option (BitVec 4)
  deriving DecidableEq, Repr

/-- GSET (11 R257): the source is an s-register or IMM32. -/
structure GsetOp where
  g : Guard
  slot : BitVec 4
  b : Src
  deriving DecidableEq, Repr

/-- ENGWAIT (11 R257). -/
structure EngwaitOp where
  g : Guard
  e : BitVec 2
  b : Src
  deriving DecidableEq, Repr

/-- MMALEASE (11 R257): n, 0-64. -/
structure MmaleaseOp where
  g : Guard
  n : W32
  deriving DecidableEq, Repr

/-- ATTN (12 R280): `d` receives the tile statuses. -/
structure AttnOp where
  g : Guard
  d : BitVec 8
  v : BitVec 6
  b : Reg
  gm : Option (BitVec 4)
  deriving DecidableEq, Repr

/-- EMIT (12 R280): `h` is the s-register holding the handle, `n1` is n - 1. -/
structure EmitOp where
  g : Guard
  n1 : BitVec 4
  pd : BitVec 3
  h : BitVec 8
  c : Reg
  deriving DecidableEq, Repr

/-- LAUNCH (12 R280). -/
structure LaunchOp where
  g : Guard
  pd : BitVec 3
  v : BitVec 6
  b : Reg
  deriving DecidableEq, Repr

/-- CSRR (03 R63). -/
structure CsrrOp where
  g : Guard
  d : Reg
  csr : BitVec 12
  deriving DecidableEq, Repr

/-- CSRW (03 R63). -/
structure CsrwOp where
  g : Guard
  csr : BitVec 12
  a : Reg
  deriving DecidableEq, Repr

/-- CLOCK (03 R63). -/
structure ClockOp where
  g : Guard
  d : Reg
  deriving DecidableEq, Repr

/-- RDREG (21 R378). -/
structure RdregOp where
  g : Guard
  d : BitVec 8
  b : Src
  deriving DecidableEq, Repr

/-- WRREG (21 R378). -/
structure WrregOp where
  g : Guard
  b : Src
  a : Reg
  deriving DecidableEq, Repr

/-- TRET (21 R378): `adj` is the adjustment 8. -/
structure TretOp where
  adj : Bool
  deriving DecidableEq, Repr

/-- HALTB and RESUMEB (21 R384): s-registers. -/
structure HaltOp where
  g : Guard
  a : BitVec 8
  b : BitVec 8
  deriving DecidableEq, Repr

/-- RDWREG and RDLINE (21 R384): `h` is the s-register of the warp handle. -/
structure RdwregOp where
  g : Guard
  d : BitVec 8
  h : BitVec 8
  b : Reg
  c : Reg
  deriving DecidableEq, Repr

/-- WRWREG (21 R384). -/
structure WrwregOp where
  g : Guard
  d : Reg
  h : BitVec 8
  b : Reg
  c : Reg
  deriving DecidableEq, Repr

/-- DRAIN (21 R384). -/
structure DrainOp where
  g : Guard
  d : Reg
  a : BitVec 8
  b : BitVec 8
  deriving DecidableEq, Repr

/-- A warp of the module: its block's place in `State.blocks` and its WARPID. -/
structure WarpRef where
  b : Nat
  w : Nat
  deriving DecidableEq, Repr

/-- A frontier entry of a warp: its place in the warp's entries. -/
structure EntryRef where
  b : Nat
  w : Nat
  e : Nat
  deriving DecidableEq, Repr

/-- The kinds of access that a translation serves (19 R339, R342). -/
inductive Access where
  | read | write | fetch
  deriving DecidableEq, Repr

/-- An agent of another module (06 R121, R142): its module, its number there, and whether it is a job card. -/
structure PeerAgent where
  mod  : Nat
  id   : Nat
  card : Bool
  deriving DecidableEq, Repr

/-- What an arriving Stay request asks for (24 R411, R412): a fill or a payload read, a payload write or a write-back, an .S access, a registration or
its end (06 R132, R142), each by an agent of another module. -/
inductive StayReq where
  | read     (a : PeerAgent) (pa n : Nat)
  | write    (a : PeerAgent) (pa : Nat) (bytes : List Byte)
  | sync     (a : PeerAgent) (pa n : Nat) (new : Option (List Byte))
  | register (a : PeerAgent) (pa : Nat) (write : Bool)
  | release  (a : PeerAgent) (pa : Nat)
  deriving DecidableEq, Repr

/-- What the metering of a core, or of the stacks and ports, gives for a window (20 R370): picojoules, and the activity units, or bytes moved, of each
queue. -/
structure Meter where
  core  : Nat
  pj    : Nat
  units : List (Nat × Nat)
  deriving DecidableEq, Repr

/-- A firmware image that boot verifies (24 R414). -/
structure Image where
  data   : List Byte
  sig    : List Byte
  secver : Nat
  deriving DecidableEq, Repr

/-- What the stages of a boot find (24 Table 24.6): the images, Tardun's configuration, and whether the rails, the links and the
training came up. -/
structure BootImages where
  fw      : Image
  rails   : Bool
  tardun  : List Byte
  link    : Bool
  trained : Bool
  dergus  : Image
  dump    : Image
  deriving DecidableEq, Repr

/-- A work request of a queue pair (24 R413): the local region's address, and the remote one. -/
inductive RoceWork where
  | send     (lva : VAddr) (n : Nat)
  | write    (lva : VAddr) (n : Nat) (rva : VAddr)
  | read     (lva : VAddr) (n : Nat) (rva : VAddr)
  | fetchAdd (lva rva : VAddr) (x : W64)
  | cmpSwap  (lva rva : VAddr) (cmp new : W64)
  deriving DecidableEq, Repr

/-- A message that arrives at the RoCE engine (24 R413); `response` answers a work request of a queue pair of this module. -/
inductive RoceOp where
  | response  (qp : Nat) (bytes : List Byte)
  | send      (bytes : List Byte)
  | rdmaWrite (va : VAddr) (bytes : List Byte)
  | rdmaRead  (va : VAddr) (n : Nat)
  | fetchAdd  (va : VAddr) (x : W64)
  | cmpSwap   (va : VAddr) (cmp new : W64)
  deriving DecidableEq, Repr

/-- Which translation store a parity error strikes (21 R395). -/
inductive XlateStore where
  | tcache   (die : Nat) (ctx : Nat) (va : VAddr)
  | coreTlb  (core : Nat) (ctx : Nat) (va : VAddr)
  | lastPage (b w lane : Nat)
  deriving DecidableEq, Repr

/-- The rows of spec/opcode_table.json. -/
inductive Instr where
  -- integer and move words, 0x00-0x2F (08 R179-R184)
  | nop (o : BareOp)
  | iadd (o : IBin)
  | isub (o : IBin)
  | imul (o : IBin)
  | imulh (o : IBin)
  | imulhn (o : IBin)
  | imad (o : ITer)
  | iadd3 (o : ITer)
  | imin (o : IBin)
  | imax (o : IBin)
  | nmin (o : IBin)
  | nmax (o : IBin)
  | iabs (o : IUn)
  | ineg (o : IUn)
  | iaddc (o : Carry)
  | isubb (o : Carry)
  | andw (o : IBin)
  | orw (o : IBin)
  | xorw (o : IBin)
  | notw (o : IUn)
  | lop3 (o : Lop3Op)
  | shl (o : IBin)
  | shr (o : IBin)
  | sar (o : IBin)
  | rotl (o : IBin)
  | funnel (o : ITer)
  | popc (o : IUn)
  | clz (o : IUn)
  | ctz (o : IUn)
  | brev (o : IUn)
  | bfx (o : ITer)
  | bfi (o : ITer)
  | idiv (o : IBin)
  | ndiv (o : IBin)
  | irem (o : IBin)
  | nrem (o : IBin)
  | isad (o : ITer)
  | idot4 (o : ITer)
  | idot2 (o : ITer)
  | prmt (o : ITer)
  | mov (o : MovOp)
  | movi (o : MoviOp)
  | movs (o : MovsOp)
  | smovv (o : SmovvOp)
  | iadd64 (o : IBin)
  | isub64 (o : IBin)
  | imul64 (o : IBin)
  | sel (o : SelOp)
  -- FP32 words, 0x30-0x46 (08 R185-R189)
  | fadd (o : FBin)
  | fsub (o : FBin)
  | fmul (o : FBin)
  | ffma (o : FTer)
  | fmin (o : FBin)
  | fmax (o : FBin)
  | fabs (o : FUn)
  | fneg (o : FUn)
  | fdiv (o : FBin)
  | fsqrt (o : FUn)
  | frcp (o : FUn)
  | frsq (o : FUn)
  | fexp2 (o : FUn)
  | flog2 (o : FUn)
  | fsin (o : FUn)
  | fcos (o : FUn)
  | ftanh (o : FUn)
  | fclass (o : FUn)
  | fcopysign (o : FBin)
  | ffract (o : FUn)
  | fround (o : FUn)
  | fscale (o : FBin)
  | fgetexp (o : FUn)
  -- packed words, 0x48-0x4E (08 R190-R191)
  | hadd2 (o : FBin)
  | hmul2 (o : FBin)
  | hfma2 (o : FTer)
  | hmin2 (o : FBin)
  | hmax2 (o : FBin)
  | hdot2 (o : FTer)
  | qdot4 (o : FTer)
  -- conversion and quantisation, 0x50-0x57 (08 R192-R194)
  | cvtf2i (o : CvtOp)
  | cvti2f (o : CvtOp)
  | cvtf2f (o : CvtOp)
  | cvti2i (o : CvtOp)
  | pack (o : PackOp)
  | unpack (o : UnpackOp)
  | qnt8Scale (o : QScaleOp)
  | qnt8 (o : QntOp)
  | dqnt8 (o : QntOp)
  -- compares and predicates, 0x60-0x66 (08 R195-R198)
  | isetp (o : SetpOp)
  | nsetp (o : SetpOp)
  | fsetp (o : SetpOp)
  | plop (o : PlopOp)
  | pmovGet (o : PmovGetOp)
  | pmovSet (o : PmovSetOp)
  | fset (o : SetOp)
  | iset (o : SetOp)
  -- cross-lane words, 0x70-0x7B (09 R213-R221)
  | shfl (o : ShflOp)
  | qxch (o : QuadOp)
  | qbcast (o : QuadOp)
  | vote (o : VoteOp)
  | voteBallot (o : BallotOp)
  | redux (o : ReduxOp)
  | fredux (o : FreduxOp)
  | matchAny (o : MatchAnyOp)
  | matchAll (o : MatchAllOp)
  | elect (o : ElectOp)
  | prefixScan (o : ReduxOp)
  | readlane (o : ReadLaneOp)
  | writelane (o : WriteLaneOp)
  -- control words, 0x80-0x8A (09 R199-R212)
  | bra (o : BraOp)
  | brx (o : BrxOp)
  | call (o : BraOp)
  | callx (o : BrxOp)
  | ret (o : BareOp)
  | join (o : JoinOp)
  | exitw (o : BareOp)
  | trapw (o : ImmOp)
  | brk (o : ImmOp)
  | yieldw (o : BareOp)
  | pause (o : PauseOp)
  -- line words, 0x90-0x9A (10 R227-R237)
  | openl (o : OpenOp)
  | reopen (o : OpenOp)
  | recall (o : LineOp)
  | flushl (o : LineOp)
  | ldl (o : LdlOp)
  | stl (o : StlOp)
  | atoml (o : AtomlOp)
  | lineq (o : LineqOp)
  | viewq (o : ViewqOp)
  | pref (o : PrefOp)
  -- scratchpad, fence, barrier and message words, 0xA0-0xAE (10 R238-R252)
  | lds (o : LdsOp)
  | sts (o : StsOp)
  | atoms (o : AtomsOp)
  | ldsmB64 (o : LdsOp)
  | ldsmB128 (o : LdsOp)
  | waita (o : WaitaOp)
  | siga (o : SigaOp)
  | fence (o : FenceOp)
  | bar (o : BarOp)
  | barbPost (o : BarbPostOp)
  | barbWait (o : BarbWaitOp)
  | gbar (o : GbarOp)
  | waitf (o : WaitfOp)
  | send (o : SendOp)
  | ringadv (o : RingadvOp)
  -- Halyard and Mainsail words, 0xB0-0xBB (11 R256-R278)
  | cpy (o : CpyOp)
  | cpyf (o : CpyOp)
  | cpyp (o : CpyOp)
  | cpyq (o : CpyOp)
  | gset (o : GsetOp)
  | engwait (o : EngwaitOp)
  | mma (o : CardOp)
  | mmalease (o : MmaleaseOp)
  | mmadrain (o : CardOp)
  | mmazero (o : MmazeroOp)
  -- Topsail, Sorrel and graph words, 0xC0-0xC9 (12)
  | attn (o : AttnOp)
  | kvappend (o : CardOp)
  | kvmap (o : CardOp)
  | kvrot (o : CardOp)
  | embg (o : CardOp)
  | embu (o : CardOp)
  | embswap (o : CardOp)
  | emit (o : EmitOp)
  | launch (o : LaunchOp)
  -- system words, 0xD0-0xDF (03 R63-R66, 10 R253, 21 R378-R389)
  | csrr (o : CsrrOp)
  | csrw (o : CsrwOp)
  | clock (o : ClockOp)
  | rdreg (o : RdregOp)
  | wrreg (o : WrregOp)
  | tret (o : TretOp)
  | cinv (o : CinvOp)
  | haltb (o : HaltOp)
  | resumeb (o : HaltOp)
  | rdwreg (o : RdwregOp)
  | wrwreg (o : WrwregOp)
  | rdline (o : RdwregOp)
  | drain0 (o : DrainOp)
  | drain1 (o : DrainOp)
  | callcv (o : ImmOp)
  -- steps of a warp's frontier, traps and waits (02, 07 R160, 09, 21)
  | clauseWaitPass (e : EntryRef)
  | maskResolve (w : WarpRef)
  | entryPromote (e : EntryRef)
  | warpSwap (out inn : WarpRef)
  | joinTimeout (e : EntryRef)
  | waitaTimeout (e : EntryRef)
  | pauseExpire (e : EntryRef)
  | capacityRetry (e : EntryRef)
  | regionEndComplete (w : WarpRef)
  | watchdogWarp (w : WarpRef)
  | watchdogEntry (e : EntryRef)
  | trapDeliver (w : WarpRef)
  | contextFault (ctx : Nat)
  | engineErrorDeliver (w : WarpRef)
  -- Dergus and translation (18, 19)
  | dergusTranslate (die ctx : Nat) (va : VAddr)
  | pageWalk (core ctx : Nat) (va : VAddr) (acc : Access)
  | cinvComplete (w : WarpRef)
  -- cards and engines (11, 12)
  | cardEnqueueResume (e : EntryRef)
  | cardStart (c : Nat)
  | cardComplete (c : Nat)
  | byteBarrierDelivery (c n : Nat)
  | cpyqBeatPush (c : Nat)
  | mainsailGrant (core : Nat)
  | sorrelHotMigrate (ctx tid row : Nat) (into : Bool)
  -- queues, placement, power (20)
  | queueEnable (q : Nat)
  | queueDisable (q : Nat)
  | qtailWrite (q : Nat) (v : W32)
  | qenergyRead (q : Nat)
  | qenergyWrite (q : Nat) (v : W32)
  | registerWrite (off : Nat) (v : W64)
  | launchEntryTake (q : Nat)
  | blockPlace (p : Nat)
  | gangReserve (p : Nat)
  | gangLendCutoff (p : Nat)
  | gridComplete (g : Nat)
  | nodeFlushTimer (ctx node : Nat)
  | preemptRequest (pcmd0 pcmd1 : W64)
  | blockRestore (b : Nat)
  | pcfgCommit (p : Nat)
  | powerWindow (p watts input : Nat) (cores : List Meter) (mem : Meter)
  | thermalThrottle (mhz temp : Nat)
  | idleEntry (core : Nat)
  | idleExit (core : Nat)
  -- translation commands (19 R346-R354)
  | coreSweep (core ticket : Nat)
  | shootComplete (ticket : Nat)
  | migrationCopyDone (ticket : Nat)
  -- Chervil, boot, freeze and the test port (18 R336, 24)
  | secfuseRaise (authentic : Bool)
  | getMeasurements (index : Nat)
  | reset (rom : BitVec 256) (img : BootImages)
  | frzsel (sel : W32)
  -- memory errors (21 R394, R395)
  | scratchUe (owner : Nat) (r : WarpRef) (lanes : LaneMask) (off : Nat)
  | correctableError (unit : Nat) (addr : Nat)
  | hbmSectorUe (pa : Nat)
  | lineStoreUe (b w : Nat) (line : VAddr)
  | registerUe (b w lane num : Nat)
  | mainsailUe (c : Nat) (tile : BitVec 8)
  | translationParityError (x : XlateStore)
  -- fabrics and the host link (24)
  | stayFlitRetry (port : Nat)
  | linkTimeout (c : Nat)
  | stayRequestArrive (port : Nat) (req : StayReq)
  | roceIncoming (port ctx : Nat) (op : RoceOp)
  | roceWorkRequest (qp ctx : Nat) (w : RoceWork)
  | ucieDegrade (modules : Nat)
  -- reserved cells, bad commands, Chervil's answer, link up
  | illegalOpcode (word : W64)
  | chervilAnswer (w : WarpRef)
  | stayLinkUp (port : Nat)
  -- steps that carry nothing: commands act on the TCMD latches (19 R346), the test port on its own registers (24 R418)
  | shoot
  | shootctx
  | migrate
  | promote
  | badcmd
  | freezePin
  | freezeCounter
  | idcode
  | bypass
  | frzdata
  deriving DecidableEq, Repr

end Sys2Proof
end

