-- ==== Sys2Proof/WellFormed.lean ====
section
/-! DEFINITION. What makes an instruction encodable: every operand in the range of its kind (07 R168), the scalar
destination rule (07 R169) and the values its encoding table lists. What depends on the kernel header (07 R51, R221) is checked
when the word executes. -/

namespace Sys2Proof

/-- The operand kinds that carry a range (07 Table 7.8). `run r n` is n consecutive registers from r; `coords b v`
the coordinate block of view v (10 R223). -/
inductive Opnd where
  | word   (r : Reg)
  | pair   (r : Reg)
  | quad   (r : Reg)
  | view   (v : BitVec 6)
  | acc    (t : BitVec 3)
  | coords (b : Reg) (v : BitVec 6)
  | run    (r : Reg) (n : Nat)
  deriving DecidableEq, Repr

/-- A vector register operand. -/
def Reg.vec (n : BitVec 8) : Reg := { s := false, n := n }
/-- An s-register operand. -/
def Reg.sc (n : BitVec 8) : Reg := { s := true, n := n }

/-- The part of an operand's range that the word alone decides (07 Table 7.8, 08 R177). -/
def Opnd.ok : Opnd → Bool
  | .word r => !r.s || r.n.toNat < 64
  | .pair r => r.n.toNat % 2 == 0 && (!r.s || r.n.toNat ≤ 62)
  | .quad r => !r.s && r.n.toNat % 4 == 0
  | .view _ => true
  | .acc _ => true
  | .coords b _ => !b.s || b.n.toNat < 64
  | .run r n => !r.s || r.n.toNat + n ≤ 64

/-- The operand of a source that is a register. -/
def Src.word : Src → List Opnd
  | .reg r => [.word r]
  | .imm _ => []

/-- The operand of a 64-bit source that is a register pair. -/
def Src.pair : Src → List Opnd
  | .reg r => [.pair r]
  | .imm _ => []

/-- Whether a source is an s-register or IMM32 (07 R169). -/
def Src.scalar : Src → Bool
  | .reg r => r.s
  | .imm _ => true

/-- A word or a pair, by SZ. -/
def Reg.wide (p : Bool) (r : Reg) : Opnd := if p then .pair r else .word r

/-- The ETYPE codes of floating types (05 Table 5.3). -/
def etypeFloat (t : BitVec 4) : Bool := 8 ≤ t.toNat && t.toNat ≤ 12
/-- The ETYPE codes of integer types (05 Table 5.3). -/
def etypeInt (t : BitVec 4) : Bool := t.toNat ≤ 7
/-- The size in bytes of an element type; 0 for the codes that name none (05 Table 5.3). -/
def etypeSize (t : BitVec 4) : Nat :=
  match t.toNat with
  | 0 => 1 | 1 => 1 | 2 => 2 | 3 => 2 | 4 => 4 | 5 => 4 | 6 => 8 | 7 => 8
  | 8 => 4 | 9 => 2 | 10 => 2 | 11 => 1 | 12 => 1 | _ => 0
/-- The types of PACK and UNPACK (08 Table 8.11). -/
def packType (t : BitVec 4) : Bool := t.toNat ≤ 3 || (9 ≤ t.toNat && t.toNat ≤ 12)

namespace IBin
/-- Operands of a two-source word. -/
def opnds (o : IBin) : List Opnd := .word o.d :: .word o.a :: o.b.word
/-- Operands of a two-source pair word. -/
def opnds64 (o : IBin) : List Opnd := .pair o.d :: .pair o.a :: o.b.pair
/-- The scalar rule (07 R169), and IM = 1 clearing the .S, SAT and U bits (07 R166). -/
def form (o : IBin) (arith : Bool) : Bool :=
  (!o.d.s || (o.a.s && o.b.scalar)) && (arith || (!o.sat && !o.u)) &&
  match o.b with
  | .imm _ => !o.d.s && !o.a.s && !o.sat && !o.u
  | .reg _ => true
end IBin

namespace IUn
/-- Operands. -/
def opnds (o : IUn) : List Opnd := [.word o.d, .word o.a]
/-- Scalar rule and SAT (08 Table 8.1). -/
def form (o : IUn) (sat : Bool) : Bool := (!o.d.s || o.a.s) && (sat || !o.sat)
end IUn

namespace ITer
/-- Operands. -/
def opnds (o : ITer) : List Opnd := [.word o.d, .word o.a, .word o.b, .word o.c]
/-- Scalar rule and the modifiers a form admits (08 Table 8.1). -/
def form (o : ITer) (sat u u1 : Bool) : Bool :=
  (!o.d.s || (o.a.s && o.b.s && o.c.s)) && (sat || !o.sat) && (u || !o.u) && (u1 || !o.u1)
end ITer

namespace FBin
/-- Operands. -/
def opnds (o : FBin) : List Opnd := .word o.d :: .word o.a :: o.b.word
/-- Scalar rule, IM and the modifiers a form admits (08 Tables 8.5, 8.9). -/
def form (o : FBin) (rm sat bf : Bool) : Bool :=
  (!o.d.s || (o.a.s && o.b.scalar)) && (rm || o.rm == .rne) && (sat || !o.sat) && (bf || !o.bf) &&
  match o.b with
  | .imm _ => !o.d.s && !o.a.s && !o.sat && o.rm == .rne
  | .reg _ => true
end FBin

namespace FTer
/-- Operands. -/
def opnds (o : FTer) : List Opnd := [.word o.d, .word o.a, .word o.b, .word o.c]
/-- Scalar rule and SZ (08 Tables 8.5, 8.9). -/
def form (o : FTer) (szMax : Nat) : Bool := (!o.d.s || (o.a.s && o.b.s && o.c.s)) && o.sz.toNat ≤ szMax
end FTer

namespace FUn
/-- Operands. -/
def opnds (o : FUn) : List Opnd := [.word o.d, .word o.a]
/-- Scalar rule, RM and X (08 Table 8.5). -/
def form (o : FUn) (rm x : Bool) : Bool := (!o.d.s || o.a.s) && (rm || o.rm == .rne) && (x || !o.x)
end FUn

namespace CvtOp
/-- Operands: types 6 and 7 use pairs (08 R192). -/
def opnds (o : CvtOp) : List Opnd := [o.d.wide (etypeSize o.dst == 8), o.a.wide (etypeSize o.src == 8)]
/-- The element chosen by SZ lies in the source (08 R192), and the scalar rule. -/
def form (o : CvtOp) : Bool :=
  (!o.d.s || o.a.s) &&
  (match etypeSize o.src with
   | 1 => true
   | 2 => o.sz.toNat ≤ 1
   | _ => o.sz == 0)
end CvtOp

/-- Comparison and combine codes (08 R195, R196). -/
def cmpOk (float : Bool) (cmp : BitVec 4) (comb : BitVec 2) (pc : BitVec 3) : Bool :=
  cmp.toNat ≤ (if float then 11 else 5) && (comb != 0 || pc == 0)

/-- The operand of an atomic operation (10 R234). -/
def atomOpnd (pair : Bool) (op : BitVec 4) (b : Reg) : Opnd :=
  if op == 9 then (if pair then .quad b else .pair b) else b.wide pair

/-- Operation codes of atomics (10 Table 10.5). -/
def atomOk (pair : Bool) (op : BitVec 4) : Bool := op.toNat ≤ 9 || (op == 10 && !pair)

/-- The operands whose range R168 bounds, of every instruction word; events have none. -/
def Instr.opnds : Instr → List Opnd
  | .iadd o | .isub o | .imul o | .imulh o | .imulhn o | .imin o | .imax o | .nmin o | .nmax o | .andw o | .orw o | .xorw o
  | .shl o | .shr o | .sar o | .rotl o | .idiv o | .ndiv o | .irem o | .nrem o => o.opnds
  | .iadd64 o | .isub64 o | .imul64 o => o.opnds64
  | .imad o | .iadd3 o | .funnel o | .bfx o | .bfi o | .isad o | .idot4 o | .idot2 o | .prmt o => o.opnds
  | .iabs o | .ineg o | .notw o | .popc o | .clz o | .ctz o | .brev o => o.opnds
  | .iaddc o | .isubb o => [.word o.d, .word o.a, .word o.b]
  | .lop3 o => [.word o.d, .word o.a, .word o.b, .word o.c]
  | .mov o => [o.d.wide o.pair, o.a.wide o.pair]
  | .movi o => [(Reg.vec o.d).wide (o.sz != 0)]
  | .movs o => [.word o.d, .word (.sc o.sa), .word o.b]
  | .smovv o => [.word (.sc o.sd), .word (.vec o.a)]
  | .sel o => [o.d.wide o.pair, o.a.wide o.pair, o.b.wide o.pair]
  | .fadd o | .fsub o | .fmul o | .fmin o | .fmax o | .fdiv o | .fcopysign o | .fscale o
  | .hadd2 o | .hmul2 o | .hmin2 o | .hmax2 o => o.opnds
  | .ffma o | .hfma2 o | .hdot2 o | .qdot4 o => o.opnds
  | .fabs o | .fneg o | .fsqrt o | .frcp o | .frsq o | .fexp2 o | .flog2 o | .fsin o | .fcos o | .ftanh o | .fclass o
  | .ffract o | .fround o | .fgetexp o => o.opnds
  | .cvtf2i o | .cvti2f o | .cvtf2f o | .cvti2i o => o.opnds
  | .pack o => [.word o.d, .word o.a, .word o.b]
  | .unpack o => [.pair o.d, .word o.a]
  | .qnt8Scale o => [.word o.d, .word o.a]
  | .qnt8 o => [.word o.d, .quad o.a, .word o.b]
  | .dqnt8 o => [.quad o.d, .word o.a, .word o.b]
  | .isetp o | .nsetp o | .fsetp o => [o.a.wide o.pair, o.b.wide o.pair]
  | .pmovGet o => [.word (.vec o.d)]
  | .pmovSet o => [.word o.a]
  | .fset o | .iset o => [.word o.d, o.a.wide o.pair, o.b.wide o.pair]
  | .shfl o => [(Reg.vec o.d).wide o.pair, o.a.wide o.pair, .word o.b]
  | .qxch o | .qbcast o => [(Reg.vec o.d).wide o.pair, o.a.wide o.pair]
  | .voteBallot o => [o.d.wide o.pair]
  | .redux o | .prefixScan o => [o.d.wide o.pair, o.a.wide o.pair]
  | .fredux o => [.word o.d, .word o.a]
  | .matchAny o => [.word (.vec o.d), o.a.wide o.pair]
  | .matchAll o => [o.a.wide o.pair]
  | .readlane o => o.d.wide o.pair :: (Reg.vec o.a).wide o.pair :: o.b.word
  | .writelane o => (Reg.vec o.d).wide o.pair :: (Reg.sc o.a).wide o.pair :: o.b.word
  | .brx o | .callx o => [.pair o.a]
  | .openl o | .reopen o => [.view o.v, .coords o.b o.v]
  | .ldl o => (Reg.vec o.d).wide (o.sz == 1) :: (match o.off with | .imm _ => [] | .reg r => [.word r])
  | .stl o => o.d.wide (o.sz == 1) :: (match o.off with | .imm _ => [] | .reg r => [.word r])
  | .atoml o => [(Reg.vec o.d).wide o.pair, atomOpnd o.pair o.op o.b]
  | .lineq o => [.word (.vec o.d)]
  | .viewq o => [.word o.d, .view o.v]
  | .pref o => [.view o.v, .coords o.b o.v]
  | .lds o => [(Reg.vec o.d).wide (o.sz == 1), .view o.v, .coords o.b o.v]
  | .sts o => [o.d.wide (o.sz == 1), .view o.v, .coords o.b o.v]
  | .atoms o => [(Reg.vec o.d).wide o.pair, .view o.v, .coords o.b o.v, atomOpnd o.pair o.op o.c]
  | .ldsmB64 o => [.pair (.vec o.d), .view o.v, .coords o.b o.v]
  | .ldsmB128 o => [.quad (.vec o.d), .view o.v, .coords o.b o.v]
  | .waita o => [.view o.v, .coords o.b o.v, .pair o.c]
  | .siga o => [.view o.v, .coords o.b o.v, .word o.c]
  | .bar o => match o.n with | some n => [.word (.sc n)] | none => []
  | .barbPost o => [.word (.vec o.d), .view o.v, .coords o.b o.v, .word o.c]
  | .barbWait o => [.view o.v, .coords o.b o.v, .word o.c]
  | .send o => [.view o.v, .coords o.b o.v, .run o.c (o.n1.toNat + 1)]
  | .ringadv o => [.word o.d, .view o.v, .coords o.b o.v, .word o.c]
  | .cpy o | .cpyf o | .cpyp o | .cpyq o =>
    [.view o.v, .coords o.b o.v] ++ (match o.t with | some t => [.word (.sc t)] | none => [])
  | .gset o => o.b.word
  | .engwait o => o.b.word
  | .mma o | .mmadrain o | .kvappend o | .kvmap o | .kvrot o | .embg o | .embu o | .embswap o =>
    [.view o.v, .coords o.b o.v]
  | .mmazero o => [.acc o.acc]
  | .attn o => [.word (.vec o.d), .view o.v, .coords o.b o.v]
  | .emit o => [.word (.sc o.h), .run o.c (o.n1.toNat + 1)]
  | .launch o => [.view o.v, .coords o.b o.v]
  | .csrr o => [.word o.d]
  | .csrw o => [.word o.a]
  | .clock o => [.pair o.d]
  | .rdreg o => .word (.vec o.d) :: o.b.word
  | .wrreg o => .word o.a :: o.b.word
  | .cinv o => [.pair (.sc o.a), .word (.sc o.b)]
  | .haltb o | .resumeb o => [.word (.sc o.a), .word (.sc o.b)]
  | .rdwreg o | .rdline o => [.word (.vec o.d), .word (.sc o.h), .word o.b, .word o.c]
  | .wrwreg o => [.word o.d, .word (.sc o.h), .word o.b, .word o.c]
  | .drain0 o | .drain1 o => [.word o.d, .word (.sc o.a), .word (.sc o.b)]
  | _ => []

/-- The modifiers, codes and .S bits each encoding table lists, beyond operand ranges. -/
def Instr.form : Instr → Bool
  | .iadd o | .isub o | .iadd64 o | .isub64 o => o.form true
  | .imul o | .imulh o | .imulhn o | .imin o | .imax o | .nmin o | .nmax o | .andw o | .orw o | .xorw o
  | .shl o | .shr o | .sar o | .rotl o | .idiv o | .ndiv o | .irem o | .nrem o | .imul64 o => o.form false
  | .imad o | .iadd3 o | .isad o => o.form true true false
  | .funnel o | .bfx o => o.form false true false
  | .bfi o | .prmt o => o.form false false false
  | .idot4 o | .idot2 o => o.form true true true
  | .iabs o | .ineg o => o.form true
  | .notw o | .popc o | .clz o | .ctz o | .brev o => o.form false
  | .iaddc o | .isubb o => !o.d.s || (o.a.s && o.b.s)
  | .lop3 o => !o.d.s || (o.a.s && o.b.s && o.c.s)
  | .mov o => !o.d.s || o.a.s
  | .movi o => o.sz.toNat ≤ 2
  | .movs o => !o.d.s || o.b.s
  | .sel o => !o.d.s || (o.a.s && o.b.s)
  | .fadd o | .fsub o | .fmul o | .fdiv o | .fscale o => o.form true true false
  | .fmin o | .fmax o | .fcopysign o => o.form false false false
  | .hadd2 o | .hmul2 o => o.form true true true
  | .hmin2 o | .hmax2 o => o.form false false true
  | .ffma o => o.form 0
  | .hfma2 o | .hdot2 o => o.form 1
  | .qdot4 o => o.form 3
  | .fsqrt o => o.form true false
  | .fround o => o.form true true
  | .fabs o | .fneg o | .frcp o | .frsq o | .fexp2 o | .flog2 o | .fsin o | .fcos o | .ftanh o | .fclass o | .ffract o
  | .fgetexp o => o.form false false
  | .cvtf2i o => o.form && etypeFloat o.src && etypeInt o.dst
  | .cvti2f o => o.form && etypeInt o.src && etypeFloat o.dst
  | .cvtf2f o => o.form && etypeFloat o.src && etypeFloat o.dst
  | .cvti2i o => o.form && etypeInt o.src && etypeInt o.dst && !o.nf && o.rm == .rne
  | .pack o => (!o.d.s || (o.a.s && o.b.s)) && packType o.t && (etypeFloat o.t || o.rm == .rne) &&
      (if etypeSize o.t == 2 then o.sz == 0 else o.sz.toNat ≤ 1)
  | .unpack o => (!o.d.s || o.a.s) && packType o.t && (if etypeSize o.t == 2 then o.sz == 0 else o.sz.toNat ≤ 1)
  | .qnt8Scale o => !o.d.s || o.a.s
  | .qnt8 o => !o.d.s
  | .dqnt8 _ => true
  | .isetp o | .nsetp o => cmpOk false o.cmp o.comb o.pc && !o.nf
  | .fsetp o => cmpOk true o.cmp o.comb o.pc && !o.pair
  | .fset o => (!o.d.s || (o.a.s && o.b.s)) && cmpOk true o.cmp o.comb o.pc && !o.pair && !o.u
  | .iset o => (!o.d.s || (o.a.s && o.b.s)) && cmpOk false o.cmp o.comb o.pc && !o.nf
  | .shfl o => o.w.toNat ≤ 6 && !o.a.s
  | .qxch o => o.k != 0 && !o.a.s
  | .qbcast o => !o.a.s
  | .matchAny o => !o.a.s
  | .matchAll o => !o.a.s
  | .vote o => o.op != 3
  | .redux o => o.op.toNat ≤ 5 && (!o.u || o.op == 1 || o.op == 2) && (!o.sat || o.op == 0) && !o.x && !o.a.s
  | .prefixScan o => o.op.toNat ≤ 5 && !o.sat && !o.d.s && !o.a.s
  | .fredux o => o.op.toNat ≤ 2 && (o.op == 0 || o.rm == .rne) && !o.a.s
  | .readlane o => match o.b with | .imm _ => !o.d.s | .reg r => r.s
  | .writelane o => match o.b with | .imm _ => true | .reg r => r.s
  | .ldl o => o.ord == .rlx || o.ord == .acq || o.ord == .sc
  | .stl o => o.ord == .rlx || o.ord == .rel || o.ord == .sc
  | .atoml o => atomOk o.pair o.op
  | .viewq o => o.f.toNat ≤ 14
  | .atoms o => atomOk o.pair o.op
  | .ldsmB64 o | .ldsmB128 o => o.sz == 0
  | .waita o => o.cmp != 7
  | .ringadv o => !o.d.s || (o.b.s && o.c.s)
  | .gset o => o.b.scalar
  | .engwait o => o.b.scalar
  | .mmalease o => o.n.toNat ≤ 64
  | .emit o => 3 ≤ o.n1.toNat
  | .wrreg o => match o.b with | .imm _ => !o.a.s | .reg _ => true
  | .illegalOpcode w => 0xE0 ≤ (w.toNat >>> 56) ||
      [0x47, 0x4F, 0x78, 0x7C, 0x7D, 0x7E, 0x7F, 0x97, 0xA6, 0xA7, 0xAF, 0xB6, 0xB7, 0xC7, 0xD7, 0xDE].contains (w.toNat >>> 56) ||
      (0x58 ≤ (w.toNat >>> 56) && (w.toNat >>> 56) ≤ 0x5F) || (0x67 ≤ (w.toNat >>> 56) && (w.toNat >>> 56) ≤ 0x6F) ||
      (0x8B ≤ (w.toNat >>> 56) && (w.toNat >>> 56) ≤ 0x8F) || (0x9B ≤ (w.toNat >>> 56) && (w.toNat >>> 56) ≤ 0x9F) ||
      (0xBC ≤ (w.toNat >>> 56) && (w.toNat >>> 56) ≤ 0xBF) || (0xCA ≤ (w.toNat >>> 56) && (w.toNat >>> 56) ≤ 0xCF)
  | _ => true

/-- A well-formed instruction: encodable as a word that R168 and R169 admit (events are well-formed). -/
def WellFormed (i : Instr) : Bool := i.opnds.all Opnd.ok && i.form

end Sys2Proof
end

