-- ==== Sys2Proof/Decode.lean ====
section
/-! DEFINITION. Decoding and encoding of instruction words and clause headers (07). A word is unpacked into the fields
of Tables 7.6 and 7.7, parsed by opcode, and accepted only when packing the parsed instruction gives the same fields
back: so every field that must be zero, and every code a table does not list, is refused. -/

namespace Sys2Proof

/-- The subfields of MOD (07 Table 7.7). -/
structure Mods where
  rm  : BitVec 2
  sat : Bool
  ds  : Bool
  sa  : Bool
  sb  : Bool
  sc  : Bool
  m   : BitVec 9
  deriving DecidableEq, Repr

/-- Bits [31:0]: IMM32 when IM = 1, else B, C and MOD (07 Table 7.6). -/
inductive Low where
  | imm  (x : W32)
  | regs (b c : BitVec 8) (m : Mods)
  deriving DecidableEq, Repr

/-- The fields of an instruction word (07 Table 7.6). -/
structure Fields where
  op  : BitVec 8
  g   : Guard
  nf  : Bool
  sz  : BitVec 2
  d   : BitVec 8
  a   : BitVec 8
  low : Low
  deriving DecidableEq, Repr

/-- The bit of a Bool. -/
abbrev bit (b : Bool) : BitVec 1 := BitVec.ofBool b

/-- MOD from bits [15:0] of a word (07 Table 7.7). -/
def unpackMods (w : BitVec 16) : Mods :=
  { rm := w.extractLsb' 14 2, sat := w.getLsbD 13, ds := w.getLsbD 12, sa := w.getLsbD 11, sb := w.getLsbD 10,
    sc := w.getLsbD 9, m := w.extractLsb' 0 9 }

/-- Bits [15:0] of a word from MOD. -/
def packMods (x : Mods) : BitVec 16 :=
  x.rm ++ bit x.sat ++ bit x.ds ++ bit x.sa ++ bit x.sb ++ bit x.sc ++ x.m

/-- Bits [31:0] of a word. -/
def unpackLow (im : Bool) (w : W32) : Low :=
  if im then .imm w else .regs (w.extractLsb' 24 8) (w.extractLsb' 16 8) (unpackMods (w.extractLsb' 0 16))

/-- Bits [31:0] of a word from its B, C and MOD or its IMM32. -/
def packLow : Low → W32
  | .imm x => x
  | .regs b c m => b ++ c ++ packMods m

/-- IM (07 R166). -/
def Low.isImm : Low → Bool
  | .imm _ => true
  | .regs _ _ _ => false

/-- The fields of a word (07 Table 7.6). -/
def unpackWord (w : W64) : Fields :=
  { op := w.extractLsb' 56 8, g := { neg := w.getLsbD 55, pred := w.extractLsb' 52 3 },
    nf := w.getLsbD 50, sz := w.extractLsb' 48 2, d := w.extractLsb' 40 8, a := w.extractLsb' 32 8,
    low := unpackLow (w.getLsbD 51) (w.extractLsb' 0 32) }

/-- The word of its fields (07 Table 7.6). -/
def packWord (f : Fields) : W64 :=
  f.op ++ bit f.g.neg ++ f.g.pred ++ bit f.low.isImm ++ bit f.nf ++ f.sz ++ f.d ++ f.a ++ packLow f.low

/-- The MOD of a word with no modifier. -/
def noMods : Mods := { rm := 0, sat := false, ds := false, sa := false, sb := false, sc := false, m := 0 }

/-! Readers of the parts of a word, total on either form of its low half. -/

/-- MOD, zero when IM = 1 (07 R166). -/
def Fields.mods (f : Fields) : Mods := match f.low with | .imm _ => noMods | .regs _ _ m => m
/-- B. -/
def Fields.b (f : Fields) : BitVec 8 := match f.low with | .imm _ => 0 | .regs b _ _ => b
/-- C. -/
def Fields.c (f : Fields) : BitVec 8 := match f.low with | .imm _ => 0 | .regs _ c _ => c
/-- IMM32. -/
def Fields.imm (f : Fields) : W32 := match f.low with | .imm x => x | .regs _ _ _ => 0
/-- MOD[8:0]. -/
def Fields.m (f : Fields) : BitVec 9 := f.mods.m
/-- The register of D with D.S. -/
def Fields.rd (f : Fields) : Reg := { s := f.mods.ds, n := f.d }
/-- The register of A with A.S. -/
def Fields.ra (f : Fields) : Reg := { s := f.mods.sa, n := f.a }
/-- The register of B with B.S. -/
def Fields.rb (f : Fields) : Reg := { s := f.mods.sb, n := f.b }
/-- The register of C with C.S. -/
def Fields.rc (f : Fields) : Reg := { s := f.mods.sc, n := f.c }
/-- Source B: a register, or IMM32 (07 R166). -/
def Fields.src (f : Fields) : Src :=
  match f.low with
  | .imm x => .imm x
  | .regs b _ m => .reg { s := m.sb, n := b }
/-- SZ 01, a 64-bit form. -/
def Fields.pair (f : Fields) : Bool := f.sz == 1
/-- Predicate in the low bits of an 8-bit field. -/
def predOf (x : BitVec 8) : BitVec 3 := x.extractLsb' 0 3
/-- View in the low bits of an 8-bit field. -/
def viewOf (x : BitVec 8) : BitVec 6 := x.extractLsb' 0 6
/-- Guard slot in the low bits of an 8-bit field. -/
def slotOf (x : BitVec 8) : BitVec 4 := x.extractLsb' 0 4
/-- An 8-bit field from a narrower number. -/
def fieldOf {n : Nat} (x : BitVec n) : BitVec 8 := x.setWidth 8
/-- SZ of a 64-bit flag. -/
def szOf (p : Bool) : BitVec 2 := if p then 1 else 0

/-- Rounding mode of RM (04 Table 4.5). -/
def rmodeOf (x : BitVec 2) : RMode := if x = 0 then .rne else if x = 1 then .rz else if x = 2 then .rd else .ru
/-- RM of a rounding mode. -/
def RMode.code : RMode → BitVec 2 | .rne => 0 | .rz => 1 | .rd => 2 | .ru => 3
/-- Scope of a code; the reserved codes 5-7 read as 0 and fail the packing test (10 R224). -/
def scopeOf (x : BitVec 3) : Scope :=
  if x = 1 then .gang else if x = 2 then .die else if x = 3 then .dev else if x = 4 then .sys else .blk
/-- Code of a scope. -/
def Scope.code : Scope → BitVec 3 | .blk => 0 | .gang => 1 | .die => 2 | .dev => 3 | .sys => 4
/-- Order of a code (10 R224). -/
def orderOf (x : BitVec 3) : Order :=
  if x = 1 then .acq else if x = 2 then .rel else if x = 3 then .acqrel else if x = 4 then .sc else .rlx
/-- Code of an order. -/
def Order.code : Order → BitVec 3 | .rlx => 0 | .acq => 1 | .rel => 2 | .acqrel => 3 | .sc => 4
/-- Mode of a code (10 Table 10.3). -/
def modeOf (x : BitVec 3) : Mode :=
  if x = 1 then .w else if x = 2 then .wz else if x = 3 then .rw else if x = 4 then .s else .r
/-- Code of a mode. -/
def Mode.code : Mode → BitVec 3 | .r => 0 | .w => 1 | .wz => 2 | .rw => 3 | .s => 4

/-! Building the fields of an instruction. -/

/-- A word with no operand. -/
def fieldsBase (op : BitVec 8) (g : Guard) : Fields :=
  { op := op, g := g, nf := false, sz := 0, d := 0, a := 0, low := .regs 0 0 noMods }
/-- A word with IMM32. -/
def fieldsImm (op : BitVec 8) (g : Guard) (x : W32) : Fields :=
  { op := op, g := g, nf := false, sz := 0, d := 0, a := 0, low := .imm x }
/-- The low half of a word whose source B may be IMM32. -/
def lowOf (b : Src) (m : Mods) : Low :=
  match b with
  | .imm x => .imm x
  | .reg r => .regs r.n 0 { m with sb := r.s }

def IBin.fields (op : BitVec 8) (o : IBin) : Fields :=
  { op := op, g := o.g, nf := false, sz := 0, d := o.d.n, a := o.a.n,
    low := lowOf o.b { noMods with sat := o.sat, ds := o.d.s, sa := o.a.s, m := if o.u then 1 else 0 } }
def IUn.fields (op : BitVec 8) (o : IUn) : Fields :=
  { op := op, g := o.g, nf := false, sz := 0, d := o.d.n, a := o.a.n,
    low := .regs 0 0 { noMods with sat := o.sat, ds := o.d.s, sa := o.a.s } }
def ITer.fields (op : BitVec 8) (o : ITer) : Fields :=
  { op := op, g := o.g, nf := false, sz := 0, d := o.d.n, a := o.a.n,
    low := .regs o.b.n o.c.n { noMods with sat := o.sat, ds := o.d.s, sa := o.a.s, sb := o.b.s, sc := o.c.s,
                                           m := (bit o.u1 ++ bit o.u).setWidth 9 } }
def Carry.fields (op : BitVec 8) (o : Carry) : Fields :=
  { op := op, g := o.g, nf := false, sz := 0, d := o.d.n, a := o.a.n,
    low := .regs o.b.n (fieldOf o.pin) { noMods with ds := o.d.s, sa := o.a.s, sb := o.b.s, m := o.pout.setWidth 9 } }
def FBin.fields (op : BitVec 8) (o : FBin) : Fields :=
  { op := op, g := o.g, nf := o.nf, sz := szOf o.bf, d := o.d.n, a := o.a.n,
    low := lowOf o.b { noMods with rm := o.rm.code, sat := o.sat, ds := o.d.s, sa := o.a.s } }
def FTer.fields (op : BitVec 8) (o : FTer) : Fields :=
  { op := op, g := o.g, nf := o.nf, sz := o.sz, d := o.d.n, a := o.a.n,
    low := .regs o.b.n o.c.n { noMods with rm := o.rm.code, sat := o.sat, ds := o.d.s, sa := o.a.s, sb := o.b.s,
                                           sc := o.c.s } }
def FUn.fields (op : BitVec 8) (o : FUn) : Fields :=
  { op := op, g := o.g, nf := o.nf, sz := 0, d := o.d.n, a := o.a.n,
    low := .regs 0 0 { noMods with rm := o.rm.code, ds := o.d.s, sa := o.a.s, m := if o.x then 1 else 0 } }
def CvtOp.fields (op : BitVec 8) (o : CvtOp) : Fields :=
  { op := op, g := o.g, nf := o.nf, sz := o.sz, d := o.d.n, a := o.a.n,
    low := .regs 0 0 { noMods with rm := o.rm.code, sat := o.sat, ds := o.d.s, sa := o.a.s,
                                   m := (o.src ++ o.dst).setWidth 9 } }
def QntOp.fields (op : BitVec 8) (o : QntOp) : Fields :=
  { op := op, g := o.g, nf := o.nf, sz := szOf o.e5, d := o.d.n, a := o.a.n,
    low := .regs o.b.n 0 { noMods with ds := o.d.s, sa := o.a.s, sb := o.b.s } }
def SetpOp.fields (op : BitVec 8) (o : SetpOp) : Fields :=
  { op := op, g := o.g, nf := o.nf, sz := szOf o.pair, d := fieldOf o.pd, a := o.a.n,
    low := .regs o.b.n (fieldOf o.pc) { noMods with sa := o.a.s, sb := o.b.s, m := (o.comb ++ o.cmp).setWidth 9 } }
def SetOp.fields (op : BitVec 8) (o : SetOp) : Fields :=
  { op := op, g := o.g, nf := o.nf, sz := szOf o.pair, d := o.d.n, a := o.a.n,
    low := .regs o.b.n (fieldOf o.pc) { noMods with ds := o.d.s, sa := o.a.s, sb := o.b.s,
                                                    m := (bit o.u ++ o.comb ++ o.cmp).setWidth 9 } }
def QuadOp.fields (op : BitVec 8) (o : QuadOp) : Fields :=
  { op := op, g := o.g, nf := false, sz := szOf o.pair, d := o.d, a := o.a.n,
    low := .regs 0 0 { noMods with sa := o.a.s, m := o.k.setWidth 9 } }
def ReduxOp.fields (op : BitVec 8) (o : ReduxOp) : Fields :=
  { op := op, g := o.g, nf := false, sz := szOf o.pair, d := o.d.n, a := o.a.n,
    low := .regs 0 0 { noMods with sat := o.sat, ds := o.d.s, sa := o.a.s,
                                   m := (bit o.x ++ bit o.u ++ o.op).setWidth 9 } }
def OpenOp.fields (op : BitVec 8) (o : OpenOp) : Fields :=
  { op := op, g := o.g, nf := false, sz := 0, d := fieldOf o.ln, a := fieldOf o.v,
    low := .regs o.b.n 0 { noMods with sb := o.b.s, m := o.mode.code.setWidth 9 } }
def LineOp.fields (op : BitVec 8) (o : LineOp) : Fields :=
  { fieldsBase op o.g with d := fieldOf o.ln }
/-- The access-control byte (10 Table 10.2). -/
def acb (sx : Bool) (o : Order) (s : Scope) : BitVec 8 := 0#1 ++ bit sx ++ o.code ++ s.code
/-- B of LDL and STL. -/
def LineOff.b : LineOff → BitVec 8 | .imm _ => 0 | .reg r => r.n
/-- MOD of LDL and STL (10 Table 10.4). -/
def LineOff.mods (o : LineOff) (ds : Bool) : Mods :=
  match o with
  | .imm x => { noMods with ds := ds, m := x.setWidth 9 }
  | .reg r => { noMods with ds := ds, sb := r.s, m := 0x100 }
def LdlOp.fields (o : LdlOp) : Fields :=
  { op := 0x94, g := o.g, nf := false, sz := o.sz, d := o.d, a := fieldOf o.ln,
    low := .regs o.off.b (acb o.sx o.ord o.scp) (o.off.mods false) }
def StlOp.fields (o : StlOp) : Fields :=
  { op := 0x95, g := o.g, nf := false, sz := o.sz, d := o.d.n, a := fieldOf o.ln,
    low := .regs o.off.b (acb false o.ord o.scp) (o.off.mods o.d.s) }
def LdsOp.fields (op : BitVec 8) (o : LdsOp) : Fields :=
  { op := op, g := o.g, nf := false, sz := o.sz, d := o.d, a := fieldOf o.v, low := .regs o.b.n 0 { noMods with sb := o.b.s } }
/-- GE and the guard slot of a card word (11 Table 11.1). -/
def gmSlot (g : Option (BitVec 4)) : BitVec 8 := match g with | some x => fieldOf x | none => 0
def gmBit (g : Option (BitVec 4)) : BitVec 9 := match g with | some _ => 4 | none => 0
def CpyOp.fields (op : BitVec 8) (o : CpyOp) : Fields :=
  { op := op, g := o.g, nf := false, sz := 0, d := (match o.t with | some t => t | none => 0), a := fieldOf o.v,
    low := .regs o.b.n (gmSlot o.gm) { noMods with ds := o.t.isSome, sb := o.b.s, m := gmBit o.gm ||| o.eng.setWidth 9 } }
def CardOp.fields (op : BitVec 8) (o : CardOp) : Fields :=
  { op := op, g := o.g, nf := false, sz := 0, d := 0, a := fieldOf o.v,
    low := .regs o.b.n (gmSlot o.gm) { noMods with sb := o.b.s, m := gmBit o.gm } }
def HaltOp.fields (op : BitVec 8) (o : HaltOp) : Fields :=
  { op := op, g := o.g, nf := false, sz := 0, d := 0, a := o.a, low := .regs o.b 0 { noMods with sa := true, sb := true } }
def RdwregOp.fields (op : BitVec 8) (o : RdwregOp) : Fields :=
  { op := op, g := o.g, nf := false, sz := 0, d := o.d, a := o.h,
    low := .regs o.b.n o.c.n { noMods with sa := true, sb := o.b.s, sc := o.c.s } }
def DrainOp.fields (mode : BitVec 9) (o : DrainOp) : Fields :=
  { op := 0xDD, g := o.g, nf := false, sz := 0, d := o.d.n, a := o.a,
    low := .regs o.b 0 { noMods with ds := o.d.s, sa := true, sb := true, m := mode } }

/-- The fields of an instruction word; none for the steps of other agents, which are no words. -/
def Instr.fields : Instr → Option Fields
  | .nop o => some (fieldsBase 0x00 o.g)
  | .iadd o => some (o.fields 0x01)
  | .isub o => some (o.fields 0x02)
  | .imul o => some (o.fields 0x03)
  | .imulh o => some (o.fields 0x04)
  | .imulhn o => some (o.fields 0x05)
  | .imad o => some (o.fields 0x06)
  | .iadd3 o => some (o.fields 0x07)
  | .imin o => some (o.fields 0x08)
  | .imax o => some (o.fields 0x09)
  | .nmin o => some (o.fields 0x0A)
  | .nmax o => some (o.fields 0x0B)
  | .iabs o => some (o.fields 0x0C)
  | .ineg o => some (o.fields 0x0D)
  | .iaddc o => some (o.fields 0x0E)
  | .isubb o => some (o.fields 0x0F)
  | .andw o => some (o.fields 0x10)
  | .orw o => some (o.fields 0x11)
  | .xorw o => some (o.fields 0x12)
  | .notw o => some (o.fields 0x13)
  | .lop3 o => some { op := 0x14, g := o.g, nf := false, sz := 0, d := o.d.n, a := o.a.n,
                      low := .regs o.b.n o.c.n { noMods with ds := o.d.s, sa := o.a.s, sb := o.b.s, sc := o.c.s,
                                                             m := o.lut.setWidth 9 } }
  | .shl o => some (o.fields 0x15)
  | .shr o => some (o.fields 0x16)
  | .sar o => some (o.fields 0x17)
  | .rotl o => some (o.fields 0x18)
  | .funnel o => some (o.fields 0x19)
  | .popc o => some (o.fields 0x1A)
  | .clz o => some (o.fields 0x1B)
  | .ctz o => some (o.fields 0x1C)
  | .brev o => some (o.fields 0x1D)
  | .bfx o => some (o.fields 0x1E)
  | .bfi o => some (o.fields 0x1F)
  | .idiv o => some (o.fields 0x20)
  | .ndiv o => some (o.fields 0x21)
  | .irem o => some (o.fields 0x22)
  | .nrem o => some (o.fields 0x23)
  | .isad o => some (o.fields 0x24)
  | .idot4 o => some (o.fields 0x25)
  | .idot2 o => some (o.fields 0x26)
  | .prmt o => some (o.fields 0x27)
  | .mov o => some { op := 0x28, g := o.g, nf := false, sz := szOf o.pair, d := o.d.n, a := o.a.n,
                     low := .regs 0 0 { noMods with ds := o.d.s, sa := o.a.s } }
  | .movi o => some { op := 0x29, g := o.g, nf := false, sz := o.sz, d := o.d, a := 0, low := .imm o.imm }
  | .movs o => some { op := 0x2A, g := o.g, nf := false, sz := 0, d := o.d.n, a := o.sa,
                      low := .regs o.b.n 0 { noMods with ds := o.d.s, sa := true, sb := o.b.s } }
  | .smovv o => some { op := 0x2B, g := o.g, nf := false, sz := 0, d := o.sd, a := o.a,
                       low := .regs 0 0 { noMods with ds := true } }
  | .iadd64 o => some (o.fields 0x2C)
  | .isub64 o => some (o.fields 0x2D)
  | .imul64 o => some (o.fields 0x2E)
  | .sel o => some { op := 0x2F, g := o.g, nf := false, sz := szOf o.pair, d := o.d.n, a := o.a.n,
                     low := .regs o.b.n (fieldOf o.p) { noMods with ds := o.d.s, sa := o.a.s, sb := o.b.s } }
  | .fadd o => some (o.fields 0x30)
  | .fsub o => some (o.fields 0x31)
  | .fmul o => some (o.fields 0x32)
  | .ffma o => some (o.fields 0x33)
  | .fmin o => some (o.fields 0x34)
  | .fmax o => some (o.fields 0x35)
  | .fabs o => some (o.fields 0x36)
  | .fneg o => some (o.fields 0x37)
  | .fdiv o => some (o.fields 0x38)
  | .fsqrt o => some (o.fields 0x39)
  | .frcp o => some (o.fields 0x3A)
  | .frsq o => some (o.fields 0x3B)
  | .fexp2 o => some (o.fields 0x3C)
  | .flog2 o => some (o.fields 0x3D)
  | .fsin o => some (o.fields 0x3E)
  | .fcos o => some (o.fields 0x3F)
  | .ftanh o => some (o.fields 0x40)
  | .fclass o => some (o.fields 0x41)
  | .fcopysign o => some (o.fields 0x42)
  | .ffract o => some (o.fields 0x43)
  | .fround o => some (o.fields 0x44)
  | .fscale o => some (o.fields 0x45)
  | .fgetexp o => some (o.fields 0x46)
  | .hadd2 o => some (o.fields 0x48)
  | .hmul2 o => some (o.fields 0x49)
  | .hfma2 o => some (o.fields 0x4A)
  | .hmin2 o => some (o.fields 0x4B)
  | .hmax2 o => some (o.fields 0x4C)
  | .hdot2 o => some (o.fields 0x4D)
  | .qdot4 o => some (o.fields 0x4E)
  | .cvtf2i o => some (o.fields 0x50)
  | .cvti2f o => some (o.fields 0x51)
  | .cvtf2f o => some (o.fields 0x52)
  | .cvti2i o => some (o.fields 0x53)
  | .pack o => some { op := 0x54, g := o.g, nf := false, sz := o.sz, d := o.d.n, a := o.a.n,
                      low := .regs o.b.n 0 { noMods with rm := o.rm.code, sat := o.sat, ds := o.d.s, sa := o.a.s,
                                                         sb := o.b.s, m := o.t.setWidth 9 } }
  | .unpack o => some { op := 0x55, g := o.g, nf := false, sz := o.sz, d := o.d.n, a := o.a.n,
                        low := .regs 0 0 { noMods with ds := o.d.s, sa := o.a.s, m := (o.t ++ 0#4).setWidth 9 } }
  | .qnt8Scale o => some { op := 0x56, g := o.g, nf := o.nf, sz := szOf o.e5, d := o.d.n, a := o.a.n,
                           low := .regs 0 0 { noMods with ds := o.d.s, sa := o.a.s, m := 0x100 } }
  | .qnt8 o => some (o.fields 0x56)
  | .dqnt8 o => some (o.fields 0x57)
  | .isetp o => some (o.fields 0x60)
  | .nsetp o => some (o.fields 0x61)
  | .fsetp o => some (o.fields 0x62)
  | .plop o => some { op := 0x63, g := o.g, nf := false, sz := 0, d := fieldOf o.pd, a := fieldOf o.pa,
                      low := .regs (fieldOf o.pb) (fieldOf o.pc) { noMods with m := o.lut.setWidth 9 } }
  | .pmovGet o => some { fieldsBase 0x64 o.g with d := o.d }
  | .pmovSet o => some { fieldsBase 0x64 o.g with
                         a := o.a.n, low := .regs 0 0 { noMods with sa := o.a.s, m := 2#2 ++ o.mask } }
  | .fset o => some (o.fields 0x65)
  | .iset o => some (o.fields 0x66)
  | .shfl o => some { op := 0x70, g := o.g, nf := false, sz := szOf o.pair, d := o.d, a := o.a.n,
                      low := .regs o.b.n (fieldOf o.pc) { noMods with sa := o.a.s, sb := o.b.s,
                                                                      m := (o.w ++ o.m).setWidth 9 } }
  | .qxch o => some (o.fields 0x71)
  | .qbcast o => some (o.fields 0x72)
  | .vote o => some { fieldsBase 0x73 o.g with
                      d := fieldOf o.pd, a := fieldOf o.pa, low := .regs 0 0 { noMods with m := (bit o.n ++ o.op).setWidth 9 } }
  | .voteBallot o => some { fieldsBase 0x73 o.g with
                            sz := szOf o.pair, d := o.d.n, a := fieldOf o.pa,
                            low := .regs 0 0 { noMods with ds := o.d.s, m := (bit o.n ++ 3#2).setWidth 9 } }
  | .redux o => some (o.fields 0x74)
  | .fredux o => some { op := 0x75, g := o.g, nf := o.nf, sz := 0, d := o.d.n, a := o.a.n,
                        low := .regs 0 0 { noMods with rm := o.rm.code, ds := o.d.s, sa := o.a.s, m := o.op.setWidth 9 } }
  | .matchAny o => some { fieldsBase 0x76 o.g with
                          sz := szOf o.pair, d := o.d, a := o.a.n, low := .regs 0 0 { noMods with sa := o.a.s } }
  | .matchAll o => some { fieldsBase 0x76 o.g with
                          sz := szOf o.pair, d := fieldOf o.pd, a := o.a.n,
                          low := .regs 0 0 { noMods with sa := o.a.s, m := 1 } }
  | .elect o => some { fieldsBase 0x77 o.g with d := fieldOf o.pd }
  | .prefixScan o => some (o.fields 0x79)
  | .readlane o => some { op := 0x7A, g := o.g, nf := false, sz := szOf o.pair, d := o.d.n, a := o.a,
                          low := lowOf o.b { noMods with ds := o.d.s } }
  | .writelane o => some { op := 0x7B, g := o.g, nf := false, sz := szOf o.pair, d := o.d, a := o.a,
                           low := lowOf o.b { noMods with sa := true } }
  | .bra o => some (fieldsImm 0x80 o.g o.off)
  | .brx o => some { fieldsBase 0x81 o.g with a := o.a.n, low := .regs 0 0 { noMods with sa := o.a.s } }
  | .call o => some (fieldsImm 0x82 o.g o.off)
  | .callx o => some { fieldsBase 0x83 o.g with a := o.a.n, low := .regs 0 0 { noMods with sa := o.a.s } }
  | .ret o => some (fieldsBase 0x84 o.g)
  | .join o => some { fieldsImm 0x85 o.g o.t with d := fieldOf o.pd }
  | .exitw o => some (fieldsBase 0x86 o.g)
  | .trapw o => some (fieldsImm 0x87 o.g o.imm)
  | .brk o => some (fieldsImm 0x88 o.g o.imm)
  | .yieldw o => some (fieldsBase 0x89 o.g)
  | .pause o => some (fieldsImm 0x8A o.g (o.n.setWidth 32))
  | .openl o => some (o.fields 0x90)
  | .reopen o => some (o.fields 0x91)
  | .recall o => some (o.fields 0x92)
  | .flushl o => some (o.fields 0x93)
  | .ldl o => some o.fields
  | .stl o => some o.fields
  | .atoml o => some { op := 0x96, g := o.g, nf := false, sz := szOf o.pair, d := o.d, a := fieldOf o.ln,
                       low := .regs o.b.n (acb false o.ord o.scp) { noMods with sb := o.b.s, m := o.op.setWidth 9 } }
  | .lineq o => some { fieldsBase 0x98 o.g with
                       d := o.d, a := fieldOf o.ln, low := .regs 0 0 { noMods with m := o.q.setWidth 9 } }
  | .viewq o => some { fieldsBase 0x99 o.g with
                       d := o.d.n, a := fieldOf o.v, low := .regs 0 0 { noMods with ds := o.d.s, m := o.f.setWidth 9 } }
  | .pref o => some { fieldsBase 0x9A o.g with
                      a := fieldOf o.v, low := .regs o.b.n 0 { noMods with sb := o.b.s, m := if o.t then 1 else 0 } }
  | .lds o => some (o.fields 0xA0)
  | .sts o => some { op := 0xA1, g := o.g, nf := false, sz := o.sz, d := o.d.n, a := fieldOf o.v,
                     low := .regs o.b.n 0 { noMods with ds := o.d.s, sb := o.b.s } }
  | .atoms o => some { op := 0xA2, g := o.g, nf := false, sz := szOf o.pair, d := o.d, a := fieldOf o.v,
                       low := .regs o.b.n o.c.n { noMods with sb := o.b.s, sc := o.c.s,
                                                              m := 0#1 ++ bit o.gang ++ o.ord.code ++ o.op } }
  | .ldsmB64 o => some (o.fields 0xA3)
  | .ldsmB128 o => some { o.fields 0xA3 with sz := 1 }
  | .waita o => some { fieldsBase 0xA4 o.g with
                       d := fieldOf o.pd, a := fieldOf o.v,
                       low := .regs o.b.n o.c.n { noMods with sb := o.b.s, sc := o.c.s, m := (o.scp.code ++ o.cmp).setWidth 9 } }
  | .siga o => some { fieldsBase 0xA5 o.g with
                      a := fieldOf o.v,
                      low := .regs o.b.n o.c.n { noMods with sb := o.b.s, sc := o.c.s, m := o.scp.code.setWidth 9 } }
  | .fence o => some { fieldsBase 0xA8 o.g with low := .regs 0 0 { noMods with m := (o.scp.code ++ o.kind).setWidth 9 } }
  | .bar o => some { fieldsBase 0xA9 o.g with
                     low := .regs (match o.n with | some n => n | none => 0) 0
                       { noMods with sb := o.n.isSome, m := (bit o.n.isSome ++ o.k).setWidth 9 } }
  | .gbar o => some { fieldsBase 0xAB o.g with low := .regs 0 0 { noMods with m := o.k.setWidth 9 } }
  | .waitf o => some (fieldsImm 0xAC o.g (o.mask.setWidth 32))
  | .barbPost o => some { fieldsBase 0xAA o.g with
                          d := o.d, a := fieldOf o.v, low := .regs o.b.n o.c.n { noMods with sb := o.b.s, sc := o.c.s } }
  | .barbWait o => some { fieldsBase 0xAA o.g with
                          a := fieldOf o.v, low := .regs o.b.n o.c.n { noMods with sb := o.b.s, sc := o.c.s, m := 1 } }
  | .send o => some { fieldsBase 0xAD o.g with
                      d := fieldOf o.pd, a := fieldOf o.v,
                      low := .regs o.b.n o.c.n { noMods with sb := o.b.s, sc := o.c.s, m := o.n1.setWidth 9 } }
  | .ringadv o => some { fieldsBase 0xAE o.g with
                         d := o.d.n, a := fieldOf o.v,
                         low := .regs o.b.n o.c.n { noMods with ds := o.d.s, sb := o.b.s, sc := o.c.s } }
  | .cpy o => some (o.fields 0xB0)
  | .cpyf o => some (o.fields 0xB1)
  | .cpyp o => some (o.fields 0xB2)
  | .cpyq o => some (o.fields 0xB3)
  | .gset o => some { fieldsBase 0xB4 o.g with d := fieldOf o.slot, low := lowOf o.b noMods }
  | .engwait o => some { fieldsBase 0xB5 o.g with a := fieldOf o.e, low := lowOf o.b noMods }
  | .mma o => some (o.fields 0xB8)
  | .mmalease o => some (fieldsImm 0xB9 o.g o.n)
  | .mmadrain o => some (o.fields 0xBA)
  | .mmazero o => some { fieldsBase 0xBB o.g with
                         d := fieldOf o.acc, low := .regs 0 (gmSlot o.gm) { noMods with m := gmBit o.gm } }
  | .attn o => some { fieldsBase 0xC0 o.g with
                      d := o.d, a := fieldOf o.v,
                      low := .regs o.b.n (gmSlot o.gm) { noMods with sb := o.b.s, m := gmBit o.gm } }
  | .kvappend o => some (o.fields 0xC1)
  | .kvmap o => some (o.fields 0xC2)
  | .kvrot o => some (o.fields 0xC3)
  | .embg o => some (o.fields 0xC4)
  | .embu o => some (o.fields 0xC5)
  | .embswap o => some (o.fields 0xC6)
  | .emit o => some { fieldsBase 0xC8 o.g with
                      d := fieldOf o.pd, a := o.h,
                      low := .regs 0 o.c.n { noMods with sa := true, sc := o.c.s, m := o.n1.setWidth 9 } }
  | .launch o => some { fieldsBase 0xC9 o.g with
                        d := fieldOf o.pd, a := fieldOf o.v, low := .regs o.b.n 0 { noMods with sb := o.b.s } }
  | .csrr o => some { fieldsBase 0xD0 o.g with
                      d := o.d.n, low := .regs ((o.csr.extractLsb' 8 4).setWidth 8) (o.csr.extractLsb' 0 8) { noMods with ds := o.d.s } }
  | .csrw o => some { fieldsBase 0xD1 o.g with
                      a := o.a.n, low := .regs ((o.csr.extractLsb' 8 4).setWidth 8) (o.csr.extractLsb' 0 8) { noMods with sa := o.a.s } }
  | .rdreg o => some { fieldsBase 0xD2 o.g with d := o.d, low := lowOf o.b noMods }
  | .wrreg o => some { fieldsBase 0xD3 o.g with a := o.a.n, low := lowOf o.b { noMods with sa := o.a.s } }
  | .tret o => some (fieldsImm 0xD4 { neg := false, pred := 7 } (if o.adj then 8 else 0))
  | .cinv o => some { fieldsBase 0xD5 o.g with a := o.a, low := .regs o.b 0 { noMods with sa := true, sb := true } }
  | .clock o => some { fieldsBase 0xD6 o.g with d := o.d.n, low := .regs 0 0 { noMods with ds := o.d.s } }
  | .haltb o => some (o.fields 0xD8)
  | .resumeb o => some (o.fields 0xD9)
  | .rdwreg o => some (o.fields 0xDA)
  | .wrwreg o => some { fieldsBase 0xDB o.g with
                        d := o.d.n, a := o.h,
                        low := .regs o.b.n o.c.n { noMods with ds := o.d.s, sa := true, sb := o.b.s, sc := o.c.s } }
  | .rdline o => some (o.fields 0xDC)
  | .drain0 o => some (o.fields 0)
  | .drain1 o => some (o.fields 1)
  | .callcv o => some (fieldsImm 0xDF o.g o.imm)
  | .illegalOpcode w => some (unpackWord w)
  | _ => none

/-! Parsing: each opcode's operands out of the fields. -/

def Fields.ibin (f : Fields) : IBin :=
  { g := f.g, d := f.rd, a := f.ra, b := f.src, sat := f.mods.sat, u := f.m.getLsbD 0 }
def Fields.iun (f : Fields) : IUn := { g := f.g, d := f.rd, a := f.ra, sat := f.mods.sat }
def Fields.iter (f : Fields) : ITer :=
  { g := f.g, d := f.rd, a := f.ra, b := f.rb, c := f.rc, sat := f.mods.sat, u := f.m.getLsbD 0, u1 := f.m.getLsbD 1 }
def Fields.carry (f : Fields) : Carry :=
  { g := f.g, d := f.rd, a := f.ra, b := f.rb, pin := predOf f.c, pout := f.m.extractLsb' 0 3 }
def Fields.fbin (f : Fields) : FBin :=
  { g := f.g, nf := f.nf, bf := f.pair, rm := rmodeOf f.mods.rm, sat := f.mods.sat, d := f.rd, a := f.ra, b := f.src }
def Fields.fter (f : Fields) : FTer :=
  { g := f.g, nf := f.nf, sz := f.sz, rm := rmodeOf f.mods.rm, sat := f.mods.sat, d := f.rd, a := f.ra, b := f.rb, c := f.rc }
def Fields.fun1 (f : Fields) : FUn :=
  { g := f.g, nf := f.nf, rm := rmodeOf f.mods.rm, x := f.m.getLsbD 0, d := f.rd, a := f.ra }
def Fields.cvt (f : Fields) : CvtOp :=
  { g := f.g, nf := f.nf, rm := rmodeOf f.mods.rm, sat := f.mods.sat, sz := f.sz, src := f.m.extractLsb' 4 4,
    dst := f.m.extractLsb' 0 4, d := f.rd, a := f.ra }
def Fields.qnt (f : Fields) : QntOp := { g := f.g, nf := f.nf, e5 := f.pair, d := f.rd, a := f.ra, b := f.rb }
def Fields.setp (f : Fields) : SetpOp :=
  { g := f.g, nf := f.nf, pair := f.pair, cmp := f.m.extractLsb' 0 4, comb := f.m.extractLsb' 4 2, pd := predOf f.d,
    a := f.ra, b := f.rb, pc := predOf f.c }
def Fields.set (f : Fields) : SetOp :=
  { g := f.g, nf := f.nf, pair := f.pair, u := f.m.getLsbD 6, cmp := f.m.extractLsb' 0 4, comb := f.m.extractLsb' 4 2,
    d := f.rd, a := f.ra, b := f.rb, pc := predOf f.c }
def Fields.quad (f : Fields) : QuadOp := { g := f.g, pair := f.pair, k := f.m.extractLsb' 0 2, d := f.d, a := f.ra }
def Fields.redux (f : Fields) : ReduxOp :=
  { g := f.g, pair := f.pair, op := f.m.extractLsb' 0 3, u := f.m.getLsbD 3, sat := f.mods.sat, x := f.m.getLsbD 4,
    d := f.rd, a := f.ra }
def Fields.bra (f : Fields) : BraOp := { g := f.g, off := f.imm }
def Fields.immOp (f : Fields) : ImmOp := { g := f.g, imm := f.imm }
def Fields.bare (f : Fields) : BareOp := { g := f.g }
def Fields.openOp (f : Fields) : OpenOp :=
  { g := f.g, mode := modeOf (f.m.extractLsb' 0 3), ln := predOf f.d, v := viewOf f.a, b := f.rb }
def Fields.off (f : Fields) : LineOff :=
  if f.m.getLsbD 8 then .reg f.rb else .imm (f.m.extractLsb' 0 8)
def Fields.ord (f : Fields) : Order := orderOf (f.c.extractLsb' 3 3)
def Fields.scp (f : Fields) : Scope := scopeOf (f.c.extractLsb' 0 3)
def Fields.ldsOp (f : Fields) : LdsOp := { g := f.g, sz := f.sz, d := f.d, v := viewOf f.a, b := f.rb }
def Fields.ldsmOp (f : Fields) : LdsOp := { g := f.g, sz := 0, d := f.d, v := viewOf f.a, b := f.rb }
def Fields.gm (f : Fields) : Option (BitVec 4) := if f.m.getLsbD 2 then some (slotOf f.c) else none
def Fields.cpy (f : Fields) : CpyOp :=
  { g := f.g, eng := f.m.extractLsb' 0 2, t := if f.mods.ds then some f.d else none, v := viewOf f.a, b := f.rb, gm := f.gm }
def Fields.card (f : Fields) : CardOp := { g := f.g, v := viewOf f.a, b := f.rb, gm := f.gm }
def Fields.csr (f : Fields) : BitVec 12 := f.b.extractLsb' 0 4 ++ f.c
def Fields.halt (f : Fields) : HaltOp := { g := f.g, a := f.a, b := f.b }
def Fields.rdw (f : Fields) : RdwregOp := { g := f.g, d := f.d, h := f.a, b := f.rb, c := f.rc }
def Fields.drain (f : Fields) : DrainOp := { g := f.g, d := f.rd, a := f.a, b := f.b }

/-- Rows 0x0_ to 0x2_ of the opcode map (07 Table 7.9). -/
def parse0 (f : Fields) : Nat → Option Instr
  | 0x0 => some (.nop f.bare)   | 0x1 => some (.iadd f.ibin)  | 0x2 => some (.isub f.ibin)  | 0x3 => some (.imul f.ibin)
  | 0x4 => some (.imulh f.ibin) | 0x5 => some (.imulhn f.ibin) | 0x6 => some (.imad f.iter) | 0x7 => some (.iadd3 f.iter)
  | 0x8 => some (.imin f.ibin)  | 0x9 => some (.imax f.ibin)  | 0xA => some (.nmin f.ibin)  | 0xB => some (.nmax f.ibin)
  | 0xC => some (.iabs f.iun)   | 0xD => some (.ineg f.iun)   | 0xE => some (.iaddc f.carry) | 0xF => some (.isubb f.carry)
  | _ => none

def parse1 (f : Fields) : Nat → Option Instr
  | 0x0 => some (.andw f.ibin)  | 0x1 => some (.orw f.ibin)   | 0x2 => some (.xorw f.ibin)  | 0x3 => some (.notw f.iun)
  | 0x4 => some (.lop3 { g := f.g, d := f.rd, a := f.ra, b := f.rb, c := f.rc, lut := f.m.extractLsb' 0 8 })
  | 0x5 => some (.shl f.ibin)   | 0x6 => some (.shr f.ibin)   | 0x7 => some (.sar f.ibin)   | 0x8 => some (.rotl f.ibin)
  | 0x9 => some (.funnel f.iter) | 0xA => some (.popc f.iun)  | 0xB => some (.clz f.iun)    | 0xC => some (.ctz f.iun)
  | 0xD => some (.brev f.iun)   | 0xE => some (.bfx f.iter)   | 0xF => some (.bfi f.iter)
  | _ => none

def parse2 (f : Fields) : Nat → Option Instr
  | 0x0 => some (.idiv f.ibin)  | 0x1 => some (.ndiv f.ibin)  | 0x2 => some (.irem f.ibin)  | 0x3 => some (.nrem f.ibin)
  | 0x4 => some (.isad f.iter)  | 0x5 => some (.idot4 f.iter) | 0x6 => some (.idot2 f.iter) | 0x7 => some (.prmt f.iter)
  | 0x8 => some (.mov { g := f.g, d := f.rd, a := f.ra, pair := f.pair })
  | 0x9 => some (.movi { g := f.g, d := f.d, sz := f.sz, imm := f.imm })
  | 0xA => some (.movs { g := f.g, d := f.rd, sa := f.a, b := f.rb })
  | 0xB => some (.smovv { g := f.g, sd := f.d, a := f.a })
  | 0xC => some (.iadd64 f.ibin) | 0xD => some (.isub64 f.ibin) | 0xE => some (.imul64 f.ibin)
  | 0xF => some (.sel { g := f.g, d := f.rd, a := f.ra, b := f.rb, p := predOf f.c, pair := f.pair })
  | _ => none

def parse3 (f : Fields) : Nat → Option Instr
  | 0x0 => some (.fadd f.fbin)  | 0x1 => some (.fsub f.fbin)  | 0x2 => some (.fmul f.fbin)  | 0x3 => some (.ffma f.fter)
  | 0x4 => some (.fmin f.fbin)  | 0x5 => some (.fmax f.fbin)  | 0x6 => some (.fabs f.fun1)  | 0x7 => some (.fneg f.fun1)
  | 0x8 => some (.fdiv f.fbin)  | 0x9 => some (.fsqrt f.fun1) | 0xA => some (.frcp f.fun1)  | 0xB => some (.frsq f.fun1)
  | 0xC => some (.fexp2 f.fun1) | 0xD => some (.flog2 f.fun1) | 0xE => some (.fsin f.fun1)  | 0xF => some (.fcos f.fun1)
  | _ => none

def parse4 (f : Fields) : Nat → Option Instr
  | 0x0 => some (.ftanh f.fun1) | 0x1 => some (.fclass f.fun1) | 0x2 => some (.fcopysign f.fbin) | 0x3 => some (.ffract f.fun1)
  | 0x4 => some (.fround f.fun1) | 0x5 => some (.fscale f.fbin) | 0x6 => some (.fgetexp f.fun1)
  | 0x8 => some (.hadd2 f.fbin) | 0x9 => some (.hmul2 f.fbin) | 0xA => some (.hfma2 f.fter) | 0xB => some (.hmin2 f.fbin)
  | 0xC => some (.hmax2 f.fbin) | 0xD => some (.hdot2 f.fter) | 0xE => some (.qdot4 f.fter)
  | _ => none

def parse5 (f : Fields) : Nat → Option Instr
  | 0x0 => some (.cvtf2i f.cvt) | 0x1 => some (.cvti2f f.cvt) | 0x2 => some (.cvtf2f f.cvt) | 0x3 => some (.cvti2i f.cvt)
  | 0x4 => some (.pack { g := f.g, rm := rmodeOf f.mods.rm, sat := f.mods.sat, sz := f.sz, t := f.m.extractLsb' 0 4,
                         d := f.rd, a := f.ra, b := f.rb })
  | 0x5 => some (.unpack { g := f.g, sz := f.sz, t := f.m.extractLsb' 4 4, d := f.rd, a := f.ra })
  | 0x6 => if f.m.getLsbD 8 then some (.qnt8Scale { g := f.g, nf := f.nf, e5 := f.pair, d := f.rd, a := f.ra })
           else some (.qnt8 f.qnt)
  | 0x7 => some (.dqnt8 f.qnt)
  | _ => none

def parse6 (f : Fields) : Nat → Option Instr
  | 0x0 => some (.isetp f.setp) | 0x1 => some (.nsetp f.setp) | 0x2 => some (.fsetp f.setp)
  | 0x3 => some (.plop { g := f.g, pd := predOf f.d, pa := predOf f.a, pb := predOf f.b, pc := predOf f.c,
                         lut := f.m.extractLsb' 0 8 })
  | 0x4 => if f.m.getLsbD 8 then some (.pmovSet { g := f.g, a := f.ra, mask := f.m.extractLsb' 0 7 })
           else some (.pmovGet { g := f.g, d := f.d })
  | 0x5 => some (.fset f.set)   | 0x6 => some (.iset f.set)
  | _ => none

def parse7 (f : Fields) : Nat → Option Instr
  | 0x0 => some (.shfl { g := f.g, pair := f.pair, m := f.m.extractLsb' 0 2, w := f.m.extractLsb' 2 3, d := f.d, a := f.ra,
                         b := f.rb, pc := predOf f.c })
  | 0x1 => some (.qxch f.quad)  | 0x2 => some (.qbcast f.quad)
  | 0x3 => if f.m.extractLsb' 0 2 = 3 then
             some (.voteBallot { g := f.g, pair := f.pair, n := f.m.getLsbD 2, d := f.rd, pa := predOf f.a })
           else some (.vote { g := f.g, op := f.m.extractLsb' 0 2, n := f.m.getLsbD 2, pd := predOf f.d, pa := predOf f.a })
  | 0x4 => some (.redux f.redux)
  | 0x5 => some (.fredux { g := f.g, nf := f.nf, rm := rmodeOf f.mods.rm, op := f.m.extractLsb' 0 2, d := f.rd, a := f.ra })
  | 0x6 => if f.m.getLsbD 0 then some (.matchAll { g := f.g, pair := f.pair, pd := predOf f.d, a := f.ra })
           else some (.matchAny { g := f.g, pair := f.pair, d := f.d, a := f.ra })
  | 0x7 => some (.elect { g := f.g, pd := predOf f.d })
  | 0x9 => some (.prefixScan f.redux)
  | 0xA => some (.readlane { g := f.g, pair := f.pair, d := f.rd, a := f.a, b := f.src })
  | 0xB => some (.writelane { g := f.g, pair := f.pair, d := f.d, a := f.a, b := f.src })
  | _ => none

def parse8 (f : Fields) : Nat → Option Instr
  | 0x0 => some (.bra f.bra)    | 0x1 => some (.brx { g := f.g, a := f.ra })
  | 0x2 => some (.call f.bra)   | 0x3 => some (.callx { g := f.g, a := f.ra })
  | 0x4 => some (.ret f.bare)   | 0x5 => some (.join { g := f.g, pd := predOf f.d, t := f.imm })
  | 0x6 => some (.exitw f.bare) | 0x7 => some (.trapw f.immOp) | 0x8 => some (.brk f.immOp) | 0x9 => some (.yieldw f.bare)
  | 0xA => some (.pause { g := f.g, n := f.imm.extractLsb' 0 16 })
  | _ => none

def parse9 (f : Fields) : Nat → Option Instr
  | 0x0 => some (.openl f.openOp) | 0x1 => some (.reopen f.openOp)
  | 0x2 => some (.recall { g := f.g, ln := predOf f.d }) | 0x3 => some (.flushl { g := f.g, ln := predOf f.d })
  | 0x4 => some (.ldl { g := f.g, sz := f.sz, d := f.d, ln := predOf f.a, off := f.off, sx := f.c.getLsbD 6, ord := f.ord,
                        scp := f.scp })
  | 0x5 => some (.stl { g := f.g, sz := f.sz, d := f.rd, ln := predOf f.a, off := f.off, ord := f.ord, scp := f.scp })
  | 0x6 => some (.atoml { g := f.g, pair := f.pair, op := f.m.extractLsb' 0 4, d := f.d, ln := predOf f.a, b := f.rb,
                          ord := f.ord, scp := f.scp })
  | 0x8 => some (.lineq { g := f.g, q := f.m.extractLsb' 0 2, d := f.d, ln := predOf f.a })
  | 0x9 => some (.viewq { g := f.g, f := f.m.extractLsb' 0 4, d := f.rd, v := viewOf f.a })
  | 0xA => some (.pref { g := f.g, t := f.m.getLsbD 0, v := viewOf f.a, b := f.rb })
  | _ => none

def parseA (f : Fields) : Nat → Option Instr
  | 0x0 => some (.lds f.ldsOp)
  | 0x1 => some (.sts { g := f.g, sz := f.sz, d := f.rd, v := viewOf f.a, b := f.rb })
  | 0x2 => some (.atoms { g := f.g, pair := f.pair, op := f.m.extractLsb' 0 4, ord := orderOf (f.m.extractLsb' 4 3),
                          gang := f.m.getLsbD 7, d := f.d, v := viewOf f.a, b := f.rb, c := f.rc })
  | 0x3 => if f.sz = 1 then some (.ldsmB128 f.ldsmOp) else some (.ldsmB64 f.ldsmOp)
  | 0x4 => some (.waita { g := f.g, cmp := f.m.extractLsb' 0 3, scp := scopeOf (f.m.extractLsb' 3 3), pd := predOf f.d,
                          v := viewOf f.a, b := f.rb, c := f.rc })
  | 0x5 => some (.siga { g := f.g, scp := scopeOf (f.m.extractLsb' 0 3), v := viewOf f.a, b := f.rb, c := f.rc })
  | 0x8 => some (.fence { g := f.g, kind := f.m.extractLsb' 0 2, scp := scopeOf (f.m.extractLsb' 2 3) })
  | 0x9 => some (.bar { g := f.g, k := f.m.extractLsb' 0 3, n := if f.m.getLsbD 3 then some f.b else none })
  | 0xA => if f.m.getLsbD 0 then some (.barbWait { g := f.g, v := viewOf f.a, b := f.rb, c := f.rc })
           else some (.barbPost { g := f.g, d := f.d, v := viewOf f.a, b := f.rb, c := f.rc })
  | 0xB => some (.gbar { g := f.g, k := f.m.extractLsb' 0 2 })
  | 0xC => some (.waitf { g := f.g, mask := f.imm.extractLsb' 0 12 })
  | 0xD => some (.send { g := f.g, n1 := f.m.extractLsb' 0 4, pd := predOf f.d, v := viewOf f.a, b := f.rb, c := f.rc })
  | 0xE => some (.ringadv { g := f.g, d := f.rd, v := viewOf f.a, b := f.rb, c := f.rc })
  | _ => none

def parseB (f : Fields) : Nat → Option Instr
  | 0x0 => some (.cpy f.cpy)    | 0x1 => some (.cpyf f.cpy)   | 0x2 => some (.cpyp f.cpy)   | 0x3 => some (.cpyq f.cpy)
  | 0x4 => some (.gset { g := f.g, slot := slotOf f.d, b := f.src })
  | 0x5 => some (.engwait { g := f.g, e := f.a.extractLsb' 0 2, b := f.src })
  | 0x8 => some (.mma f.card)   | 0x9 => some (.mmalease { g := f.g, n := f.imm }) | 0xA => some (.mmadrain f.card)
  | 0xB => some (.mmazero { g := f.g, acc := predOf f.d, gm := f.gm })
  | _ => none

def parseC (f : Fields) : Nat → Option Instr
  | 0x0 => some (.attn { g := f.g, d := f.d, v := viewOf f.a, b := f.rb, gm := f.gm })
  | 0x1 => some (.kvappend f.card) | 0x2 => some (.kvmap f.card) | 0x3 => some (.kvrot f.card) | 0x4 => some (.embg f.card)
  | 0x5 => some (.embu f.card)  | 0x6 => some (.embswap f.card)
  | 0x8 => some (.emit { g := f.g, n1 := f.m.extractLsb' 0 4, pd := predOf f.d, h := f.a, c := f.rc })
  | 0x9 => some (.launch { g := f.g, pd := predOf f.d, v := viewOf f.a, b := f.rb })
  | _ => none

def parseD (f : Fields) : Nat → Option Instr
  | 0x0 => some (.csrr { g := f.g, d := f.rd, csr := f.csr })
  | 0x1 => some (.csrw { g := f.g, csr := f.csr, a := f.ra })
  | 0x2 => some (.rdreg { g := f.g, d := f.d, b := f.src })
  | 0x3 => some (.wrreg { g := f.g, b := f.src, a := f.ra })
  | 0x4 => some (.tret { adj := f.imm == 8 })
  | 0x5 => some (.cinv { g := f.g, a := f.a, b := f.b })
  | 0x6 => some (.clock { g := f.g, d := f.rd })
  | 0x8 => some (.haltb f.halt) | 0x9 => some (.resumeb f.halt) | 0xA => some (.rdwreg f.rdw)
  | 0xB => some (.wrwreg { g := f.g, d := f.rd, h := f.a, b := f.rb, c := f.rc })
  | 0xC => some (.rdline f.rdw)
  | 0xD => if f.m.getLsbD 0 then some (.drain1 f.drain) else some (.drain0 f.drain)
  | 0xF => some (.callcv f.immOp)
  | _ => none

/-- The instruction an opcode's fields name, before the range checks; none for a reserved cell (07 Table 7.9). -/
def parse (f : Fields) : Option Instr :=
  match (f.op.extractLsb' 4 4).toNat with
  | 0x0 => parse0 f (f.op.extractLsb' 0 4).toNat
  | 0x1 => parse1 f (f.op.extractLsb' 0 4).toNat
  | 0x2 => parse2 f (f.op.extractLsb' 0 4).toNat
  | 0x3 => parse3 f (f.op.extractLsb' 0 4).toNat
  | 0x4 => parse4 f (f.op.extractLsb' 0 4).toNat
  | 0x5 => parse5 f (f.op.extractLsb' 0 4).toNat
  | 0x6 => parse6 f (f.op.extractLsb' 0 4).toNat
  | 0x7 => parse7 f (f.op.extractLsb' 0 4).toNat
  | 0x8 => parse8 f (f.op.extractLsb' 0 4).toNat
  | 0x9 => parse9 f (f.op.extractLsb' 0 4).toNat
  | 0xA => parseA f (f.op.extractLsb' 0 4).toNat
  | 0xB => parseB f (f.op.extractLsb' 0 4).toNat
  | 0xC => parseC f (f.op.extractLsb' 0 4).toNat
  | 0xD => parseD f (f.op.extractLsb' 0 4).toNat
  | _ => none

/-- Why bytes are no instruction. -/
inductive DecodeError where
  /-- Fewer than eight bytes are left. -/
  | truncated
  /-- A field, modifier or operand outside its table: RESERVED_FIELD (07 R167, R168). -/
  | reservedField
  deriving DecidableEq, Repr

/-- The instruction of a word. A reserved cell is the illegal-opcode instruction (07 R170); a word of a defined opcode whose
fields are not those of a well-formed instruction is refused. -/
def decodeWord (w : W64) : Except DecodeError Instr :=
  match parse (unpackWord w) with
  | none => .ok (.illegalOpcode w)
  | some i => if WellFormed i && i.fields == some (unpackWord w) then .ok i else .error .reservedField

/-- The word of an instruction; none for a step of another agent. -/
def encode (i : Instr) : Option W64 := i.fields.map packWord

/-- The 64-bit word of eight bytes, the first least significant (00 R3). -/
def wordOfBytes (b0 b1 b2 b3 b4 b5 b6 b7 : Byte) : W64 := b7 ++ b6 ++ b5 ++ b4 ++ b3 ++ b2 ++ b1 ++ b0

/-- The eight bytes of a word as memory holds them (00 R3). -/
def bytesOfWord (w : W64) : List Byte :=
  [w.extractLsb' 0 8, w.extractLsb' 8 8, w.extractLsb' 16 8, w.extractLsb' 24 8, w.extractLsb' 32 8, w.extractLsb' 40 8,
   w.extractLsb' 48 8, w.extractLsb' 56 8]

/-- Decoding from bytes: the instruction and the bytes after it. -/
def decodeBytes : List Byte → Except DecodeError (Instr × List Byte)
  | b0 :: b1 :: b2 :: b3 :: b4 :: b5 :: b6 :: b7 :: rest =>
    match decodeWord (wordOfBytes b0 b1 b2 b3 b4 b5 b6 b7) with
    | .ok i => .ok (i, rest)
    | .error e => .error e
  | _ => .error .truncated

/-- The instruction decoded from a word whose bits are numbered as the opcode table numbers them. -/
def decodeTableWord (nbits w : Nat) : Option Instr :=
  match decodeBytes (bytesOfWord (BitVec.ofNat 64 (w % 2 ^ nbits))) with
  | .ok (i, _) => some i
  | .error _ => none

/-- A clause header (07 Table 7.1). -/
structure Header where
  cls   : BitVec 4
  count : BitVec 4
  wait  : BitVec 12
  sa    : Bool
  fa    : BitVec 4
  sb    : Bool
  fb    : BitVec 4
  stall : BitVec 4
  sbh   : BitVec 6
  prio  : BitVec 12
  jp    : Bool
  rsv   : BitVec 11
  deriving DecidableEq, Repr

/-- The fields of a clause header (07 R153). -/
def unpackHeader (w : W64) : Header :=
  { cls := w.extractLsb' 60 4, count := w.extractLsb' 56 4, wait := w.extractLsb' 44 12, sa := w.getLsbD 43,
    fa := w.extractLsb' 39 4, sb := w.getLsbD 38, fb := w.extractLsb' 34 4, stall := w.extractLsb' 30 4,
    sbh := w.extractLsb' 24 6, prio := w.extractLsb' 12 12, jp := w.getLsbD 11, rsv := w.extractLsb' 0 11 }

/-- A header that raises RESERVED_FIELD (07 R154). -/
def Header.bad (h : Header) : Bool :=
  6 ≤ h.cls.toNat || 12 ≤ h.fa.toNat || 12 ≤ h.fb.toNat || (!h.sa && h.fa != 0) || (!h.sb && h.fb != 0) || h.rsv != 0

/-- Whether a clause of a class admits an opcode below 0xE0 (07 Table 7.2): control words stand last, or anywhere in class 5. -/
def classAdmits (cls op : Nat) (last : Bool) : Bool :=
  if 0x80 ≤ op && op ≤ 0x8F then cls == 5 || last
  else match cls with
    | 0 => op ≤ 0x6F
    | 1 => 0x70 ≤ op && op ≤ 0x7F
    | 2 => 0x90 ≤ op && op ≤ 0xAF
    | 3 => 0xB0 ≤ op && op ≤ 0xCF
    | 4 => 0xD0 ≤ op && op ≤ 0xDF
    | _ => false

/-- A flag-counted opcode (07 R158). -/
def flagCounted (op : Nat) : Bool :=
  [0xB0, 0xB1, 0xB2, 0xB3, 0xB8, 0xBA, 0xBB, 0xC0, 0xC1, 0xC2, 0xC3, 0xC4, 0xC5, 0xC6].contains op

/-- A privileged opcode (07 R170). -/
def privileged (op : Nat) : Bool := (0xD8 ≤ op && op ≤ 0xDD) || op == 0xDF

end Sys2Proof
end

