-- ==== Sys2Proof/Config.lean ====
section
/-! DEFINITION. What an implementation fixes and what the manual leaves open. An opaque constant is a free
value: no proof can see what it is, so a claim holds whatever it is. -/

namespace Sys2Proof.Config

/-- Arithmetic-clock cycles that pass in the n-th step of the module: the manual gives no instruction
timing (07 R162, 08 R178). Free value, log 2. -/
opaque elapsed : Nat → Nat

/-- Which of the results within the bound of 04 R88 an approximated function delivers for an operand: a
signed place in the list of floats from the lower neighbour of the exact result. The result is deterministic in
the operand (04 R88). Free value, log 7. `fn` numbers the seven functions by their opcode. -/
opaque approxPlace : (fn : Nat) → W32 → Int

/-- SHA3-256 of a byte string (18 R334, 24 R414): an uninterpreted function, log 16. -/
opaque sha3 : List Byte → BitVec 256

/-- The address the loader gave an external symbol of an object in a context (13 R309). Free value, log 16. -/
opaque symbolVa : Nat → List Byte → Nat

/-- Whether an ML-DSA-44 signature verifies over a digest (18 R334, 24 R414): uninterpreted, log 16. -/
opaque verifies : BitVec 256 → List Byte → Bool

/-- Which of a die's units a unit number of FRZSEL selects (24 R418 gives no unit numbers). Free value, log 22. -/
opaque frzUnit : Nat → Nat

/-- What a peer home answers a request for a line in a step: nothing when it refuses (24 R411), else the microseconds until its acknowledgement (24
R412). Free value, log 17. -/
opaque peerAnswer : Nat → Nat → Option Nat

/-- The identification code of the test port (24 R418 gives none). Free value, log 22. -/
opaque idcode : W32

/-- Which element a port hash picks among the usable ports (24 R412 gives no hash). Free value, log 22. -/
opaque portHash : Nat → Nat

/-- The bytes of the parts of a save record whose inner layout the manual does not give (21 R390): a
free value of the save count and the offset, log 23. -/
opaque saveByte : Nat → Nat → Byte

/-- A word the module reads where the manual gives it no value: a promotion sequence word without a translation (19 R353). Free value,
log 30. -/
opaque freeWord : Nat → W32

/-- The size of a translation, which the manual bounds by 1 and 127 blocks only (18 Table 18.1). Free value, log 24. -/
opaque tagBlocks : Nat → Nat

/-- The place, among the active lanes, of the one whose result a scalar destination takes when their results differ: 07 R169 says that the
s-register is written once, and no rule says from which lane. Free value, log 54. -/
opaque scalarPick : List Nat → Nat

/-- Which of a warp's relaxed stores is performed next in a round of moves, or none: the manual gives them no order (06 R136, R141). Free value,
log 3. -/
opaque performs : Nat → Nat

/-- Box number and element index in TFAUX of a payload access that lies in no box of its card: a map entry, a table row, a pool row outside its box (11
Table 11.5). Free value, log 85. -/
opaque noBox : Nat → Nat

/-- Whether the turn passes to another warp after a word, with the clause still in progress: the slots of the module issue side by side, and the manual gives no order
between their words (02 R45). Free value, log 1. -/
opaque yields : Nat → Bool

/-- The module number in TFAUX of a warp that meets the registration of an incoming RoCE access, which comes from no module of the fabric (06 Table 6.6, 24
R413). Free value, log 17. -/
opaque roceMod : Nat → Nat

/-- The core that TFAUX names where an access meets the storage of an embedding table, which every core of the module shares (12 R294). Free value,
log 78. -/
opaque sorrelCore : Nat → Nat

/-- Cores of the module (01 R18). -/
def numCores : Nat := 144
/-- Cores of one die (01 R18). -/
def coresPerDie : Nat := 36
/-- Dies of the module (01 R17). -/
def numDies : Nat := 4
/-- Bytes of a core's scratchpad (01 Table 1.2). -/
def scratchBytes : Nat := 1572864
/-- Lines of a core's line store (05 R105). -/
def lineStoreLines : Nat := 6144
/-- Cards of one engine queue (11 R263). -/
def queueDepth : Nat := 64
/-- Native contexts of one issue slot (01 R20). -/
def slotContexts : Nat := 24
/-- Register bytes of one issue slot (01 R20). -/
def slotRegBytes : Nat := 262144
/-- Bytes of one operand FIFO (01 Table 1.2). -/
def fifoBytes : Nat := 32768
/-- The stepping of a die, held against the STEPPING of an object (07 R162). DESIGN CHOICE, log 24. -/
def dieStepping : BitVec 16 := 0
/-- Translations of a core TLB (19 R342). -/
def tlbEntries : Nat := 4096
/-- 1 KiB blocks of a die's translation cache (18 R324). -/
def tcacheBlocks : Nat := 8192
/-- Records of a die's pending-launch store (12 R300). -/
def pendingLaunches : Nat := 65536

end Sys2Proof.Config
end

