-- ==== Sys2Proof/Machine/State.lean ====
section
/-! DEFINITION. The state of the module as plain data, the reasons a step can stop, and the state after reset.
Every field cites the rule of spec/ that names it; what is the model's own says so. -/

namespace Sys2Proof.Machine

open Sys2Proof

/-- A 32-bit value with its poison bit (03 R55). -/
structure PW where
  val : W32
  poison : Bool
  deriving DecidableEq, Repr

/-- A predicate lane with its poison bit (03 R55). -/
structure PB where
  val : Bool
  poison : Bool
  deriving DecidableEq, Repr

/-- A view descriptor (05 Table 5.1). -/
structure View where
  base   : VAddr
  rank   : Nat
  etype  : BitVec 4
  space  : BitVec 3
  rd     : Bool
  wr     : Bool
  oobZero : Bool
  bpmask : BitVec 5
  ext    : List W32
  str    : List W32
  peer   : BitVec 16
  deriving DecidableEq, Repr

/-- A lane's binding in a line register (05 R53, R100). `line` is the 128-aligned virtual address. -/
inductive Bind where
  | unbound
  | bound    (line : VAddr) (view : BitVec 6) (mode : Mode) (cursor : BitVec 7)
  | zero     (line : VAddr) (view : BitVec 6) (mode : Mode) (cursor : BitVec 7)
  | poisoned (addr : VAddr) (view : BitVec 6) (mode : Mode) (cursor : BitVec 7)
  deriving DecidableEq, Repr

/-- A cached translation (19 R342): a page of 2^bits bytes. -/
structure Xlate where
  ctx  : Nat
  va   : VAddr
  bits : Nat
  pa   : PAddr
  rd   : Bool
  wr   : Bool
  ex   : Bool
  deriving DecidableEq, Repr

/-- The trap-frame CSRs of a lane (03 R57, R58). -/
structure TfCsrs where
  pc   : W32
  code : W32
  word : W64
  addr : VAddr
  mask : LaneMask
  aux  : W32
  deriving DecidableEq, Repr

/-- The registers of a lane (03 R50, R57; 05 R112; 09 R204; 19 R342; 21 R375). -/
structure Lane where
  v        : List PW
  p        : List PB
  flags    : FpFlags
  fpctl    : FpFlags
  cycleH   : W32
  tf       : TfCsrs
  origin   : Option VAddr
  spilled  : Nat
  stack    : List W64
  binds    : List Bind
  retired  : Bool
  handler  : Bool
  lastPage : Option Xlate
  deriving DecidableEq, Repr

/-- One lane's trap: its code, subcode, fault address and detail (21 R372, R373). -/
structure LaneTrap where
  lane : Nat
  code : Nat
  sub  : Nat
  addr : VAddr
  aux  : W32
  deriving DecidableEq, Repr

/-- One lane of a WAITA: the word it waits on and its test (10 R242, R243). -/
structure WaitWord where
  lane : Nat
  blk  : Nat
  off  : Nat
  cmp  : BitVec 3
  c    : W32
  sat  : Bool
  deriving DecidableEq, Repr

/-- One lane of a BARB wait: the record and its q (10 R249), and the word it waits at, which BARRIER_OVERRUN reports (21 R375). -/
structure WaitPhase where
  lane : Nat
  blk  : Nat
  off  : Nat
  q    : Bool
  word : W64
  deriving DecidableEq, Repr

/-- What a Waiting entry waits for (02 Table 2.2). `barrier` and `gbarrier` wait for a phase to leave; `join`,
`waita` and `pause` carry their deadlines as absolute cycles, and `frozen` deadlines are kept by the halt. -/
inductive Wait where
  | clauseWait
  | barrier (k : Nat) (phase : Bool)
  | gbarrier (k : Nat) (phase : Bool)
  | barb (ws : List WaitPhase)
  | waita (ws : List WaitWord) (pd : BitVec 3) (deadline : Option Nat)
  | waitf (mask : BitVec 12)
  | engwait (e : Nat) (ticket : W32)
  | join (pd : BitVec 3) (deadline : Option Nat)
  | pause (till : Nat)
  | warpWide
  | quadWide
  | callGroup
  | callReturned
  | mmaLease
  | cinv (lo hi : VAddr)
  | cardRoom (card : Nat)
  | translation (page : VAddr)
  | migration
  | tret (adj : Nat)
  | halts (ctx core : Nat)
  | drain (ctx core : Nat) (mode : Bool) (d : Option Reg)
  | chervil (svc : W32)
  deriving DecidableEq, Repr

/-- The state of a frontier entry (02 R34). -/
inductive EState where
  | runnable
  | waiting (w : Wait)
  | capBlocked
  | trapParked (traps : List LaneTrap) (word : W64)
  deriving DecidableEq, Repr

/-- A clause that an entry has begun and not finished, with the words from an address on as they were when it began: the clause runs on them to its end
(18 R326, R331, R336). -/
structure Begun where
  hdr   : W64
  hpc   : W64
  start : W64
  code  : List W64
  deriving DecidableEq, Repr

/-- A frontier or overflow entry (02 R34-R37). `retry` marks an entry whose word repeats for its own lanes after
a capacity block (05 R107); `woken` an entry whose wait has ended and whose parked lines are still to be re-pinned (05 R110);
`since` is the cycle its wait began (21 R381); `begun` is the clause inside which it waits (18 R331); `stay` is the cycle in which a migration first held the
access of its word (19 R351). -/
structure Entry where
  pc       : W64
  prio     : BitVec 12
  mask     : LaneMask
  st       : EState
  age      : Nat
  promoted : Option Nat
  overflow : Bool
  handler  : Bool
  retry    : Bool
  woken    : Bool
  since    : Nat
  begun    : Option Begun
  stay     : Option Nat
  deriving DecidableEq, Repr

/-- A line the warp holds (05 R102, R104, R109): `home` is the physical line it was filled from or bound to; `data` is its pinned copy, none for a
line held only in mode .S or parked clean; `dirty` has a bit per byte written and not yet written back. -/
structure HeldLine where
  line   : VAddr
  home   : PAddr
  parked : Bool
  pinned : Bool
  data   : List Byte
  dirty  : BitVec 128
  stale  : Bool
  lost   : Bool
  deriving DecidableEq, Repr

/-- A relaxed .S store that has been issued and not yet performed at its home (06 R136, R141, 17 R322, log 3). -/
structure PendStore where
  pa    : PAddr
  bytes : List Byte
  deriving DecidableEq, Repr

/-- A registration of a line by an agent of another module (06 R132, R142). -/
structure PeerReg where
  agent : PeerAgent
  line  : PAddr
  write : Bool
  deriving DecidableEq, Repr

/-- A registration of the warp's current region at a line's home (06 R127, R128). -/
structure Registration where
  line  : PAddr
  write : Bool
  deriving DecidableEq, Repr

/-- A call record of CALLX (09 R208): return address, groups not yet done in target order, lanes returned, and each
lane's depth before the call. -/
structure CallRecord where
  ra     : W64
  groups : List (W64 × LaneMask)
  lanes  : LaneMask
  returned : LaneMask
  depths : List Nat
  deriving DecidableEq, Repr

/-- A clause in progress: the issuing entry, its header, the number of words from the current one to the last, the current word, and
the later words as they were when the clause began (07 R151, 18 R331); `stay` is the cycle in which a migration first held the access of the first of
them (19 R351). -/
structure ClauseCur where
  e    : Nat
  hdr  : W64
  hpc  : W64
  left : Nat
  word : W64
  code : List W64
  stay : Option Nat
  deriving DecidableEq, Repr

/-- An outstanding branch-mask prediction (02 R38, 15 R319). -/
structure Prediction where
  pc        : W64
  predicted : LaneMask
  actual    : LaneMask
  deriving DecidableEq, Repr

/-- An error that waits for the warp's next instruction boundary (11 R267, 19 R352): its code, subcode, address and detail, and the
address of the word that issued the card, if a card met it. -/
structure WarpErr where
  trap : LaneTrap
  pc   : Option W64
  deriving DecidableEq, Repr

/-- A warp (02 R27, R34; 03 R50, R57). `ctxIdx2` is the second native context of a 64-wide warp, else `ctxIdx` again (02 R40); `ready` is the cycle
in which a pending warp's wait was first seen to have resolved (02 R46), and `issued` the cycle in which it issued its last word (02 R45). -/
structure Warp where
  slot    : Nat
  ctxIdx  : Nat
  ctxIdx2 : Nat
  active  : Bool
  ready   : Option Nat
  lanes   : List Lane
  s       : List PW
  flags   : List Nat
  entries : List Entry
  predCnt : W32
  mispCnt : W32
  replCnt : W32
  fuseCnt : W32
  splitCnt : W32
  parkCnt : W32
  scont   : W32
  snest   : W32
  quota   : Nat
  loaned  : Nat
  held    : List HeldLine
  region  : List Registration
  ending  : Bool
  stores  : List PendStore
  records : List CallRecord
  hist    : List (W64 × LaneMask)
  pred    : Option Prediction
  cur     : Option ClauseCur
  lastIssue : Nat
  issued  : Option Nat
  promotions : Nat
  errs    : List WarpErr
  deriving DecidableEq, Repr

/-- A block or gang barrier (10 R247, 21 R391). -/
structure Barrier where
  count   : Nat
  arrived : BitVec 32
  phase   : Bool
  nfix    : Option Nat
  deriving DecidableEq, Repr

/-- A guard slot (03 R54). -/
inductive GuardState where
  | unset | isFalse | isTrue
  deriving DecidableEq, Repr

/-- A 32-byte beat of an operand FIFO, with the poison origin of a poisoned beat (11 R272). -/
structure Beat where
  bytes  : List Byte
  poison : Option VAddr
  deriving DecidableEq, Repr

/-- The Mainsail weight latch of a block (11 R274-R276); an empty tile stands for zeros. -/
structure Latch where
  fmt  : BitVec 4
  sw   : W32
  tile : List Byte
  mark : Option VAddr
  deriving DecidableEq, Repr

/-- A line or a 128-byte scratchpad block of a card's footprint (06 R143). -/
inductive Foot where
  | line    (pa : PAddr)
  | scratch (blk : Nat) (n : Nat)
  deriving DecidableEq, Repr

/-- A job card (11 R258-R267). `op` is the opcode of its word; `eng` 0-3 Halyard, 4 Mainsail, 5 Topsail, 6 Sorrel; `queued`
is false while the word waits for room; `recBlk` and `recOff` place the record; `prog` counts the elements already performed, in a CPYQ card the
bytes pushed, in an MMA the A-stream rows taken, in a Topsail card two steps a page or one an entry of KVMAP (12 R284); `version` is the table
version a Sorrel card pinned; `waited` says that the tile in hand was waited for, `stat` holds the statuses of the tiles done or of the pages passed
over (12 R288, R293); `scale` holds the scales of an MMA, `load` the bytes of the weight tile in hand and `groups` the tiles latched (11 R273);
`lost` holds the source lines of a CPYQ that had no translation (11 R272) and `pool` the lines of Topsail's pools (12 R284); `place` orders the cards
held at a home, whose `foot` they still have to register (06 R145); `foreign` marks a card enqueued again on another core, whose ticket is not that
core's (11 R265); `stayed` is the cycle in which a migration was first seen to hold it (19 R351); `wrote` holds, by sector,
which bytes of a marked sector it has written (21 R395). -/
structure Card where
  id      : Nat
  core    : Nat
  eng     : Nat
  op      : Nat
  blk     : Nat
  warp    : Nat
  pc      : W64
  queued  : Bool
  recBlk  : Nat
  recOff  : Nat
  record  : List Byte
  desc    : List Byte
  guard   : Option Nat
  ticket  : Option W32
  flag    : Option Nat
  dest    : Nat
  tile    : Nat
  started : Bool
  foot    : List (Foot × Bool)
  prog    : Nat
  version : Nat
  waited  : Bool
  stat    : List Nat
  scale   : List Nat
  load    : List Beat
  groups  : Nat
  lost    : List VAddr
  pool    : List Foot
  error   : Option LaneTrap
  foreign : Bool
  place   : Option Nat
  stayed  : Option Nat
  wrote   : List (Nat × BitVec 32)
  deriving DecidableEq, Repr

/-- Where a block stands: resident on its core, saved in the pool, or gone (20 R365, R392, 02 R32). -/
inductive Place where
  | resident | saved | gone
  deriving DecidableEq, Repr

/-- A ticket that a block's card words received (11 R265). `past` marks one obtained before the block was moved. -/
structure Ticket where
  eng  : Nat
  num  : W32
  past : Bool
  deriving DecidableEq, Repr

/-- A block (02 R27; 03 R50; 10 R247; 11 R274). `bytes` is its scratchpad region, offsets from the region's start; `recorded` says
that its record stands at `savedAt` (21 R390), and `cards` are the guarded cards saved with it (21 R419); `ending` that an error of its memory ends it
once its started cards have completed (21 R394). -/
structure Block where
  grid    : Nat
  lin     : Nat
  core    : Nat
  place   : Place
  halted  : Bool
  haltAt  : Nat
  tickets : List Ticket
  relaunched : Nat
  ending  : Bool
  warps   : List Warp
  bytes   : List Host.Cell
  region  : Nat
  frames  : Nat
  bars    : List Barrier
  gbars   : List Barrier
  guards  : List GuardState
  tiles   : List (List (Nat × W32))
  latch   : Latch
  aFifo   : List Beat
  wFifo   : List Beat
  savedAt : PAddr
  recorded : Bool
  cards   : List Card
  deriving DecidableEq, Repr

/-- The code object of a kernel (13 R313): placed at `va`, code section at `va + codeOff`. -/
structure CodeObj where
  va       : VAddr
  codeOff  : Nat
  codeLen  : Nat
  khOff    : Nat
  nkern    : Nat
  secver   : W32
  stepping : BitVec 16
  signed   : Bool
  deriving DecidableEq, Repr

/-- A kernel header (13 R314, 03 R67), number `kidx` of its object. `priv` marks privileged code (21 R383). -/
structure Kernel where
  obj     : CodeObj
  kidx    : Nat
  nv      : Nat
  wide    : Bool
  quad    : Bool
  gang    : Nat
  nacc    : Nat
  narg    : Nat
  quota   : Nat
  exact   : Bool
  views   : List View
  csview  : Option Nat
  handler : Option W64
  idemp   : Bool
  entry   : W64
  priv    : Bool
  deriving DecidableEq, Repr

/-- The end of a grid (20 R358). -/
inductive GridStatus where
  | running
  | rejected (kind : Nat) (off : Nat)
  | torn
  | done
  deriving DecidableEq, Repr

/-- A grid: a ring entry taken, a child of LAUNCH or a block of a graph node (20 R356-R364). `next` is the linear
index of the next block to place; `part` is the partition its queue had when it was taken (20 R355) and `waitAt` the cycle since which its next gang
could not be placed (20 R361); `waits` are the grids whose completion its own waits for; `fill` are bytes placed in the block's scratchpad before it
starts; `die` is the pending-launch store that holds an entry for it. -/
structure Grid where
  queue   : Nat
  part    : Nat
  index   : W32
  ctx     : Nat
  kernel  : Kernel
  gx      : Nat
  gy      : Nat
  gz      : Nat
  threads : Nat
  args    : List W32
  next    : Nat
  status  : GridStatus
  cpl     : Option PAddr
  recorded : Bool
  waits   : List Nat
  fill    : List Host.Cell
  die     : Option Nat
  pends   : List Nat
  waitAt  : Option Nat
  il      : Bool
  sysCtx  : Bool
  deriving DecidableEq, Repr

/-- An issue-side record of a core (03 R57; 11 R263-R265, R274; 19 R342; 20 R371). `served` are the queues whose blocks have been resident on it in
this window of the energy metering (20 R370). -/
structure Core where
  seq     : List W32
  iss     : List W32
  holder  : Option Nat
  lease   : Nat
  reqs    : List (Nat × Nat)
  tlb     : List Xlate
  idle    : Nat
  emptyAt : Nat
  left    : Nat
  served  : List Nat
  deriving DecidableEq, Repr

/-- A translation tag (18 Table 18.1) with the bytes of the page it was built from, by offset. -/
structure Tag where
  secver   : W32
  stepping : BitVec 16
  sobj     : Bool
  sgn      : Bool
  il       : Bool
  ctx      : Nat
  page     : VAddr
  nblk     : Nat
  start    : Nat
  bytes    : List Host.Cell
  deriving DecidableEq, Repr

/-- A Jalix die (18 R329; 21 R382; 12 R300). -/
structure Die where
  secfuse : BitVec 8
  dgmiss  : W32
  wdlim   : BitVec 6
  tags    : List Tag
  pending : Nat
  deriving DecidableEq, Repr

/-- A work queue's descriptor (20 Table 20.1). `carry` is the fraction of a microjoule, in picojoules, that its energy counter has still to show (20
R370). -/
structure Queue where
  en     : Bool
  il     : Bool
  ser    : Bool
  prio   : BitVec 3
  part   : BitVec 3
  ctx    : BitVec 9
  rhost  : Bool
  logn   : BitVec 5
  ring   : BitVec 52
  tail   : W32
  head   : W32
  energy : W64
  energyH : W32
  done   : W32
  carry  : Nat
  deriving DecidableEq, Repr

/-- A partition's registers (20 Table 20.6) and configuration (24 Table 24.4): `w` are the masks written, `a` those applied. -/
structure Masks where
  cores  : BitVec 144
  hbm    : BitVec 12
  stay   : BitVec 36
  eth    : BitVec 8
  deriving DecidableEq, Repr

/-- A partition (20 R367, 24 R409). `rr` is, for each PRIO, the queue served last (20 R360); `carry` the fraction of a microjoule, in picojoules, that
PIDLEE has still to show (20 R370). -/
structure Part where
  pidlee : W32
  pltol  : W32
  ppower : BitVec 16
  unmet  : Bool
  duty   : BitVec 7
  pcap   : BitVec 16
  w      : Masks
  a      : Masks
  cstat  : BitVec 2
  rr     : List Nat
  carry  : Nat
  deriving DecidableEq, Repr

/-- A translation command in flight (19 R347, R348). `phase` 0 queued, 1 shooting down, 2 copying, 3 replaying the held accesses (19 R350 step 5); `stayed` is the
cycle in which its read of the promotion sequence word was first seen to be held (19 R351). -/
structure TCmd where
  ticket : W32
  w0 : W64
  w1 : W64
  w2 : W64
  w3 : W64
  phase  : Nat
  cores  : List Nat
  stayed : Option Nat
  deriving DecidableEq, Repr

/-- The life of a context as the scheduler and Chervil see it (21 R396): `faulted` waits for Chervil, which runs one dump at a time, and `tearing` for
the cards that step 3 lets complete. -/
inductive CtxLife where
  | live | faulted | dumping | tearing
  deriving DecidableEq, Repr

/-- What the module holds of a context (18 R334, 24 R411). `noPlace` is set while a HALTB of every core stops its placement (21 R385). -/
structure CtxInfo where
  part : Option Nat
  life : CtxLife
  noPlace : Bool
  signed : List (VAddr × List (BitVec 256))
  deriving DecidableEq, Repr

/-- A Stay port (24 R412). -/
structure Port where
  up      : Bool
  errs    : W32
  downs   : W32
  retries : Nat
  deriving DecidableEq, Repr

/-- A version of an embedding table (12 R294); `serial` tells it from the table's other versions. -/
structure Version where
  serial  : Nat
  table   : View
  state   : Option View
  pins    : Nat
  current : Bool
  deriving DecidableEq, Repr

/-- A registered embedding table (12 R294, R298). -/
structure Table where
  ctx  : Nat
  tid  : Nat
  vers : List Version
  hot  : List Nat
  deriving DecidableEq, Repr

/-- A record waiting at a graph node (12 R301, 20 R364). -/
structure NodeRec where
  ctx   : Nat
  node  : Nat
  bytes : List Byte
  cycle : Nat
  grid  : Nat
  die   : Nat
  deriving DecidableEq, Repr

/-- A gang's reservation (20 R361). `since` is the cycle since which the gang waits. -/
structure Reservation where
  grid  : Nat
  part  : Nat
  die   : Nat
  since : Nat
  lent  : List Nat
  noLend : Bool
  deriving DecidableEq, Repr

/-- A spatial pre-emption that has been asked for and is not over (20 R365): its partition, the cores chosen, the place of its status record, and the
blocks it has halted. -/
structure Preempt where
  part   : Nat
  cores  : List Nat
  pa     : PAddr
  halted : List Nat
  deriving DecidableEq, Repr

/-- A mapping Chervil makes for a dump (22 R398). -/
structure ChervilMap where
  ctx  : Nat
  va   : VAddr
  size : Nat
  pa   : PAddr
  wr   : Bool
  ex   : Bool
  deriving DecidableEq, Repr

/-- A dump in progress (21 R396, 22 R398). -/
structure Dump where
  ctx  : Nat
  grid : Nat
  deriving DecidableEq, Repr

/-- Module status registers (24 Table 24.3). -/
structure MStat where
  lto    : W32
  mpower : BitVec 16
  temp   : BitVec 16
  fclk   : BitVec 16
  boot   : BitVec 3
  modid  : BitVec 12
  deriving DecidableEq, Repr

/-- Freeze control (24 Table 24.8). -/
structure Frz where
  frozen : Bool
  fcause : BitVec 3
  fcnt   : W64
  arm    : Bool
  fcode  : BitVec 8
  fsrc   : BitVec 3
  deriving DecidableEq, Repr

/-- The test port (24 R418). -/
structure TestPort where
  sel   : W32
  index : BitVec 16
  out   : W64
  byp   : Bool
  deriving DecidableEq, Repr

/-- The translation control registers (19 Table 19.5a). -/
structure TCtl where
  cmd0  : W64
  cmd1  : W64
  cmd2  : W64
  cmd3  : W64
  ticket : W32
  done  : W32
  cmds  : List TCmd
  ctxtbase : W64
  deriving DecidableEq, Repr

/-- What Chervil reports to the host: a raised SECFUSE (18 R336), a dump that is done (21 Table 21.9). -/
inductive HostMsg where
  | secfuse (n : Nat)
  | dumpDone (ctx : Nat) (header : W64)
  deriving DecidableEq, Repr

/-- A RoCE work request that the engine has carried out, with what it returned (24 R413). -/
structure RoceDone where
  qp   : Nat
  data : List Byte
  deriving DecidableEq, Repr

/-- A work request whose answer is still out (24 R413): its queue pair, context, local address and length. -/
structure RoceWait where
  qp  : Nat
  ctx : Nat
  va  : VAddr
  n   : Nat
  deriving DecidableEq, Repr

/-- An access by an agent outside the module that a registration holds (06 R145, 24 R413), with what it has read so far. -/
inductive Inbound where
  | stay (req : StayReq)
  | roce (ctx : Nat) (op : RoceOp) (got : List Byte)
  | work (qp ctx : Nat) (w : RoceWork) (got : List Byte)
  deriving DecidableEq, Repr

/-- A held access with its place in the order of arrival among the cards and accesses held at homes (06 R145, 24 R413), and the cycle of its arrival
(19 R351). -/
structure HeldAccess where
  place  : Nat
  since  : Nat
  access : Inbound
  deriving DecidableEq, Repr

/-- An access that a shootdown or a migration held and lets go on (19 R351): of an entry of a warp, by its lanes, of a card, a code fetch of a die, the read
of the promotion sequence word by a command, or an access from outside, by its place. `back` stands first while an entry's clause runs, and names the warp that
has the turn after it; `finish` stands behind the accesses of a command, which then ends with a status (19 R350 steps 5 and 6). -/
inductive Replay where
  | entry (r : WarpRef) (m : LaneMask)
  | card (id : Nat)
  | fetch (die ctx : Nat) (page : VAddr)
  | command (ticket : W32)
  | outside (place : Nat)
  | back (r : WarpRef)
  | finish (ticket : W32) (status : Nat)
  deriving DecidableEq, Repr

/-- A boot in progress: the identity of its ROM, what its stages find, and the next step of Table 24.6 (24 R414). -/
structure BootRun where
  rom  : BitVec 256
  img  : BootImages
  step : Nat
  deriving DecidableEq, Repr

/-- One move of an agent (log 1): a step of another agent, the issue of a warp, a relaxed store of a warp performed at its home (06 R141), a fused
pair (02 R47), a pre-emption (20 R365), a held access (24 R413) or a boot (24 R414) going on, or time passing. -/
inductive Move where
  | event (i : Instr)
  | issue (w : WarpRef)
  | perform (w : WarpRef) (k : Nat)
  | fused (w1 w2 : WarpRef)
  | preempt
  | inbox
  | boot
  | cycles (n : Nat)
  deriving DecidableEq, Repr

end Sys2Proof.Machine

namespace Sys2Proof.Machine

open Sys2Proof

/-- The state of the module. `replays` are the held accesses that a shootdown or a migration lets go on, in the order of their arrival (19 R351). `dumpObj` is the size of the dump routine's object, whose bytes lie at `fwBase` (log 25). -/
structure State where
  cycle   : Nat
  tick    : Nat
  agenda  : List Move
  turn    : WarpRef
  mem     : List Host.Cell
  bad     : List PAddr
  grids   : List Grid
  blocks  : List Block
  cores   : List Core
  dies    : List Die
  cards   : List Card
  nextCard : Nat
  queues  : List (Nat × Queue)
  nodetab : List (Nat × W64)
  dumpva  : List (Nat × W64)
  spool   : List W64
  route   : List (Nat × W64)
  parts   : List Part
  tctl    : TCtl
  pcmd0   : W64
  pcmd1   : W64
  mstat   : MStat
  frz     : Frz
  ports   : List Port
  ctxs    : List (Nat × CtxInfo)
  chmaps  : List ChervilMap
  dump    : Option Dump
  dumpObj : Option Nat
  log     : List (List Byte)
  fuses   : Nat
  tables  : List Table
  nodes   : List NodeRec
  resv    : List Reservation
  meas    : List (BitVec 256)
  spdm    : List (BitVec 256)
  test    : TestPort
  ucie    : Nat
  roce    : List RoceDone
  peerOut : List (List Byte)
  saves   : Nat
  peerRegs : List PeerReg
  replays : List Replay
  reports : List HostMsg
  preempts : List Preempt
  inbox   : List HeldAccess
  roceWait : List RoceWait
  boot    : Option BootRun
  deriving DecidableEq, Repr

/-- Why the machine stops with a fault. -/
inductive Fault where
  /-- Raised by the meaning of an instruction word in a state in which no warp is issuing a word
  (no clause in progress at `State.turn`): a word has no meaning without a warp. Safe: `step` never runs a word in such a state. -/
  | noIssuingWarp
  deriving DecidableEq, Repr

/-- Why an instruction has no meaning. -/
inductive Refusal where
  /-- Raised by the dispatch for an instruction that has no meaning yet. Safe: nothing can be proved about it. -/
  | notModelled (mnemonic : String)
  deriving DecidableEq, Repr

/-- What a step answers. -/
abbrev Out := Host.Outcome State Fault Refusal

/-- A core when it leaves reset (03 Table 3.3, 11 R274, 19 R342, 20 R371). -/
def Core.fresh : Core :=
  { seq := List.replicate 4 0, iss := List.replicate 4 0, holder := none, lease := 0, reqs := [], tlb := [],
    idle := 0, emptyAt := 0, left := 0, served := [] }

/-- A die after reset (18 Table 18.3, 21 Table 21.5). SECFUSE is the fuse count, log 11. -/
def Die.fresh : Die := { secfuse := 0, dgmiss := 0, wdlim := 26, tags := [], pending := 0 }

/-- A work queue after reset (20 Table 20.1). -/
def Queue.fresh : Queue :=
  { en := false, il := false, ser := false, prio := 0, part := 0, ctx := 0, rhost := false, logn := 0, ring := 0,
    tail := 0, head := 0, energy := 0, energyH := 0, done := 0, carry := 0 }

/-- Masks naming no unit (24 Table 24.4). -/
def Masks.none : Masks := { cores := 0, hbm := 0, stay := 0, eth := 0 }

/-- A partition after reset (20 Table 20.6, 24 Table 24.4). -/
def Part.fresh : Part :=
  { pidlee := 0, pltol := 0xFFFFFFFF, ppower := 0, unmet := false, duty := 64, pcap := 0,
    w := Masks.none, a := Masks.none, cstat := 0, rr := List.replicate 8 0, carry := 0 }

/-- The module right after reset: every field at the value the spec gives, and where it gives none at the value the logs
named in INVENTORY.md name. No program, queue or block exists (log 6). -/
def State.reset : State :=
  { cycle := 0, tick := 0, agenda := [], turn := { b := 0, w := 0 }, mem := [], bad := [], grids := [], blocks := [],
    cores := List.replicate Config.numCores Core.fresh, dies := List.replicate Config.numDies Die.fresh,
    cards := [], nextCard := 0, queues := [], nodetab := [], dumpva := [], spool := List.replicate 8 0, route := [],
    parts := List.replicate 8 Part.fresh,
    tctl := { cmd0 := 0, cmd1 := 0, cmd2 := 0, cmd3 := 0, ticket := 0, done := 0, cmds := [], ctxtbase := 0 },
    pcmd0 := 0, pcmd1 := 0,
    mstat := { lto := 2000, mpower := 0, temp := 0, fclk := 3300, boot := 0, modid := 0 },
    frz := { frozen := false, fcause := 0, fcnt := 0, arm := false, fcode := 0, fsrc := 0 },
    ports := List.replicate 36 { up := false, errs := 0, downs := 0, retries := 0 },
    ctxs := [], chmaps := [], dump := none, dumpObj := none, log := [], fuses := 0, tables := [], nodes := [],
    resv := [], meas := List.replicate 6 0, spdm := [],
    test := { sel := 0, index := 0, out := 0, byp := false }, ucie := 4, roce := [], peerOut := [], saves := 0, peerRegs := [], replays := [], reports := [], preempts := [], inbox := [], roceWait := [], boot := none }

end Sys2Proof.Machine
end

