-- ==== Sys2Proof/Machine/Mem.lean ====
section
/-! DEFINITION. Memory: the canonical byte list, physical memory with its marked sectors, scratchpad, and address
translation (19 R337-R342, 24 R411, R412, 21 R395). -/

namespace Sys2Proof.Machine

open Sys2Proof

/-! ## The canonical byte list -/

/-- The byte at an address; an unlisted address reads zero (log 4, log 5). -/
def memGet : List Host.Cell → Nat → Byte
  | [], _ => 0
  | (a, b) :: l, x => if x = a then b else if x < a then 0 else memGet l x

/-- A byte put in order before a list, or left out when it is zero. -/
def memCons (x : Nat) (v : Byte) (l : List Host.Cell) : List Host.Cell := if v = 0 then l else (x, v) :: l

/-- Writing one byte keeps addresses rising and lists no zero byte. -/
def memSet : List Host.Cell → Nat → Byte → List Host.Cell
  | [], x, v => memCons x v []
  | (a, b) :: l, x, v =>
    if x < a then memCons x v ((a, b) :: l)
    else if x = a then memCons x v l
    else (a, b) :: memSet l x v

/-- Every address of the list is above x and no byte is zero, with addresses strictly rising. -/
def memAbove : Nat → List Host.Cell → Bool
  | _, [] => true
  | x, (a, b) :: l => decide (x < a) && b != 0 && memAbove a l

/-- The canonical form: addresses strictly rising, no entry equal to what an unlisted address reads as. -/
def Memory.wf : List Host.Cell → Bool
  | [] => true
  | (a, b) :: l => b != 0 && memAbove a l

/-- n bytes from an address. -/
def memBytes (l : List Host.Cell) (x : Nat) : Nat → List Byte
  | 0 => []
  | n + 1 => memGet l x :: memBytes l (x + 1) n

/-- Writing consecutive bytes. -/
def memPut (l : List Host.Cell) (x : Nat) : List Byte → List Host.Cell
  | [] => l
  | b :: bs => memPut (memSet l x b) (x + 1) bs

/-- Writing those of consecutive bytes whose enable bit is set; `k` is the bit of the first byte. -/
def memPutEn (l : List Host.Cell) (x : Nat) (en : BitVec 128) : Nat → List Byte → List Host.Cell
  | _, [] => l
  | k, b :: bs => memPutEn (if en.getLsbD k then memSet l x b else l) (x + 1) en (k + 1) bs

/-- The number of little-endian bytes (00 R3). -/
def leNat : List Byte → Nat
  | [] => 0
  | b :: l => b.toNat + 256 * leNat l

/-- The n little-endian bytes of a number (00 R3). -/
def natLE : Nat → Nat → List Byte
  | 0, _ => []
  | n + 1, x => BitVec.ofNat 8 x :: natLE n (x / 256)

/-! ## Fields of the state -/

/-- The element of a list, or a default. -/
def nth {α : Type} (d : α) (l : List α) (i : Nat) : α := (l[i]?).getD d

/-- The pairs of a register array: the value under a key, or a default. -/
def assocGet {α : Type} (d : α) (l : List (Nat × α)) (k : Nat) : α :=
  match l with
  | [] => d
  | (a, x) :: l => if a = k then x else assocGet d l k

/-- Setting the value under a key, keys kept rising. -/
def assocSet {α : Type} (l : List (Nat × α)) (k : Nat) (v : α) : List (Nat × α) :=
  match l with
  | [] => [(k, v)]
  | (a, x) :: l => if k < a then (k, v) :: (a, x) :: l else if k = a then (k, v) :: l else (a, x) :: assocSet l k v

/-- A function applied to the pair under a key, if there is one. -/
def assocMod {α : Type} (l : List (Nat × α)) (k : Nat) (f : α → α) : List (Nat × α) :=
  l.map fun p => if p.1 = k then (p.1, f p.2) else p

def State.modBlock (s : State) (b : Nat) (f : Block → Block) : State := { s with blocks := s.blocks.modify b f }
def Block.modWarp (k : Block) (w : Nat) (f : Warp → Warp) : Block := { k with warps := k.warps.modify w f }
def State.modWarp (s : State) (r : WarpRef) (f : Warp → Warp) : State := s.modBlock r.b (·.modWarp r.w f)
def Warp.modLane (wp : Warp) (i : Nat) (f : Lane → Lane) : Warp := { wp with lanes := wp.lanes.modify i f }
def State.modCore (s : State) (c : Nat) (f : Core → Core) : State := { s with cores := s.cores.modify c f }
def State.modDie (s : State) (d : Nat) (f : Die → Die) : State := { s with dies := s.dies.modify d f }
def State.modGrid (s : State) (g : Nat) (f : Grid → Grid) : State := { s with grids := s.grids.modify g f }
def State.warp? (s : State) (r : WarpRef) : Option Warp := (s.blocks[r.b]?).bind (·.warps[r.w]?)
def State.modCtx (s : State) (c : Nat) (f : CtxInfo → CtxInfo) : State := { s with ctxs := assocMod s.ctxs c f }

/-! ## Physical memory -/

/-- The base of host memory in the model's physical numbering. -/
def hostBase : Nat := 2 ^ 52
/-- The base of peer module m's memory in the model's physical numbering. -/
def peerBase (m : Nat) : Nat := (m + 2) * 2 ^ 52
/-- Where Chervil's own firmware store lies in the model's physical numbering, outside every tier (log 25). -/
def fwBase : Nat := 4098 * 2 ^ 52
/-- Where Chervil builds the relocated object of the dump in progress (log 25). -/
def fwWork : Nat := fwBase + 2 ^ 40
/-- The partition a context is bound to (24 R411). -/
def State.ctxPart (s : State) (ctx : Nat) : Option Nat := ((s.ctxs.find? (·.1 == ctx)).map (·.2)).bind (·.part)

/-- A local frame or table address that exists: a stack of the module, below 80,000,000,000 bytes, and of the context's
partition when it is bound to one (24 R411). -/
def State.hbmValid (s : State) (ctx pa : Nat) : Bool :=
  pa / 2 ^ 37 < 12 && pa % 2 ^ 37 < 80000000000 &&
  (match (s.ctxPart ctx).bind (s.parts[·]?) with
   | some p => p.a.hbm.getLsbD (pa / 2 ^ 37)
   | none => true)

/-- Whether some usable port leads to module m for a context's partition (24 R412). -/
def State.reachable (s : State) (ctx m : Nat) : Bool :=
  (List.range 36).any fun k =>
    (assocGet 0 s.route m).getLsbD k &&
    ((s.ports[k]?).map (·.up)).getD false &&
    (match (s.ctxPart ctx).bind (s.parts[·]?) with
     | some p => p.a.stay.getLsbD k
     | none => true)

/-- The physical address lies in a peer module whose home is unreachable: no usable port leads there, the peer refuses, or the request stays
unacknowledged for LTO microseconds (24 R412). -/
def State.unreachable (s : State) (ctx pa : Nat) : Bool :=
  2 * 2 ^ 52 ≤ pa && pa < fwBase &&
    (!s.reachable ctx (pa / 2 ^ 52 - 2) || (Config.peerAnswer s.tick (pa / 128)).all fun us => s.mstat.lto.toNat ≤ us)

def State.bytes (s : State) (pa n : Nat) : List Byte := memBytes s.mem pa n
def State.word32 (s : State) (pa : Nat) : W32 := BitVec.ofNat 32 (leNat (s.bytes pa 4))
def State.word64 (s : State) (pa : Nat) : W64 := BitVec.ofNat 64 (leNat (s.bytes pa 8))

/-- A byte range meets a sector marked by an uncorrectable error (21 R395). -/
def State.badRange (s : State) (pa n : Nat) : Bool := s.bad.any fun b => pa < b + 32 && b < pa + n

/-- A write covers a marked sector whole, and so clears the mark (21 R395). -/
def State.putBytes (s : State) (pa : Nat) (bs : List Byte) : State :=
  { s with mem := memPut s.mem pa bs, bad := s.bad.filter fun b => !(pa ≤ b && b + 32 ≤ pa + bs.length) }

/-- All of the byte enables of the sector at offset k are set. -/
def sectorFull (en : BitVec 128) (k : Nat) : Bool := (List.range 32).all fun j => en.getLsbD (k + j)

/-- A write of a line with byte enables (05 R100); a full-sector write clears the sector's mark (21 R395). -/
def State.putLine (s : State) (pa : Nat) (en : BitVec 128) (bs : List Byte) : State :=
  { s with mem := memPutEn s.mem pa en 0 bs,
           bad := s.bad.filter fun b => !(pa ≤ b && b < pa + 128 && sectorFull en (b - pa)) }

def State.putWord32 (s : State) (pa : Nat) (x : W32) : State := s.putBytes pa (natLE 4 x.toNat)
def State.putWord64 (s : State) (pa : Nat) (x : W64) : State := s.putBytes pa (natLE 8 x.toNat)

/-! ## Translation -/

/-- The outcome of a translation. `fail` is no valid translation or a missing right (19 R340, R342); `migrating` holds the
access (19 R351). -/
inductive TRes where
  | ok (pa : PAddr)
  | fail
  | migrating
  deriving DecidableEq, Repr

/-- The outcome of a walk: the translation and the physical address of its leaf entry; what Chervil maps for a dump has none. -/
inductive WRes where
  | ok (x : Xlate) (entry : Option PAddr)
  | fail
  | migrating (entry : PAddr)
  deriving DecidableEq, Repr

/-- Bits hi..lo of a number. -/
def field (x hi lo : Nat) : Nat := x / 2 ^ lo % 2 ^ (hi + 1 - lo)

/-- A leaf entry read at `entry` for a page of 2^bits bytes (19 R339, R340). -/
def walkLeaf (s : State) (ctx : Nat) (va : VAddr) (bits entry e : Nat) : WRes :=
  let tier := field e 7 6
  let frame := field e 51 16 * 2 ^ 16
  let peer := field e 63 52
  if field e 15 10 != 0 || tier == 3 || (peer != 0 && tier != 2) || frame % 2 ^ bits != 0 ||
     (tier == 0 && !(s.hbmValid ctx frame && s.hbmValid ctx (frame + 2 ^ bits - 1))) then .fail
  else if field e 5 5 == 1 then .migrating entry
  else
    let base := if tier = 0 then frame else if tier = 1 then hostBase + frame else peerBase peer + frame
    .ok { ctx := ctx, va := BitVec.ofNat 57 (va.toNat / 2 ^ bits * 2 ^ bits), bits := bits, pa := base,
          rd := field e 2 2 == 1, wr := field e 3 3 == 1, ex := field e 4 4 == 1 } (some entry)

/-- The levels below a table: shift of the index, width of the index, whether a leaf may stand there, whether a table may. -/
def walkFrom (s : State) (ctx : Nat) (va : VAddr) : List (Nat × Nat × Bool × Bool) → PAddr → WRes
  | [], _ => .fail
  | (sh, w, leaf, table) :: rest, tbl =>
    let entry := tbl + 8 * field va.toNat (sh + w - 1) sh
    let e := (s.word64 entry).toNat
    if !s.hbmValid ctx entry || s.badRange entry 8 || e % 2 == 0 then .fail
    else if field e 1 1 == 1 then (if leaf then walkLeaf s ctx va sh entry e else .fail)
    else if !table || field e 63 52 != 0 || field e 7 2 != 0 then .fail
    else
      let next := field e 51 8 * 2 ^ 8
      let align := match rest with | (30, _) :: _ => 12 | (21, _) :: _ => 12 | _ => 8
      if next % 2 ^ align != 0 then .fail else walkFrom s ctx va rest next

/-- The physical address of a context table entry (19 R345). -/
def State.ctxEntry (s : State) (ctx : Nat) : PAddr := s.tctl.ctxtbase.toNat + 32 * ctx

/-- The context number of the system context, outside the 512 contexts of 19 R345 (21 R383). -/
def sysCtx : Nat := 512

/-- A walk of a context's own tables (19 R337-R340). -/
def walkTables (s : State) (ctx : Nat) (va : VAddr) : WRes :=
  let e := (s.word64 (s.ctxEntry ctx)).toNat
  if e % 2 == 0 || s.badRange (s.ctxEntry ctx) 8 then .fail
  else walkFrom s ctx va [(39, 18, false, true), (30, 9, true, true), (21, 9, true, true), (16, 5, true, false)]
         (field e 51 21 * 2 ^ 21)

/-- A walk. During a dump, what Chervil has mapped stands in the address space of the faulting context, through whose tables the routine translates
(22 R398). -/
def walk (s : State) (ctx : Nat) (va : VAddr) : WRes :=
  match s.dump with
  | some d =>
    if ctx = sysCtx || ctx = d.ctx then
      match s.chmaps.find? (fun m => m.va.toNat ≤ va.toNat && va.toNat < m.va.toNat + m.size) with
      | some m =>
        .ok { ctx := ctx, va := va, bits := 0, pa := m.pa + (va.toNat - m.va.toNat), rd := true, wr := m.wr, ex := m.ex } none
      | none => walkTables s d.ctx va
    else walkTables s ctx va
  | none => if ctx = sysCtx then .fail else walkTables s ctx va

/-- The leaf's MIG bit set or cleared. -/
def State.setMig (s : State) (entry : PAddr) (on : Bool) : State :=
  let b := memGet s.mem entry
  { s with mem := memSet s.mem entry (if on then b ||| 0x20 else b &&& 0xDF) }

/-- A walk that passes over a leaf in migration. -/
def walkPast (s : State) (ctx : Nat) (va : VAddr) : WRes :=
  match walk s ctx va with
  | .migrating e => walk (s.setMig e false) ctx va
  | x => x

/-- A translation covers an address of a context. -/
def Xlate.covers (x : Xlate) (ctx : Nat) (va : VAddr) : Bool :=
  x.ctx == ctx && x.va.toNat / 2 ^ x.bits == va.toNat / 2 ^ x.bits

/-- The right an access needs. -/
def Xlate.allows (x : Xlate) : Access → Bool
  | .read => x.rd
  | .write => x.wr
  | .fetch => x.ex

/-- The physical address a translation gives. -/
def Xlate.addr (x : Xlate) (va : VAddr) : PAddr := x.pa + va.toNat % 2 ^ x.bits

/-- The walker sets A, and D for a write, at the leaf (19 R341). -/
def State.markLeaf (s : State) (entry : Option PAddr) (w : Bool) : State :=
  match entry with
  | some a => { s with mem := memSet s.mem (a + 1) (memGet s.mem (a + 1) ||| (if w then 3 else 1)) }
  | none => s

/-- The lane that makes an access, for its last-page register (19 R342). -/
structure Via where
  core : Nat
  lane : Option (WarpRef × Nat)
  deriving DecidableEq, Repr

/-- The translation a lane holds, else one of the core TLB (19 R342). -/
def State.cached (s : State) (v : Via) (ctx : Nat) (va : VAddr) : Option Xlate :=
  let own := v.lane.bind fun (r, i) => (s.warp? r).bind fun wp => (wp.lanes[i]?).bind (·.lastPage)
  match own.filter (·.covers ctx va) with
  | some x => some x
  | none => ((s.cores[v.core]?).bind fun c => c.tlb.find? (·.covers ctx va))

/-- A translation put into the lane's register and the core TLB (19 R342); the oldest leaves a full TLB (log 13). -/
def State.install (s : State) (v : Via) (x : Xlate) : State :=
  let s := if x.bits = 0 then s else s.modCore v.core fun c => { c with tlb := (x :: c.tlb).take Config.tlbEntries }
  match v.lane with
  | some (r, i) => s.modWarp r (·.modLane i fun l => { l with lastPage := if x.bits = 0 then none else some x })
  | none => s

/-- Translation of one address for one access, with the state the translation leaves (19 R340-R342, R351). -/
def translate (s : State) (v : Via) (ctx : Nat) (va : VAddr) (acc : Access) : TRes × State :=
  match s.cached v ctx va with
  | some x => (if x.allows acc then .ok (x.addr va) else .fail, s)
  | none =>
    match walk s ctx va with
    | .fail => (.fail, s)
    | .migrating _ => (.migrating, s)
    | .ok x entry =>
      if x.allows acc then
        (.ok (x.addr va), (s.markLeaf entry (acc == .write)).install v x)
      else (.fail, s)

/-- The home of a line that the warp holds: rights are checked at OPEN and at each write-back only (19 R342). -/
def State.home (s : State) (v : Via) (ctx : Nat) (va : VAddr) : TRes × State :=
  match s.cached v ctx va with
  | some x => (.ok (x.addr va), s)
  | none =>
    match walk s ctx va with
    | .fail => (.fail, s)
    | .migrating _ => (.migrating, s)
    | .ok x entry => (.ok (x.addr va), (s.markLeaf entry false).install v x)

/-! ## Home slices -/

/-- The module, when it is a peer, and on it the die and the L2 slice at which a line has its home (01 R19). -/
def homeSlice (pa : PAddr) : Option Nat × Nat × Nat :=
  let slice (a : Nat) : Nat × Nat := (a / 2 ^ 37 / 3, a / 128 % 36)
  if peerBase 0 ≤ pa then (some (pa / 2 ^ 52 - 2), slice (pa % 2 ^ 52))
  else if hostBase ≤ pa then (none, pa % 2 ^ 52 / 128 % 144 / 36, pa % 2 ^ 52 / 128 % 144 % 36)
  else (none, slice pa)

/-- The core whose router a slice shares (01 R19). -/
def sliceCore (x : Nat × Nat) : Nat := x.1 * 36 + x.2

end Sys2Proof.Machine
end

