-- ==== Sys2Proof/Machine/Operands.lean ====
section
/-! DEFINITION. The issuing warp, its lanes, and every operand form: registers, pairs, quads, predicates, immediates,
coordinate blocks and views (03 R50-R55, 05 R94-R98, 07 R164-R169, 10 R223). -/

namespace Sys2Proof.Machine

open Sys2Proof

/-- What a word of the issuing warp sees: its place, block, grid, kernel, warp, clause in progress and entry. -/
structure Ctx where
  r    : WarpRef
  blk  : Block
  grid : Grid
  kern : Kernel
  wp   : Warp
  cur  : ClauseCur
  ent  : Entry
  deriving DecidableEq, Repr

/-- The warp whose turn it is, when it has a clause in progress. -/
def State.ctx? (s : State) : Option Ctx :=
  match s.blocks[s.turn.b]? with
  | none => none
  | some blk =>
    match blk.warps[s.turn.w]?, s.grids[blk.grid]? with
    | some wp, some g =>
      match wp.cur with
      | none => none
      | some cur =>
        match wp.entries[cur.e]? with
        | none => none
        | some ent => some { r := s.turn, blk := blk, grid := g, kern := g.kernel, wp := wp, cur := cur, ent := ent }
    | _, _ => none

/-- WIDTH (02 R40). -/
def Kernel.width (k : Kernel) : Nat := if k.wide then 64 else 32

/-- The lane numbers of a mask, ascending. -/
def lanesOf (m : LaneMask) : List Nat := (List.range 64).filter fun i => m.getLsbD i

/-- The mask of a list of lane numbers. -/
def maskOf (l : List Nat) : LaneMask := l.foldl (fun m i => m ||| ((1 : LaneMask) <<< i)) 0

/-- A register lane that does not exist reads as zero; R168 refuses the words that name one. -/
def zeroPW : PW := { val := 0, poison := false }
/-- Zero marked as poisoned (02 R44). -/
def poisonPW : PW := { val := 0, poison := true }

/-- A lane that does not exist: retired, with no registers. -/
def noLane : Lane :=
  { v := [], p := [], flags := 0, fpctl := 0, cycleH := 0,
    tf := { pc := 0, code := 0, word := 0, addr := 0, mask := 0, aux := 0 },
    origin := none, spilled := 0, stack := [], binds := [], retired := true, handler := false, lastPage := none }

def Warp.lane (wp : Warp) (i : Nat) : Lane := nth noLane wp.lanes i

/-- A register operand in one lane: an s-register gives every lane the same value (07 R169). -/
def Warp.reg (wp : Warp) (r : Reg) (i : Nat) : PW :=
  if r.s then nth zeroPW wp.s r.n.toNat else nth zeroPW (wp.lane i).v r.n.toNat

/-- Register r + k of a run (pairs, quads, coordinate blocks). -/
def regPlus (r : Reg) (k : Nat) : Reg := { s := r.s, n := BitVec.ofNat 8 (r.n.toNat + k) }

/-- A value with its poison bit, of a 64-bit operand. -/
structure PW64 where
  val : W64
  poison : Bool
  deriving DecidableEq, Repr

/-- A pair: bits [31:0] in the even register; poisoned when either half is (00 R3, 03 R55). -/
def Warp.pair (wp : Warp) (r : Reg) (i : Nat) : PW64 :=
  { val := (wp.reg (regPlus r 1) i).val ++ (wp.reg r i).val, poison := (wp.reg r i).poison || (wp.reg (regPlus r 1) i).poison }

/-- A 32-bit source that may be IMM32 (07 R166). -/
def Warp.src (wp : Warp) (b : Src) (i : Nat) : PW :=
  match b with
  | .imm x => { val := x, poison := false }
  | .reg r => wp.reg r i

/-- A 64-bit source: IMM32 sign-extends in every such form (07 R166). -/
def Warp.src64 (wp : Warp) (b : Src) (i : Nat) : PW64 :=
  match b with
  | .imm x => { val := x.signExtend 64, poison := false }
  | .reg r => wp.pair r i

/-- A predicate: p7 reads true (03 Table 3.1). -/
def Lane.pred (l : Lane) (p : BitVec 3) : PB :=
  if p = 7 then { val := true, poison := false } else nth { val := false, poison := false } l.p p.toNat

/-- Writing a predicate: p7 discards. -/
def Lane.setPred (l : Lane) (p : BitVec 3) (x : PB) : Lane :=
  if p = 7 then l else { l with p := l.p.set p.toNat x }

/-- Writing a vector register. -/
def Lane.setV (l : Lane) (n : Nat) (x : PW) : Lane := { l with v := l.v.set n x }

/-- Writing consecutive vector registers from n. -/
def Lane.setVs (l : Lane) (n : Nat) : List PW → Lane
  | [] => l
  | x :: xs => Lane.setVs (l.setV n x) (n + 1) xs

/-- Writing consecutive s-registers from n. -/
def Warp.setSs (wp : Warp) (n : Nat) : List PW → Warp
  | [] => wp
  | x :: xs => Warp.setSs { wp with s := wp.s.set n x } (n + 1) xs

/-- The two halves of a 64-bit result, each with the result's poison (03 R55). -/
def pairWords (x : W64) (poison : Bool) : List PW :=
  [{ val := x.extractLsb' 0 32, poison := poison }, { val := x.extractLsb' 32 32, poison := poison }]

/-- Poison origin copied with a value moved from another lane (05 R112). -/
def Lane.takeOrigin (l : Lane) (o : Option VAddr) : Lane :=
  match l.origin with
  | none => { l with origin := o }
  | some _ => l

/-! ## Guards and the lanes of a word -/

/-- The lanes of the entry that the guard selects (07 R165). -/
def Ctx.selected (c : Ctx) (g : Guard) : List Nat :=
  (lanesOf c.ent.mask).filter fun i => ((c.wp.lane i).pred g.pred).val != g.neg

/-- The selected lanes whose guard predicate is poisoned (07 R165). -/
def Ctx.guardPoisoned (c : Ctx) (g : Guard) : List Nat :=
  (c.selected g).filter fun i => ((c.wp.lane i).pred g.pred).poison

/-- A lane of Active traps by its guard (07 R165), so that a scalar destination keeps its value (07 R169). -/
def Ctx.spoiled (c : Ctx) (g : Guard) : Bool := !(c.guardPoisoned g).isEmpty

/-- The lanes other than helpers that perform the word. A lane that traps at a poisoned guard executes nothing else of the word (07 R165): DESIGN CHOICE
(log 90), it is no source, no contributor and no lowest lane of a cross-lane word either. -/
def Ctx.active (c : Ctx) (g : Guard) : List Nat :=
  (c.selected g).filter fun i => !((c.wp.lane i).pred g.pred).poison

/-- Helper lanes: in quad mode, the retired or never launched lanes of a quad of which the entry holds some lanes (02 R44). -/
def Ctx.helpers (c : Ctx) : List Nat :=
  if c.kern.quad then
    (List.range c.kern.width).filter fun i =>
      (c.wp.lane i).retired && !c.ent.mask.getLsbD i &&
      (List.range 4).any fun k => c.ent.mask.getLsbD (i / 4 * 4 + k)
  else []

/-! ## What the kernel header decides about operands (03 R51, 07 R168) -/

/-- An operand lies within the kernel's declared counts. -/
def Kernel.opndOk (k : Kernel) : Opnd → Bool
  | .word r => r.s || r.n.toNat < k.nv
  | .pair r => r.s || r.n.toNat + 1 < k.nv
  | .quad r => r.n.toNat + 3 < k.nv
  | .view v => v.toNat < k.views.length
  | .acc t => t.toNat < k.nacc
  | .coords b v =>
    match k.views[v.toNat]? with
    | none => false
    | some w =>
      let n := w.rank + (if w.space == 2 then 1 else 0)
      if b.s then b.n.toNat + n ≤ 64 else b.n.toNat + n ≤ k.nv
  | .run r n => r.s || r.n.toNat + n ≤ k.nv

/-- The view a word names. -/
def noView : View :=
  { base := 0, rank := 1, etype := 0, space := 0, rd := false, wr := false, oobZero := false, bpmask := 0, ext := [],
    str := [], peer := 0 }
def Kernel.view (k : Kernel) (v : BitVec 6) : View := nth noView k.views v.toNat

/-- The size of a view's element. -/
def View.size (v : View) : Nat := etypeSize v.etype
/-- A view of scratchpad. -/
def View.scratch (v : View) : Bool := v.space == 1 || v.space == 2
/-- The access size of SZ in loads and stores (10 Tables 10.4, 10.7). -/
def szBytes (sz : BitVec 2) : Nat := match sz.toNat with | 0 => 4 | 1 => 8 | 2 => 1 | _ => 2

/-- The rules on a word's view and width that depend on the kernel header and so raise RESERVED_FIELD when it executes
(09 R221, 10 R227, R238, R242, R249, R251, 11 R258, 12 R282, R302). -/
def kernelOk (k : Kernel) : Instr → Bool
  | .shfl o => o.w.toNat ≤ (if k.wide then 6 else 5)
  | .voteBallot o => o.pair == k.wide && (!k.wide || o.d.n.toNat % 2 == 0) &&
      (o.d.s || o.d.n.toNat + (if k.wide then 1 else 0) < k.nv)
  | .matchAny o => !k.wide || (o.d.toNat % 2 == 0 && o.d.toNat + 1 < k.nv)
  | .openl o | .reopen o => !(k.view o.v).scratch
  | .lds o => (k.view o.v).scratch && (k.view o.v).size == szBytes o.sz
  | .sts o => (k.view o.v).scratch && (k.view o.v).size == szBytes o.sz
  | .atoms o => (k.view o.v).scratch && (k.view o.v).size == (if o.pair then 8 else 4)
  | .ldsmB64 o | .ldsmB128 o => (k.view o.v).scratch
  | .waita o => (k.view o.v).scratch && (k.view o.v).size == 4
  | .siga o => (k.view o.v).scratch && (k.view o.v).size == 4
  | .barbPost o => (k.view o.v).scratch && (k.view o.v).size == 8
  | .barbWait o => (k.view o.v).scratch && (k.view o.v).size == 8
  | .send o => (k.view o.v).scratch && (k.view o.v).size == 4
  | .ringadv o => (k.view o.v).scratch && (k.view o.v).size == 4
  | .cpy o | .cpyf o | .cpyp o | .cpyq o => (k.view o.v).scratch
  | .mma o | .mmadrain o | .kvappend o | .kvmap o | .kvrot o | .embg o | .embu o | .embswap o => (k.view o.v).scratch
  | .attn o => (k.view o.v).scratch
  | .launch o => (k.view o.v).scratch
  | _ => true

/-- The fields check of 07 R171 step 5. -/
def fieldsOk (i : Instr) (k : Kernel) : Bool := WellFormed i && i.opnds.all k.opndOk && kernelOk k i

/-! ## Coordinates and elements (05 R97, 10 R223) -/

/-- Where an element lies: its location, and the first dimension out of range when it is outside the view. -/
structure Elem where
  addr    : Int
  outside : Option Nat
  rank    : Int
  deriving DecidableEq, Repr

/-- The first coordinate outside its extent. -/
def firstOutside : Nat → List Int → List W32 → Option Nat
  | d, c :: cs, x :: xs => if c < 0 || (x.toNat : Int) ≤ c then some d else firstOutside (d + 1) cs xs
  | _, _, _ => none

/-- The sum of coordinate times stride. -/
def dotStride : List Int → List W32 → Int
  | c :: cs, x :: xs => c * x.toInt + dotStride cs xs
  | _, _ => 0

/-- The bank permutation of a scratchpad offset (05 R97). -/
def permute (mask : BitVec 5) (a : Int) : Int :=
  if a < 0 then a
  else ((a.toNat ^^^ (((a.toNat / 128 % 32) &&& mask.toNat) * 4) : Nat) : Int)

/-- The location of an element from exact coordinates (05 R97); `g` is the gang size. -/
def View.locate (v : View) (g : Nat) (cs : List Int) : Elem :=
  let e := dotStride (cs.take v.rank) v.str
  let a0 : Int := v.base.toNat + e * v.size
  let rank := (cs.drop v.rank).headD 0
  let a := if v.scratch then permute v.bpmask a0 else a0
  let lim : Int := if v.scratch then Config.scratchBytes else 2 ^ 57
  let out := match firstOutside 0 (cs.take v.rank) v.ext with
    | some d => some d
    | none => if (v.space == 2 && (rank < 0 || (g : Int) ≤ rank)) || a < 0 || lim ≤ a then some 5 else none
  { addr := a, outside := out, rank := rank }

/-- The number of coordinates a word of a view takes (05 Table 5.2). -/
def View.ncoord (v : View) : Nat := v.rank + (if v.space == 2 then 1 else 0)

/-- A coordinate block in one lane, and whether a coordinate is poisoned (10 R223). -/
def Warp.coords (wp : Warp) (b : Reg) (v : View) (i : Nat) : List Int × Bool :=
  ((List.range v.ncoord).map fun k => (wp.reg (regPlus b k) i).val.toInt,
   (List.range v.ncoord).any fun k => (wp.reg (regPlus b k) i).poison)

/-! ## Traps of a lane -/

/-- A lane's trap. -/
def mkTrap (i code sub : Nat) (addr : VAddr) (aux : W32) : LaneTrap :=
  { lane := i, code := code, sub := sub, addr := addr, aux := aux }

/-- POISON_CONSUMED in a lane: the fault address is the lane's poison origin (05 R113). -/
def Warp.poisonTrap (wp : Warp) (i sub : Nat) : LaneTrap := mkTrap i 8 sub ((wp.lane i).origin.getD 0) 0

end Sys2Proof.Machine
end

