-- ==== Sys2Proof/Machine/Float.lean ====
section
/-! DEFINITION. Floating-point formats, exact values, rounding and the IEEE operations (04). A finite value is a sign, a
natural mantissa and an integer exponent; operations are computed exactly and rounded once. -/

namespace Sys2Proof.Machine

open Sys2Proof

/-- NV, DZ, OF, UF, NX in the layout of 03 Table 3.4. -/
def flNV : FpFlags := 16
def flDZ : FpFlags := 8
def flOF : FpFlags := 4
def flUF : FpFlags := 2
def flNX : FpFlags := 1

/-- A floating-point format (04 Table 4.2); `ieee` is false for E4M3, which has no infinity and one NaN magnitude. -/
structure Fmt where
  ew   : Nat
  fw   : Nat
  ieee : Bool
  deriving DecidableEq, Repr

def Fmt.f32 : Fmt := { ew := 8, fw := 23, ieee := true }
def Fmt.f16 : Fmt := { ew := 5, fw := 10, ieee := true }
def Fmt.bf16 : Fmt := { ew := 8, fw := 7, ieee := true }
def Fmt.e4m3 : Fmt := { ew := 4, fw := 3, ieee := false }
def Fmt.e5m2 : Fmt := { ew := 5, fw := 2, ieee := true }

/-- Exponent bias. -/
def Fmt.bias (t : Fmt) : Nat := 2 ^ (t.ew - 1) - 1
/-- Bits of the format. -/
def Fmt.width (t : Fmt) : Nat := 1 + t.ew + t.fw
/-- The smallest magnitude code that is no finite value: infinity, or E4M3's NaN (04 R71). -/
def Fmt.top (t : Fmt) : Nat := if t.ieee then (2 ^ t.ew - 1) * 2 ^ t.fw else 2 ^ (t.ew + t.fw) - 1
/-- Magnitude code of the largest finite value. -/
def Fmt.maxFin (t : Fmt) : Nat := t.top - 1
/-- The canonical NaN (04 Table 4.4). -/
def Fmt.nan (t : Fmt) : Nat :=
  if t.ieee then (2 ^ t.ew - 1) * 2 ^ t.fw + 2 ^ (t.fw - 1) else 2 ^ (t.ew + t.fw) - 1
/-- Sign bit of a code. -/
def Fmt.signBit (t : Fmt) (neg : Bool) : Nat := if neg then 2 ^ (t.ew + t.fw) else 0
/-- Exponent of the smallest normal. -/
def Fmt.emin (t : Fmt) : Int := 1 - (t.bias : Int)

/-- The value of an encoding. `fin` is (-1)^neg * m * 2^e. -/
inductive FVal where
  | nan (sig : Bool)
  | inf (neg : Bool)
  | fin (neg : Bool) (m : Nat) (e : Int)
  deriving DecidableEq, Repr

/-- A result in its format, with the flags it raises. -/
structure FRes where
  bits : Nat
  fl   : FpFlags
  deriving DecidableEq, Repr

/-- The value of a code (04 R70, R71, R73). The FP8 formats have no signalling NaN. -/
def fval (t : Fmt) (x : Nat) : FVal :=
  let neg := x / 2 ^ (t.ew + t.fw) % 2 == 1
  let e := x / 2 ^ t.fw % 2 ^ t.ew
  let f := x % 2 ^ t.fw
  let mag := x % 2 ^ (t.ew + t.fw)
  if t.top < mag || (!t.ieee && mag == t.top) then
    .nan (8 < t.width && f / 2 ^ (t.fw - 1) % 2 == 0)
  else if mag == t.top then .inf neg
  else if e == 0 then .fin neg f (t.emin - t.fw)
  else .fin neg (2 ^ t.fw + f) (t.emin - t.fw + (e - 1))

def FVal.isNaN : FVal → Bool | .nan _ => true | _ => false
def FVal.isSig : FVal → Bool | .nan s => s | _ => false
def FVal.isInf : FVal → Bool | .inf _ => true | _ => false
def FVal.isZero : FVal → Bool | .fin _ m _ => m == 0 | _ => false
def FVal.neg : FVal → Bool | .fin n _ _ => n | .inf n => n | .nan _ => false
def FVal.flip : FVal → FVal | .fin n m e => .fin (!n) m e | .inf n => .inf (!n) | v => v

/-- The canonical NaN with NV when `nv`. -/
def nanRes (t : Fmt) (nv : Bool) : FRes := { bits := t.nan, fl := if nv then flNV else 0 }
/-- A signed zero. -/
def zeroRes (t : Fmt) (neg : Bool) : FRes := { bits := t.signBit neg, fl := 0 }
/-- An exact infinity: SAT clamps it with no flag (04 R79); E4M3 has none, so it becomes NaN with NV (04 R84). -/
def infRes (t : Fmt) (sat neg : Bool) : FRes :=
  if sat then { bits := t.signBit neg + t.maxFin, fl := 0 }
  else if t.ieee then { bits := t.signBit neg + t.top, fl := 0 }
  else nanRes t true

/-- The result of an overflow without SAT (04 Table 4.6). -/
def overflowBits (t : Fmt) (rm : RMode) (neg : Bool) : Nat :=
  let big := if t.ieee then t.signBit neg + t.top else t.nan
  let fin := t.signBit neg + t.maxFin
  match rm with
  | .rne => big
  | .rz => fin
  | .rd => if neg then big else fin
  | .ru => if neg then fin else big

/-- Whether rounding goes away from zero: `odd` the kept bit, `cmp` the discarded part against half a unit (0 below, 1 equal,
2 above), `inexact` whether anything is discarded (04 Table 4.5). -/
def roundsUp (rm : RMode) (neg odd inexact : Bool) (cmp : Nat) : Bool :=
  match rm with
  | .rne => cmp == 2 || (cmp == 1 && odd)
  | .rz => false
  | .rd => neg && inexact
  | .ru => !neg && inexact

/-- m * 2^e with something below it when `sticky`, scaled to units of 2^q: quotient, whether inexact, place against half. -/
def scaleTo (m : Nat) (e q : Int) (sticky : Bool) : Nat × Bool × Nat :=
  let sh := (q - e).toNat
  if q ≤ e then (m * 2 ^ (e - q).toNat, sticky, 0)
  else
    let r := m % 2 ^ sh
    let h := 2 ^ (sh - 1)
    (m / 2 ^ sh, r != 0 || sticky, if r < h then 0 else if r == h && !sticky then 1 else 2)

/-- Rounding of a nonzero exact value m * 2^e, plus less than one unit 2^e when `sticky` (04 R76, R77, R79, Table 4.7). -/
def roundFp (t : Fmt) (rm : RMode) (sat neg : Bool) (m : Nat) (e : Int) (sticky : Bool) : FRes :=
  let top := e + Nat.log2 m
  let ex := max top t.emin
  let (q, inexact, cmp) := scaleTo m e (ex - t.fw) sticky
  let mant := if roundsUp rm neg (q % 2 == 1) inexact cmp then q + 1 else q
  let code := (ex - t.emin).toNat * 2 ^ t.fw + mant
  if t.top ≤ code then
    { bits := if sat then t.signBit neg + t.maxFin else overflowBits t rm neg, fl := flOF ||| flNX }
  else
    { bits := t.signBit neg + code,
      fl := if inexact then (if code != 0 && code < 2 ^ t.fw then flUF ||| flNX else flNX) else 0 }

/-- Rounding of an exact signed integer multiple x * 2^e; `zneg` is the sign of an exact zero. -/
def roundInt (t : Fmt) (rm : RMode) (sat : Bool) (x : Int) (e : Int) (zneg : Bool) : FRes :=
  if x = 0 then zeroRes t zneg else roundFp t rm sat (x < 0) x.natAbs e false

/-- A finite value as an integer multiple of 2^e, for e at most its exponent. -/
def finAt (neg : Bool) (m : Nat) (e e0 : Int) : Int :=
  let x : Int := m * 2 ^ (e - e0).toNat
  if neg then -x else x

/-- a + b (04 R88, IEEE 754). -/
def faddV (t : Fmt) (rm : RMode) (sat : Bool) (a b : FVal) : FRes :=
  match a, b with
  | .nan s, y => nanRes t (s || y.isSig)
  | _, .nan s => nanRes t s
  | .inf n, .inf k => if n == k then infRes t sat n else nanRes t true
  | .inf n, _ => infRes t sat n
  | _, .inf n => infRes t sat n
  | .fin n1 m1 e1, .fin n2 m2 e2 =>
    let e := min e1 e2
    let z := if m1 == 0 && m2 == 0 && n1 == n2 then n1 else rm == .rd
    roundInt t rm sat (finAt n1 m1 e1 e + finAt n2 m2 e2 e) e z

/-- a * b. -/
def fmulV (t : Fmt) (rm : RMode) (sat : Bool) (a b : FVal) : FRes :=
  match a, b with
  | .nan s, y => nanRes t (s || y.isSig)
  | _, .nan s => nanRes t s
  | .inf n, y => if y.isZero then nanRes t true else infRes t sat (n != y.neg)
  | x, .inf n => if x.isZero then nanRes t true else infRes t sat (x.neg != n)
  | .fin n1 m1 e1, .fin n2 m2 e2 =>
    if m1 * m2 = 0 then zeroRes t (n1 != n2) else roundFp t rm sat (n1 != n2) (m1 * m2) (e1 + e2) false

/-- The exact product, NaN when an operand is NaN or a pair is infinity and zero. -/
def fprod (a b : FVal) : FVal :=
  match a, b with
  | .nan s, y => .nan (s || y.isSig)
  | _, .nan s => .nan s
  | .inf n, y => if y.isZero then .nan true else .inf (n != y.neg)
  | x, .inf n => if x.isZero then .nan true else .inf (x.neg != n)
  | .fin n1 m1 e1, .fin n2 m2 e2 => .fin (n1 != n2) (m1 * m2) (e1 + e2)

/-- Infinity times zero. -/
def infZero (a b : FVal) : Bool := (a.isInf && b.isZero) || (a.isZero && b.isInf)

/-- a * b + c with one rounding; infinity times zero raises NV whatever c is (04 Table 4.7). -/
def ffmaV (t : Fmt) (rm : RMode) (sat : Bool) (a b c : FVal) : FRes :=
  if a.isNaN || b.isNaN || c.isNaN then nanRes t (a.isSig || b.isSig || c.isSig || infZero a b)
  else faddV t rm sat (fprod a b) c

/-- a / b: the quotient carried to twice the needed bits, with a sticky remainder. -/
def fdivV (t : Fmt) (rm : RMode) (sat : Bool) (a b : FVal) : FRes :=
  match a, b with
  | .nan s, y => nanRes t (s || y.isSig)
  | _, .nan s => nanRes t s
  | .inf n, y => if y.isInf then nanRes t true else infRes t sat (n != y.neg)
  | x, .inf n => zeroRes t (x.neg != n)
  | .fin n1 m1 e1, .fin n2 m2 e2 =>
    if m2 = 0 then (if m1 = 0 then nanRes t true else { infRes t sat (n1 != n2) with fl := flDZ })
    else if m1 = 0 then zeroRes t (n1 != n2)
    else
      let k := Nat.log2 m2 + 2 * t.fw + 8
      roundFp t rm sat (n1 != n2) (m1 * 2 ^ k / m2) (e1 - e2 - k) (m1 * 2 ^ k % m2 != 0)

/-- Integer square root, one bit at a time from bit k - 1 down. -/
def isqrt (n : Nat) : Nat → Nat → Nat
  | 0, r => r
  | k + 1, r => isqrt n k (if (r + 2 ^ k) * (r + 2 ^ k) ≤ n then r + 2 ^ k else r)

/-- Square root (08 Table 8.6). -/
def fsqrtV (t : Fmt) (rm : RMode) (a : FVal) : FRes :=
  match a with
  | .nan s => nanRes t s
  | .inf n => if n then nanRes t true else infRes t false false
  | .fin n m e =>
    if m = 0 then zeroRes t n
    else if n then nanRes t true
    else
      let k := 2 * t.fw + 8
      let odd := e % 2 != 0
      let m2 := (if odd then 2 * m else m) * 2 ^ (2 * k)
      let r := isqrt m2 (Nat.log2 m2 / 2 + 1) 0
      roundFp t rm false false r ((if odd then e - 1 else e) / 2 - k) (r * r != m2)

/-- Sign and magnitude as an integer that orders values; zeros compare equal when `zeq`, else -0 lies below +0. -/
def fkey (t : Fmt) (zeq : Bool) (x : Nat) : Int :=
  let mag : Int := (x % 2 ^ (t.ew + t.fw) : Nat)
  if x / 2 ^ (t.ew + t.fw) % 2 == 1 then (if zeq then -mag else -mag - 1) else mag

/-- minimumNumber and maximumNumber (04 R88). -/
def fminmax (t : Fmt) (isMax : Bool) (x y : Nat) : FRes :=
  let a := fval t x
  let b := fval t y
  let nv := if a.isSig || b.isSig then flNV else 0
  if a.isNaN && b.isNaN then { bits := t.nan, fl := nv }
  else if a.isNaN then { bits := y, fl := nv }
  else if b.isNaN then { bits := x, fl := nv }
  else if (decide (fkey t false x < fkey t false y)) == isMax then { bits := y, fl := nv }
  else { bits := x, fl := nv }

/-- Rounding of a finite magnitude to an integer: the integer and whether it changed. -/
def roundIntegral (rm : RMode) (neg : Bool) (m : Nat) (e : Int) : Nat × Bool :=
  let (q, inexact, cmp) := scaleTo m e 0 false
  (if roundsUp rm neg (q % 2 == 1) inexact cmp then q + 1 else q, inexact)

/-- The value a float takes in an integer type of n bits (04 R85): the pattern and the flags. -/
def ftoi (rm : RMode) (signed : Bool) (n : Nat) (a : FVal) : Int × FpFlags :=
  let lo : Int := if signed then -(2 ^ (n - 1) : Int) else 0
  let hi : Int := if signed then 2 ^ (n - 1) - 1 else 2 ^ n - 1
  match a with
  | .nan _ => (0, flNV)
  | .inf k => (if k then lo else hi, flNV)
  | .fin k m e =>
    if 200 < e then (if m = 0 then 0 else if k then lo else hi, if m = 0 then 0 else flNV)
    else
      let (q, inexact) := roundIntegral rm k m e
      let x : Int := if k then -(q : Int) else q
      if x < lo then (lo, flNV) else if hi < x then (hi, flNV) else (x, if inexact then flNX else 0)

/-- Conversion between floating formats (04 R84). -/
def ftof (dst : Fmt) (rm : RMode) (sat : Bool) (a : FVal) : FRes :=
  match a with
  | .nan s => nanRes dst (s || !dst.ieee)
  | .inf n => infRes dst sat n
  | .fin n m e => if m = 0 then zeroRes dst n else roundFp dst rm sat n m e false

/-- Conversion of a NaN to E4M3 raises NV only without SAT (04 Table 4.7). -/
def cvtff (dst : Fmt) (rm : RMode) (sat : Bool) (a : FVal) : FRes :=
  match a with
  | .nan s => nanRes dst (s || (!dst.ieee && !sat))
  | v => ftof dst rm sat v

/-- The exact sum of finite values, as an integer multiple of the returned power of two; zero terms too. -/
def exactSum : List FVal → Int × Int
  | [] => (0, 0)
  | .fin n m e :: l =>
    let (x, e2) := exactSum l
    if m = 0 then (x, e2)
    else if x = 0 then (finAt n m e e, e)
    else
      let e0 := min e e2
      (finAt n m e e0 + x * 2 ^ (e2 - e0).toNat, e0)
  | _ :: l => exactSum l

/-- Every term is minus zero. -/
def allNegZero (l : List FVal) : Bool := l.all fun v => match v with | .fin n m _ => n && m == 0 | _ => false

/-- The sum of exact terms with one rounding (08 R191, 04 R90): NaN with `nv` when a term is NaN, canonical NaN for
infinities of both signs; an exact zero is +0 unless every term is -0. -/
def fsumV (t : Fmt) (rm : RMode) (sat nv : Bool) (l : List FVal) : FRes :=
  if l.any FVal.isNaN then nanRes t nv
  else if l.contains (.inf true) && l.contains (.inf false) then nanRes t true
  else if l.contains (.inf true) then infRes t sat true
  else if l.contains (.inf false) then infRes t sat false
  else
    let (x, e) := exactSum l
    roundInt t rm sat x e (allNegZero l)

/-- The class bit of an FP32 value (08 Table 8.7). -/
def fclassBit (x : Nat) : Nat :=
  match fval .f32 x with
  | .nan s => if s then 8 else 9
  | .inf n => if n then 0 else 7
  | .fin n m _ =>
    if m = 0 then (if n then 3 else 4)
    else if m < 2 ^ 23 then (if n then 2 else 5)
    else if n then 1 else 6

/-- FFRACT: a - floor(a) rounded down (08 Table 8.6). -/
def ffractV (a : FVal) : FRes :=
  match a with
  | .nan s => nanRes .f32 s
  | .inf _ => nanRes .f32 true
  | .fin n m e =>
    if 0 ≤ e then zeroRes .f32 false
    else
      let u := 2 ^ (-e).toNat
      let r := m % u
      if r = 0 then zeroRes .f32 false else roundFp .f32 .rd false false (if n then u - r else r) e false

/-- FROUND: to an integral value, sign kept; NX only when X = 1 and the value changes (08 Table 8.6). -/
def froundV (rm : RMode) (x : Bool) (a : FVal) : FRes :=
  match a with
  | .nan s => nanRes .f32 s
  | .inf n => infRes .f32 false n
  | .fin n m e =>
    if 0 ≤ e then (if m = 0 then zeroRes .f32 n else roundFp .f32 .rne false n m e false)
    else
      let (q, inexact) := roundIntegral rm n m e
      let r := if q = 0 then zeroRes .f32 n else roundFp .f32 .rne false n q 0 false
      { r with fl := if x && inexact then flNX else 0 }

/-- FSCALE: a * 2^n (08 Table 8.6). Beyond plus or minus 4096 the result is the same as at that bound. -/
def fscaleV (rm : RMode) (sat : Bool) (a : FVal) (n : Int) : FRes :=
  match a with
  | .nan s => nanRes .f32 s
  | .inf k => infRes .f32 sat k
  | .fin k m e => if m = 0 then zeroRes .f32 k else roundFp .f32 rm sat k m (e + max (-4096) (min 4096 n)) false

/-- FGETEXP: floor(log2 |a|) (08 Table 8.6). -/
def fgetexpV (a : FVal) : FRes :=
  match a with
  | .nan s => nanRes .f32 s
  | .inf _ => infRes .f32 false false
  | .fin _ m e =>
    if m = 0 then { infRes .f32 false true with fl := flDZ }
    else roundInt .f32 .rne false (e + Nat.log2 m) 0 false

/-- The float comparison of a code on two FP32 patterns, and whether it raises NV (08 Table 8.14). -/
def fcompare (cmp : Nat) (x y : Nat) : Bool × FpFlags :=
  let a := fval .f32 x
  let b := fval .f32 y
  let un := a.isNaN || b.isNaN
  let k1 := fkey .f32 true x
  let k2 := fkey .f32 true y
  let nv := a.isSig || b.isSig || (un && 2 ≤ cmp && cmp ≤ 5)
  let r := match cmp with
    | 0 => !un && k1 == k2
    | 1 => un || k1 != k2
    | 2 => !un && k1 < k2
    | 3 => !un && k1 ≤ k2
    | 4 => !un && k2 < k1
    | 5 => !un && k2 ≤ k1
    | 6 => !un
    | 7 => un
    | 8 => un || k1 < k2
    | 9 => un || k1 ≤ k2
    | 10 => un || k2 < k1
    | _ => un || k2 ≤ k1
  (r, if nv then flNV else 0)

/-- The exponent of QNT8.scale and R92: the least e with x ≤ M * 2^e, at least -149, for a positive finite x = m * 2^ex and
M = c * 2^k. -/
def quantExp (m : Nat) (ex : Int) (c : Nat) (k : Int) : Int :=
  let e0 := ex + Nat.log2 m - (k + Nat.log2 c)
  let fits (e : Int) : Bool :=
    let b := min ex (k + e)
    m * 2 ^ (ex - b).toNat ≤ c * 2 ^ (k + e - b).toNat
  max (-149) (if fits e0 then e0 else e0 + 1)

/-- The largest finite value of an FP8 target as c * 2^k: 448 = 7 * 2^6, 57344 = 7 * 2^13. -/
def fp8Max (e5 : Bool) : Nat × Int := if e5 then (7, 13) else (7, 6)

/-- The FP8 format of a selector. -/
def fp8 (e5 : Bool) : Fmt := if e5 then .e5m2 else .e4m3

/-- 2^e in FP32, for e from -149 to 127. -/
def pow2f32 (e : Int) : Nat := (roundFp .f32 .rne false false 1 e false).bits

/-- The format of a floating ETYPE code (05 Table 5.3). -/
def fmtOf (t : Nat) : Fmt :=
  match t with
  | 9 => .f16
  | 10 => .bf16
  | 11 => .e4m3
  | 12 => .e5m2
  | _ => .f32

end Sys2Proof.Machine
end

