-- ==== Sys2Proof/Machine/Transc.lean ====
section
/-! DEFINITION. The approximated FP32 functions (04 R88, 08 R187, R189) and the correctly rounded exponential, sine and
cosine of the engines (12). A function value is a truncated magnitude m * 2^e, exact to far more places than any
target (log 8); which float within the bound of R88 an approximated form delivers is the free value Config.approxPlace (log 7). -/

namespace Sys2Proof.Machine

open Sys2Proof

/-- Fraction bits of the fixed-point evaluation. -/
def fxBits : Nat := 320
/-- floor(pi / 2 * 2^480). -/
def halfPi480 : Nat := 0x1921fb54442d18469898cc51701b839a252049c1114cf98e804177d4c76273644a29410f31c6809bbdf2a33679a748636605614dbe4be286e9fc26ada
/-- floor(ln 2 * 2^400). -/
def ln2At400 : Nat := 0xb17217f7d1cf79abc9e3b39803f2f6af40f343267298b62d8a0d175b8baafa2be7b876206debac98559552fb4afa1b10ed2e
/-- floor(log2 e * 2^480). -/
def log2eAt480 : Nat := 0x171547652b82fe1777d0ffda0d23a7d11d6aef551bad2b4b1164a2cd9a342648fbc3887eeaa2ed9ac49b25eeb82d7c167d52173cc1895213f897f5e06

/-- A truncated positive value m * 2^e; the exact value lies above it by less than 2^e. -/
structure Trunc where
  m : Nat
  e : Int
  deriving DecidableEq, Repr

/-- sum of x^k / k! from term `t` = x^k / k!, in units of 2^-fxBits, with x in the same units. -/
def expSeries (x : Nat) : Nat → Nat → Nat → Nat
  | 0, _, _ => 0
  | fuel + 1, k, t => t + expSeries x fuel (k + 1) (t * x / 2 ^ fxBits / (k + 1))

/-- The alternating series of sine (k = 1, t = x) and cosine (k = 0, t = 1) with step x squared. -/
def trigSeries (x2 : Nat) : Nat → Nat → Nat → Int
  | 0, _, _ => 0
  | fuel + 1, k, t => (t : Int) - trigSeries x2 fuel (k + 2) (t * x2 / 2 ^ fxBits / ((k + 1) * (k + 2)))

/-- sum of z^k / k over odd k, with z2 the square of z. -/
def atanhSeries (z2 : Nat) : Nat → Nat → Nat → Nat
  | 0, _, _ => 0
  | fuel + 1, k, t => t / k + atanhSeries z2 fuel (k + 2) (t * z2 / 2 ^ fxBits)

/-- 2^f in units of 2^-fxBits, for f in [0, 1) in the same units. -/
def exp2Frac (f : Nat) : Nat := expSeries (f * ln2At400 / 2 ^ 400) 80 0 (2 ^ fxBits)

/-- A finite value times 2^k rounded down to an integer. -/
def floorAt (neg : Bool) (m : Nat) (e : Int) (k : Nat) : Int :=
  let s := e + k
  let x : Int := if 0 ≤ s then (m : Int) * 2 ^ s.toNat else 0
  if 0 ≤ s then (if neg then -x else x)
  else if neg then -(((m + 2 ^ (-s).toNat - 1) / 2 ^ (-s).toNat : Nat) : Int) else ((m / 2 ^ (-s).toNat : Nat) : Int)

/-- 2^a for a = y * 2^-fxBits, |a| at most 1024. -/
def exp2Fixed (y : Int) : Trunc :=
  { m := exp2Frac (y.emod (2 ^ fxBits)).toNat, e := y.ediv (2 ^ fxBits) - fxBits }

/-- log2 of m * 2^e: sign and magnitude; an exact power of two has an integer logarithm. -/
def log2Val (m : Nat) (e : Int) : Bool × Trunc :=
  let k := Nat.log2 m
  let x := m * 2 ^ fxBits / 2 ^ k
  let z := (x - 2 ^ fxBits) * 2 ^ fxBits / (x + 2 ^ fxBits)
  let frac : Nat := 2 * atanhSeries (z * z / 2 ^ fxBits) 110 1 z * 2 ^ 400 / ln2At400
  let v : Int := (e + k) * 2 ^ fxBits + (frac : Int)
  (v < 0, { m := if v < 0 then v.natAbs - 1 else v.natAbs, e := -(fxBits : Int) })

/-- Quadrant and remainder of a magnitude m * 2^e modulo pi / 2, the remainder in units of 2^-fxBits. -/
def reduceAngle (m : Nat) (e : Int) : Nat × Nat :=
  let x := (floorAt false m e 480).toNat
  (x / halfPi480 % 4, x % halfPi480 / 2 ^ 160)

/-- sin (k = 0) or cos (k = 1) of a finite angle: sign and magnitude. -/
def sinCos (isCos neg : Bool) (m : Nat) (e : Int) : Bool × Trunc :=
  if !isCos && m != 0 && e + Nat.log2 m < -40 then (neg, { m := m * 2 ^ 160 - 1, e := e - 160 })
  else
    let (q, r) := reduceAngle m e
    let q := if isCos then q + 1 else q
    let r2 := r * r / 2 ^ fxBits
    let v := if q % 2 == 1 then trigSeries r2 50 0 (2 ^ fxBits) else trigSeries r2 50 1 r
    let s := q % 4 == 2 || q % 4 == 3
    let s := if isCos then s else (s != neg)
    if isCos && m != 0 && e + Nat.log2 m < -150 then (false, { m := 2 ^ fxBits - 1, e := -(fxBits : Int) })
    else (s, { m := v.toNat, e := -(fxBits : Int) })

/-- e^x for a finite x. Beyond 200 the result overflows and below -200 it rounds to zero or the least value. -/
def expVal (neg : Bool) (m : Nat) (e : Int) : Trunc :=
  if 8 < e + Nat.log2 m then (if neg then { m := 2 ^ 64, e := -1064 } else { m := 2 ^ 64, e := 936 })
  else exp2Fixed ((floorAt neg m e 400 * log2eAt480).ediv (2 ^ (880 - fxBits)))

/-- tanh of a positive finite magnitude. -/
def tanhVal (m : Nat) (e : Int) : Trunc :=
  if e + Nat.log2 m < -40 then { m := m * 2 ^ 160 - 1, e := e - 160 }
  else if 6 < e + Nat.log2 m then { m := 2 ^ fxBits - 1, e := -(fxBits : Int) }
  else
    let x := expVal true (2 * m) e
    let y := (floorAt false x.m x.e fxBits).toNat
    { m := (2 ^ fxBits - y) * 2 ^ fxBits / (2 ^ fxBits + y), e := -(fxBits : Int) }

/-- 1 / (m * 2^e). -/
def rcpVal (m : Nat) (e : Int) : Trunc := { m := 2 ^ (fxBits + Nat.log2 m) / m, e := -e - fxBits - Nat.log2 m }

/-- 1 / sqrt(m * 2^e). -/
def rsqVal (m : Nat) (e : Int) : Trunc :=
  let m1 := if e % 2 != 0 then 2 * m else m
  let e1 := if e % 2 != 0 then e - 1 else e
  let k := 160 + Nat.log2 m1
  let n := 2 ^ (2 * k) / m1
  { m := isqrt n (Nat.log2 n / 2 + 1) 0, e := -(e1 / 2) - k }

/-- Correct rounding of a truncated value (12 R285, R288). -/
def roundTrunc (t : Fmt) (neg : Bool) (x : Trunc) : FRes :=
  if x.m = 0 then { zeroRes t neg with fl := flNX } else roundFp t .rne false neg x.m x.e true

/-- Whether the magnitude code c lies within k ulp of the value, an ulp taken at the value (04 R88). The code of
infinity counts as 2^128. -/
def withinUlps (k c : Nat) (x : Trunc) : Bool :=
  match (if c = Fmt.f32.top then FVal.fin false (2 ^ 24) 104 else fval .f32 c) with
  | .fin _ mc ec =>
    let u := max (x.e + Nat.log2 x.m) (-126) - 23
    let b := min (min ec u) x.e
    let d : Int := mc * 2 ^ (ec - b).toNat - x.m * 2 ^ (x.e - b).toNat
    d.natAbs ≤ k * 2 ^ (u - b).toNat
  | _ => false

/-- The result of an approximated form whose exact magnitude is x: the float at the free place counted from the lower
neighbour when it lies within k ulp, and the lower neighbour otherwise; overflow gives infinity (08 R187, R189). -/
def approxRes (fn k : Nat) (a : W32) (neg : Bool) (x : Trunc) : FRes :=
  if 128 ≤ x.e + Nat.log2 x.m then { bits := Fmt.f32.signBit neg + Fmt.f32.top, fl := flOF ||| flNX }
  else
    let lo := if x.m = 0 then 0 else (roundFp .f32 .rz false false x.m x.e true).bits
    let c := (lo + Config.approxPlace fn a).toNat
    let code := if 0 ≤ lo + Config.approxPlace fn a && c ≤ Fmt.f32.top && withinUlps k c x then c else lo
    { bits := Fmt.f32.signBit neg + code,
      fl := if code = Fmt.f32.top then flOF ||| flNX else if code != 0 && code < 2 ^ 23 then flUF ||| flNX else flNX }

/-- m is a power of two. -/
def isPow2 (m : Nat) : Bool := m != 0 && m == 2 ^ Nat.log2 m

/-- FRCP (08 Table 8.6, R189). -/
def frcpV (a : W32) : FRes :=
  match fval .f32 a.toNat with
  | .nan s => nanRes .f32 s
  | .inf n => zeroRes .f32 n
  | .fin n m e =>
    if m = 0 then { infRes .f32 false n with fl := flDZ }
    else if isPow2 m && -(e + Nat.log2 m) ≤ 127 then roundFp .f32 .rne false n 1 (-(e + Nat.log2 m)) false
    else approxRes 0x3A 1 a n (rcpVal m e)

/-- FRSQ. -/
def frsqV (a : W32) : FRes :=
  match fval .f32 a.toNat with
  | .nan s => nanRes .f32 s
  | .inf n => if n then nanRes .f32 true else zeroRes .f32 false
  | .fin n m e =>
    if m = 0 then { infRes .f32 false n with fl := flDZ }
    else if n then nanRes .f32 true
    else if isPow2 m && (e + Nat.log2 m) % 2 == 0 then roundFp .f32 .rne false false 1 (-((e + Nat.log2 m) / 2)) false
    else approxRes 0x3B 1 a false (rsqVal m e)

/-- FEXP2. -/
def fexp2V (a : W32) : FRes :=
  match fval .f32 a.toNat with
  | .nan s => nanRes .f32 s
  | .inf n => if n then zeroRes .f32 false else infRes .f32 false false
  | .fin n m e =>
    if 8 < e + Nat.log2 m then approxRes 0x3C 2 a false (if n then { m := 2 ^ 64, e := -1064 } else { m := 2 ^ 64, e := 936 })
    else
      let y := floorAt n m e fxBits
      if m = 0 || (y.emod (2 ^ fxBits) = 0 && -149 ≤ y.ediv (2 ^ fxBits)) then
        roundFp .f32 .rne false false 1 (y.ediv (2 ^ fxBits)) false
      else approxRes 0x3C 2 a false (exp2Fixed y)

/-- FLOG2. -/
def flog2V (a : W32) : FRes :=
  match fval .f32 a.toNat with
  | .nan s => nanRes .f32 s
  | .inf n => if n then nanRes .f32 true else infRes .f32 false false
  | .fin n m e =>
    if m = 0 then { infRes .f32 false true with fl := flDZ }
    else if n then nanRes .f32 true
    else if isPow2 m then roundInt .f32 .rne false (e + Nat.log2 m) 0 false
    else
      let (s, x) := log2Val m e
      approxRes 0x3D 2 a s x

/-- FSIN and FCOS, radians, every finite operand. -/
def fsinV (a : W32) : FRes :=
  match fval .f32 a.toNat with
  | .nan s => nanRes .f32 s
  | .inf _ => nanRes .f32 true
  | .fin n m e =>
    if m = 0 then zeroRes .f32 n
    else
      let (s, x) := sinCos false n m e
      approxRes 0x3E 2 a s x

def fcosV (a : W32) : FRes :=
  match fval .f32 a.toNat with
  | .nan s => nanRes .f32 s
  | .inf _ => nanRes .f32 true
  | .fin n m e =>
    if m = 0 then { bits := 0x3F800000, fl := 0 }
    else
      let (s, x) := sinCos true n m e
      approxRes 0x3F 2 a s x

/-- FTANH. -/
def ftanhV (a : W32) : FRes :=
  match fval .f32 a.toNat with
  | .nan s => nanRes .f32 s
  | .inf n => { bits := if n then 0xBF800000 else 0x3F800000, fl := 0 }
  | .fin n m e => if m = 0 then zeroRes .f32 n else approxRes 0x40 2 a n (tanhVal m e)

/-- e^x correctly rounded to FP32 (12 R288). -/
def expRound (x : FVal) : Nat :=
  match x with
  | .nan _ => Fmt.f32.nan
  | .inf n => if n then 0 else Fmt.f32.top
  | .fin n m e => if m = 0 then 0x3F800000 else (roundTrunc .f32 false (expVal n m e)).bits

/-- sine and cosine of a finite angle correctly rounded to FP32 (12 R285). -/
def sinCosRound (isCos : Bool) (x : FVal) : Nat :=
  match x with
  | .fin n m e =>
    if m = 0 then (if isCos then 0x3F800000 else Fmt.f32.signBit n)
    else
      let (s, v) := sinCos isCos n m e
      (roundTrunc .f32 s v).bits
  | _ => Fmt.f32.nan

end Sys2Proof.Machine
end

