-- ==== Sys2Proof/Machine/Flags.lean ====
section
/-! DEFINITION. What a computing word leaves in a lane: destination words, predicates and floating flags, with NF, the sticky
FLAGS, the FPCTL enables and FP_EXCEPTION (03 R61, 04 R80-R82, 08 R176, R186, 02 R44, 07 R169). -/

namespace Sys2Proof.Machine

open Sys2Proof

/-- What a word computes in one lane: the words written from D upward, the predicates written, and the flags raised. -/
structure LaneRes where
  words : List PW
  preds : List (BitVec 3 × PB)
  fl    : FpFlags
  deriving DecidableEq, Repr

/-- One 32-bit result, poisoned when a source is (00 R11). -/
def res32 (x : W32) (poison : Bool) : LaneRes := { words := [{ val := x, poison := poison }], preds := [], fl := 0 }
/-- One 64-bit result. -/
def res64 (x : W64) (poison : Bool) : LaneRes := { words := pairWords x poison, preds := [], fl := 0 }
/-- One FP32 result with its flags. -/
def resF (x : FRes) (poison : Bool) : LaneRes :=
  { words := [{ val := BitVec.ofNat 32 x.bits, poison := poison }], preds := [], fl := x.fl }
/-- One predicate result. -/
def resP (p : BitVec 3) (x poison : Bool) : LaneRes :=
  { words := [], preds := [(p, { val := x, poison := poison })], fl := 0 }

/-- The FP_EXCEPTION of a lane: an enabled flag is raised and NF is clear (04 R82). -/
def raises (nf : Bool) (fl en : FpFlags) : Bool := !nf && (fl &&& en) != 0

/-- Predicate results written to a lane. -/
def Lane.setPreds (l : Lane) : List (BitVec 3 × PB) → Lane
  | [] => l
  | (p, x) :: ps => Lane.setPreds (l.setPred p x) ps

/-- The sticky flags of a lane after a word (03 R61); a helper lane's FLAGS do not change (02 R44). -/
def Lane.orFlags (l : Lane) (nf helper : Bool) (fl : FpFlags) : Lane :=
  if nf || helper then l else { l with flags := l.flags ||| fl }

/-- A lane after a computing word with a vector destination from `d`, or with none. A lane that raises FP_EXCEPTION keeps
its destination; a helper in its place receives poisoned zero. -/
def Lane.compute (l : Lane) (nf helper : Bool) (d : Option Nat) (x : LaneRes) : Lane :=
  if raises nf x.fl l.fpctl then
    if helper then
      let l := x.preds.foldl (fun l p => l.setPred p.1 { val := false, poison := true }) l
      match d with
      | some n => l.setVs n (x.words.map fun _ => poisonPW)
      | none => l
    else l.orFlags nf helper x.fl
  else
    let l := (l.setPreds x.preds).orFlags nf helper x.fl
    match d with
    | some n => l.setVs n x.words
    | none => l

/-- FP_EXCEPTION with the flags raised in TFAUX (04 R82). -/
def fpTrap (i : Nat) (fl : FpFlags) : LaneTrap := mkTrap i 0x0B 0 0 (fl.setWidth 32)

/-- The lanes of a computing word that trap. -/
def Warp.fpTraps (wp : Warp) (nf : Bool) (lanes : List Nat) (f : Nat → LaneRes) : List LaneTrap :=
  lanes.filterMap fun i => if raises nf (f i).fl (wp.lane i).fpctl then some (fpTrap i (f i).fl) else none

/-- Every lane of a list changed by a function of its number. -/
def Warp.mapLanes (wp : Warp) (lanes : List Nat) (f : Nat → Lane → Lane) : Warp :=
  lanes.foldl (fun w i => w.modLane i (f i)) wp

/-- One of some lanes, by a free choice (log 54). -/
def anyLane (act : List Nat) : Nat :=
  match act with
  | [l] => l
  | _ => nth (act.headD 0) act (Config.scalarPick act)

/-- The active lane whose result a scalar destination takes; a choice only where the results differ (log 54). -/
def scalarLane (act : List Nat) (f : Nat → List PW) : Nat :=
  if act.all fun l => f l == f (act.headD 0) then act.headD 0 else anyLane act

/-- The words a helper lane gives: poisoned zero where an ordinary lane would trap (02 R44). -/
def Warp.helperWords (wp : Warp) (nf : Bool) (i : Nat) (x : LaneRes) : List PW :=
  if raises nf x.fl (wp.lane i).fpctl then x.words.map fun _ => poisonPW else x.words

/-- The words that a scalar destination receives: those of an ordinary lane of Active, of a helper lane where Active has no other (07 R169, log 54);
none when Active is empty. -/
def Warp.scalarWords (wp : Warp) (nf : Bool) (act helpers : List Nat) (f : Nat → LaneRes) : List PW :=
  match act, helpers with
  | [], [] => []
  | [], h :: _ => wp.helperWords nf h (f h)
  | _, _ => (f (scalarLane act fun l => (f l).words)).words

/-- The warp after a computing word. A scalar destination is written once, when no lane of Active traps; `trapped` says that one does by its
guard (07 R165, R169). -/
def Warp.compute (wp : Warp) (nf : Bool) (d : Option Reg) (trapped : Bool) (act helpers : List Nat) (f : Nat → LaneRes) : Warp :=
  match d with
  | some r =>
    if r.s then
      let w := (wp.mapLanes act (fun i l => l.compute nf false none (f i))).mapLanes helpers (fun i l => l.compute nf true none (f i))
      if trapped || !(wp.fpTraps nf act f).isEmpty then w
      else w.setSs r.n.toNat (wp.scalarWords nf act helpers f)
    else
      (wp.mapLanes act (fun i l => l.compute nf false (some r.n.toNat) (f i))).mapLanes helpers
        (fun i l => l.compute nf true (some r.n.toNat) (f i))
  | none =>
    (wp.mapLanes act (fun i l => l.compute nf false none (f i))).mapLanes helpers (fun i l => l.compute nf true none (f i))

end Sys2Proof.Machine
end

