-- ==== Sys2Proof/Machine/Code.lean ====
section
/-! DEFINITION. Code pages, the clause chain, branch targets and usable translations (07 R150-R152, R173, 18 R324, R325). A
program counter is a byte offset in the object's code section (10 R254). -/

namespace Sys2Proof.Machine

open Sys2Proof

/-- The virtual address of a program counter. -/
def Kernel.codeVa (k : Kernel) (pc : W64) : VAddr := BitVec.ofNat 57 (k.obj.va.toNat + k.obj.codeOff + pc.toNat)

/-- The virtual address of the 4 KiB page of an address. -/
def pageOf (va : VAddr) : VAddr := BitVec.ofNat 57 (va.toNat / 4096 * 4096)

/-- The die of a core (01 R18). -/
def dieOf (core : Nat) : Nat := core / Config.coresPerDie

/-- Whether the kernel's code runs interlocked: the queue forces it or the object's STEPPING is another (07 R162). -/
def Grid.interlocked (g : Grid) : Bool := g.il || g.kernel.obj.stepping != Config.dieStepping

/-- A tag a clause fetch of the grid finds usable (18 R325). -/
def usable (g : Grid) (secfuse : BitVec 8) (va : VAddr) (t : Tag) : Bool :=
  t.ctx == g.ctx && t.page == pageOf va && t.il == g.interlocked && (t.il || t.stepping == Config.dieStepping) &&
  t.secver == g.kernel.obj.secver && (!t.sobj || secfuse.toNat ≤ t.secver.toNat)

/-- The usable translation of a page on a core's die. -/
def State.tag? (s : State) (core : Nat) (g : Grid) (va : VAddr) : Option Tag :=
  (s.dies[dieOf core]?).bind fun d => d.tags.find? (usable g d.secfuse va)

/-- The 128-bit form of a tag (18 Table 18.1). -/
def Tag.packed (t : Tag) : BitVec 128 :=
  t.secver ++ t.stepping ++ (0 : BitVec 2) ++ BitVec.ofBool t.sobj ++ BitVec.ofBool t.sgn ++ BitVec.ofBool t.il ++ (1 : BitVec 1) ++
  BitVec.ofNat 9 t.ctx ++ t.page.extractLsb' 12 45 ++ BitVec.ofNat 7 t.nblk ++ BitVec.ofNat 13 t.start

/-- The word at an offset of a page's bytes. -/
def Tag.word (t : Tag) (off : Nat) : W64 := BitVec.ofNat 64 (leNat (memBytes t.bytes off 8))

/-- The code word at a program counter: from the usable translation, else from memory at its home when the page is mapped for
fetch, in migration or not (18 R327). -/
def State.codeWord? (s : State) (core : Nat) (g : Grid) (pc : W64) : Option W64 :=
  let va := g.kernel.codeVa pc
  match s.tag? core g va with
  | some t => some (t.word (pc.toNat % 4096))
  | none =>
    match walkPast s g.ctx va with
    | .ok x _ => if x.ex then some (s.word64 (x.addr va)) else none
    | _ => none

/-- What the clause chain of a page says of an offset. -/
inductive Chain where
  | clause (hoff : Nat) (hdr : W64)
  | broken (hoff : Nat) (hdr : W64)
  | unread
  deriving DecidableEq, Repr

/-- The clause of a page that holds an offset, the chain read from `off` on (07 R150, R152). -/
def chainFrom (rd : Nat → Option W64) (target : Nat) : Nat → Nat → Chain
  | 0, _ => .unread
  | fuel + 1, off =>
    match rd off with
    | none => .unread
    | some h =>
      let stop := off + 8 * ((unpackHeader h).count.toNat + 2)
      if 4096 < stop then .broken off h
      else if target < stop then .clause off h
      else chainFrom rd target fuel stop

/-- The clause at a program counter. -/
def State.clauseAt (s : State) (core : Nat) (g : Grid) (pc : W64) : Chain :=
  let base := pc.toNat / 4096 * 4096
  chainFrom (fun off => s.codeWord? core g (BitVec.ofNat 64 (base + off))) (pc.toNat % 4096) 512 0

/-- The priority a thread standing at a program counter has, or the one it had when the page cannot be read (02 R33). -/
def State.prioAt (s : State) (core : Nat) (g : Grid) (pc : W64) (old : BitVec 12) : BitVec 12 :=
  match s.clauseAt core g pc with
  | .clause _ h => (unpackHeader h).prio
  | .broken _ h => (unpackHeader h).prio
  | .unread => old

/-- The BAD_TARGET subcode of a target that is no clause header of the object (07 R173); none when it is one, and none for a page that no
translation and no mapping shows: its fetch fails (18 R327, log 58). SUB 3 is tried before SUB 2 (log 73). -/
def State.badTarget (s : State) (core : Nat) (g : Grid) (pc : W64) : Option Nat :=
  if pc.toNat % 8 != 0 then some 3
  else if g.kernel.obj.codeLen ≤ pc.toNat then some 2
  else match s.clauseAt core g pc with
    | .clause hoff _ => if hoff = pc.toNat % 4096 then none else some 1
    | .broken hoff _ => if hoff = pc.toNat % 4096 then none else some 1
    | .unread => none

end Sys2Proof.Machine
end

