-- ==== Sys2Proof/Machine/Object.lean ====
section
/-! DEFINITION. Code objects as the queue scheduler reads them: object header, kernel headers, view tables, the checks that reject a launch,
the size of a block's scratchpad region and of its save record (13 R313, R314, 05 R94-R96, 09 R205, 03 R67, 20 R357-R359, 21 R377, R390). -/

namespace Sys2Proof.Machine

open Sys2Proof

/-- Why a launch is rejected: KIND and OFFSET (20 Table 20.3). -/
structure Reject where
  kind : Nat
  off  : Nat
  deriving DecidableEq, Repr

/-! ## Bytes of an object -/

/-- A byte at a virtual address of a context. -/
def State.vbyte? (s : State) (ctx : Nat) (va : VAddr) : Option Byte :=
  match walk s ctx va with
  | .ok x _ => if s.unreachable ctx (x.addr va) then none else some (memGet s.mem (x.addr va))
  | _ => none

/-- The page of an address is in migration: an access to it is held (19 R351). -/
def State.pageStays (s : State) (ctx : Nat) (va : VAddr) : Bool := match walk s ctx va with | .migrating _ => true | _ => false

/-- A page of a range is in migration. -/
def State.rangeStays (s : State) (ctx va n : Nat) : Bool :=
  (List.range ((va % 2 ^ 16 + n + 2 ^ 16 - 1) / 2 ^ 16)).any fun k => s.pageStays ctx (BitVec.ofNat 57 (va / 2 ^ 16 * 2 ^ 16 + 2 ^ 16 * k))

/-- n bytes at a virtual address; an unmapped byte reads zero. -/
def State.vbytes (s : State) (ctx va n : Nat) : List Byte :=
  (List.range n).map fun k => (s.vbyte? ctx (BitVec.ofNat 57 (va + k))).getD 0

/-- A 32-bit word at a virtual address. -/
def State.vword (s : State) (ctx va : Nat) : Nat := leNat (s.vbytes ctx va 4)

/-- Bits hi..lo of a word at a virtual address. -/
def State.vfield (s : State) (ctx va hi lo : Nat) : Nat := field (s.vword ctx va) hi lo

/-- A failure of a kind at an offset. -/
def rejectIf (c : Bool) (kind off : Nat) : Option Reject := if c then some { kind := kind, off := off } else none

/-- The first failure of a list. -/
def firstReject : List (Option Reject) → Option Reject
  | [] => none
  | some r :: _ => some r
  | none :: l => firstReject l

/-! ## The object header -/

/-- The object header at a virtual address (13 Table 13.3). -/
def readObj (s : State) (ctx va : Nat) : CodeObj :=
  { va := BitVec.ofNat 57 va, codeOff := s.vword ctx (va + 0x18), codeLen := s.vword ctx (va + 0x1C), khOff := s.vword ctx (va + 0x14),
    nkern := s.vfield ctx (va + 8) 15 0, secver := BitVec.ofNat 32 (s.vword ctx (va + 0x0C)),
    stepping := BitVec.ofNat 16 (s.vfield ctx (va + 0x10) 15 0), signed := s.vword ctx (va + 0x3C) != 0 }

/-- Object header and version checks (20 R357 step 3, 07 R174). DESIGN CHOICE (log 107): an object at an address that is no multiple of 4,096 is accepted, since no rule
refuses it. -/
def objReject (s : State) (ctx va : Nat) : Option Reject :=
  let w (o : Nat) : Nat := s.vword ctx (va + o)
  firstReject [
    rejectIf (w 0 != 0x59444843) 2 0, rejectIf (field (w 4) 31 16 != 3) 2 6, rejectIf (field (w 8) 15 0 == 0) 2 8,
    rejectIf (field (w 8) 31 16 != 0) 2 0x0A, rejectIf (field (w 0x10) 31 16 != 0) 2 0x12,
    rejectIf (w 0x18 % 4096 != 0) 2 0x18, rejectIf (w 0x1C % 4096 != 0) 2 0x1C]

/-! ## Views -/

/-- A view descriptor read at a virtual address (05 Table 5.1). -/
def readView (s : State) (ctx va : Nat) : View :=
  let w (o : Nat) : W32 := BitVec.ofNat 32 (s.vword ctx (va + o))
  { base := BitVec.ofNat 57 (leNat (s.vbytes ctx va 8)), rank := ((w 8).extractLsb' 0 3).toNat, etype := (w 8).extractLsb' 11 4,
    space := (w 8).extractLsb' 15 3, rd := (w 8).getLsbD 18, wr := (w 8).getLsbD 19, oobZero := (w 8).extractLsb' 20 2 == 1,
    bpmask := (w 8).extractLsb' 22 5, ext := (List.range 5).map fun d => w (0x0C + 4 * d),
    str := (List.range 5).map fun d => w (0x20 + 4 * d), peer := (w 0x38).extractLsb' 0 16 }

/-- An invalid descriptor (05 R95, R96): the offset in it of the first field found wrong. -/
def viewReject (s : State) (ctx va : Nat) : Option Nat :=
  let w (o : Nat) : Nat := s.vword ctx (va + o)
  let v := readView s ctx va
  let scr := v.space == 1 || v.space == 2
  let no (c : Bool) (o : Nat) : Option Nat := if c then some o else none
  let checks : List (Option Nat) :=
    [no (13 ≤ v.etype.toNat) 9, no (v.base.toNat % max 1 v.size != 0) 0, no (scr && Config.scratchBytes ≤ v.base.toNat) 0,
     no (field (w 4) 31 25 != 0) 7, no (v.rank = 0 || 5 < v.rank) 8, no (field (w 8) 10 3 != 0) 8, no (5 ≤ v.space.toNat) 9,
     no (2 ≤ field (w 8) 21 20) 0x0A, no (!scr && v.bpmask != 0) 0x0A, no (field (w 8) 31 27 != 0) 0x0B] ++
    ((List.range 5).map fun d => no (if d < v.rank then nth 0 v.ext d == 0 else nth 0 v.ext d != 0) (0x0C + 4 * d)) ++
    ((List.range 5).map fun d => no (v.rank ≤ d && nth 0 v.str d != 0) (0x20 + 4 * d)) ++
    [no (w 0x34 != 0) 0x34, no (v.space != 3 && v.peer != 0) 0x38, no (field (w 0x38) 31 16 != 0 || w 0x3C != 0) 0x3A]
  (checks.filterMap id).foldl (fun b o => match b with | none => some o | some x => some (min x o)) none

/-- A call-stack view that breaks 09 R205. -/
def csviewReject (v : View) : Option Nat :=
  if v.space != 0 && v.space != 1 then some 9
  else if v.rank != (if v.space == 1 then 2 else 3) then some 8
  else if v.etype != 7 then some 9
  else if !v.rd || !v.wr then some 0x0A
  else none

/-! ## Kernel headers -/

/-- A kernel header's own checks (03 R67, R68, 13 Table 13.4), by object offset. -/
def kernelReject (s : State) (ctx va kh : Nat) : Option Reject :=
  let w (o : Nat) : Nat := s.vword ctx (va + kh + o)
  let f (o hi lo : Nat) : Nat := field (w o) hi lo
  let no (c : Bool) (o : Nat) : Option Reject := rejectIf c 4 (kh + o)
  firstReject (
    [no (f 0 4 0 == 0 || 16 < f 0 4 0 || f 0 7 5 != 0) 0, no (f 0 15 9 != 0) 1,
     no (f 0 24 16 < 8 || 256 < f 0 24 16 || f 0 24 16 % 8 != 0) 2, no (f 0 31 25 != 0) 3,
     no (f 4 3 0 != 0 || 8 < f 4 7 4) 4, no (f 4 11 9 != 0 || f 4 15 13 != 0) 5, no (f 4 23 17 != 0) 6,
     no (f 4 16 16 == 0 && f 4 31 24 != 0 && f 4 31 24 < 8) 7, no (16 < f 8 4 0 || f 8 7 5 != 0) 8, no (64 < f 8 15 8) 9,
     no (f 8 23 16 != 0xFF && f 8 15 8 ≤ f 8 23 16) 0x0A, no (f 8 31 24 != 0) 0x0B] ++
    [no ([0x0C, 0x10, 0x14, 0x18, 0x1C].any fun o => w o != 0) 0x0C, no (w 0x28 % 64 != 0) 0x28,
     no ([0x30, 0x34, 0x38, 0x3C].any fun o => w o != 0) 0x30])

/-- A kernel's view table (20 R357 step 5), by object offset. -/
def tableReject (s : State) (ctx va kh : Nat) : Option Reject :=
  let n := s.vfield ctx (va + kh + 8) 15 8
  let cs := s.vfield ctx (va + kh + 8) 23 16
  let vt := s.vword ctx (va + kh + 0x28)
  let bad (i : Nat) (o : Option Nat) : Option Reject := o.map fun x => { kind := 5, off := vt + 64 * i + x }
  firstReject (((List.range n).map fun i => bad i (viewReject s ctx (va + vt + 64 * i))) ++
    [if cs = 0xFF then none else bad cs (csviewReject (readView s ctx (va + vt + 64 * cs)))])

/-- The kernel that a header describes. -/
def readKernel (s : State) (ctx : Nat) (obj : CodeObj) (kidx : Nat) (priv : Bool) : Kernel :=
  let va := obj.va.toNat
  let kh := obj.khOff + 64 * kidx
  let f (o hi lo : Nat) : Nat := s.vfield ctx (va + kh + o) hi lo
  let vt := s.vword ctx (va + kh + 0x28)
  let h := s.vword ctx (va + kh + 0x24)
  { obj := obj, kidx := kidx, nv := f 0 24 16, wide := f 0 8 8 == 1, quad := f 4 8 8 == 1, gang := f 0 4 0, nacc := f 4 7 4, narg := f 8 4 0,
    quota := if f 4 31 24 = 0 then 32 else f 4 31 24, exact := f 4 16 16 == 1,
    views := (List.range (f 8 15 8)).map fun i => readView s ctx (va + vt + 64 * i),
    csview := if f 8 23 16 = 0xFF then none else some (f 8 23 16),
    handler := if h = 0xFFFFFFFF then none else some (BitVec.ofNat 64 h), idemp := f 4 12 12 == 1,
    entry := BitVec.ofNat 64 (s.vword ctx (va + kh + 0x20)), priv := priv }

/-- Header and view table of one kernel checked (20 R357 step 5). -/
def kernelFail (s : State) (ctx : Nat) (obj : CodeObj) (kidx : Nat) : Option Reject :=
  let va := obj.va.toNat
  let kh := obj.khOff + 64 * kidx
  firstReject [kernelReject s ctx va kh, tableReject s ctx va kh]

/-! ## Extents -/

/-- The extents, thread count and gang size of a launch break 02 R28 or R29. -/
def extentsBad (gx gy gz threads gang : Nat) : Bool :=
  gx < 1 || 2 ^ 31 ≤ gx || gy < 1 || 65535 < gy || gz < 1 || 65535 < gz || threads < 1 || 1024 < threads ||
  gx * gy * gz % max 1 gang != 0

/-- Warps of a block (02 R28). -/
def Kernel.warps (k : Kernel) (threads : Nat) : Nat := (threads + k.width - 1) / k.width

/-! ## Sizes -/

/-- A number rounded up to a multiple. -/
def roundUp (x m : Nat) : Nat := (x + m - 1) / m * m

/-- The end of the highest element a scratchpad view can reach: the bank permutation stays inside a 128-byte block, so the reach is rounded up
to one (20 R359). A view that passes the end of scratchpad counts as reaching its end (log 28). -/
def viewReach (v : View) : Nat :=
  let top : Int := v.base.toNat + (List.range v.rank).foldl (fun (n : Int) d =>
    n + max 0 ((((nth 0 v.ext d).toNat : Int) - 1) * (nth 0 v.str d).toInt * v.size)) 0 + v.size
  if v.scratch then min Config.scratchBytes (roundUp top.toNat 128) else 0

/-- The highest byte reachable through a scratchpad view, plus one. -/
def Kernel.reach (k : Kernel) : Nat := k.views.foldl (fun n v => max n (viewReach v)) 0

/-- Where a block's trap frames begin (21 R377). -/
def Kernel.framesAt (k : Kernel) : Nat := roundUp k.reach 256

/-- The size of a block's scratchpad region (20 R359, 21 R377). -/
def Kernel.regionSize (k : Kernel) (threads : Nat) : Nat :=
  if k.handler.isSome then roundUp (k.framesAt + 3072 * k.warps threads) 4096 else roundUp k.reach 4096

/-- The size of a block's save record (21 Table 21.10), with room for k guarded cards and the lines a warp may hold. -/
def Kernel.recordSize (k : Kernel) (threads cards : Nat) : Nat :=
  let warp := 4096 + roundUp (k.nv * k.width * 33 / 8) 256 + 128 * k.width + 128 * k.width + roundUp (144 * k.quota) 256
  256 + 256 + roundUp (256 + 288 * cards) 256 + roundUp 98560 256 + 65536 * k.nacc + k.regionSize threads + k.warps threads * warp

/-! ## The save pool -/

/-- The save pool of a partition: base and size in bytes (21 R390). -/
def State.poolBase (s : State) (p : Nat) : PAddr := field (nth 0 s.spool p).toNat 51 21 * 2 ^ 21
def State.poolSize (s : State) (p : Nat) : Nat := (field (nth 0 s.spool p).toNat 11 0 + 1) * 2 ^ 21

/-- Lines on loan to a block's warps. -/
def Block.loans (k : Block) : Nat := k.warps.foldl (fun n w => n + w.loaned) 0

/-- The bytes of the pool a block's record takes. Guarded cards of a block fill at most the seven queues of its core. -/
def State.recordBytes (s : State) (k : Block) : Nat :=
  match s.grids[k.grid]? with
  | some g => roundUp (g.kernel.recordSize g.threads (7 * Config.queueDepth)) 256
  | none => 0

/-- The blocks whose records a partition's pool holds: their places in the pool and their sizes. -/
def State.records (s : State) (p : Nat) : List (PAddr × Nat) :=
  s.blocks.filterMap fun k =>
    match s.grids[k.grid]? with
    | some g => if k.place != .gone && !g.sysCtx && g.part = p then some (k.savedAt, s.recordBytes k + 144 * k.loans) else none
    | none => none

/-- The lines by which a pool can still extend the park areas of a block's warps (21 R390). -/
def State.parkRoom (s : State) (b : Nat) : Nat :=
  match (s.blocks[b]?).bind fun k => s.grids[k.grid]? with
  | some g => (s.poolSize g.part - (s.records g.part).foldl (fun n x => n + x.2) 0) / 144
  | none => 0

/-- A place in a pool for a record of n bytes: the lowest where it meets no other. -/
def State.poolSpot (s : State) (p n : Nat) : Option PAddr :=
  let rs := s.records p
  let base := s.poolBase p
  let free (a : PAddr) : Bool := a + n ≤ base + s.poolSize p && rs.all fun r => a + n ≤ r.1 || r.1 + r.2 ≤ a
  ((base :: rs.map fun r => roundUp (r.1 + r.2) 256).filter free).foldl
    (fun b a => match b with | none => some a | some x => some (min x a)) none

end Sys2Proof.Machine
end

