-- ==== Sys2Proof/Machine/Region.lean ====
section
/-! DEFINITION. Homes, registrations, conflicts, held lines, write-backs and region ends (05 R102-R109, 06 R123-R130, R145,
19 R352). The directory of a line is what the warps' regions, the started cards' footprints and the registrations of other modules say (log 17).
Copies of one home line show the same bytes, those of one warp and those of the warps of a core; a byte is dirty at the address through which it was
stored (log 18). -/

namespace Sys2Proof.Machine

open Sys2Proof

/-- The 128-byte line of an address. -/
def lineOf (pa : PAddr) : PAddr := pa / 128 * 128
/-- The virtual line of an address. -/
def vlineOf (va : VAddr) : VAddr := BitVec.ofNat 57 (va.toNat / 128 * 128)

/-- TFAUX naming a warp of this module (06 Table 6.6). -/
def auxWarp (core ctxIdx : Nat) : W32 := BitVec.ofNat 32 (core * 2 ^ 16 + ctxIdx)
/-- TFAUX naming a job card. -/
def auxCard (core eng : Nat) : W32 := BitVec.ofNat 32 (2 ^ 30 + core * 2 ^ 16 + eng)
/-- TFAUX naming an agent of another module. -/
def auxPeer (mod : Nat) : W32 := BitVec.ofNat 32 (2 ^ 31 + 255 * 2 ^ 16 + mod)
/-- The agent of an incoming RoCE access with a place in the order of arrival (24 R413); 4096 is no module number, and TFAUX takes one from Config (log 17). -/
def roceAgent (place : Nat) : PeerAgent := { mod := 4096, id := place, card := false }
/-- TFAUX naming the agent of a registration. -/
def PeerReg.aux (g : PeerReg) : W32 := auxPeer (if g.agent.mod = 4096 then Config.roceMod g.agent.id % 2 ^ 16 else g.agent.mod)
/-- TFAUX naming the Sorrel card whose footprint a table's storage is; its core is free (12 R294, log 78). -/
def auxSorrel (line : PAddr) : W32 := auxCard (Config.sorrelCore line % Config.numCores) 6

/-- The grid's context of a block. -/
def State.ctxOf (s : State) (b : Nat) : Nat := (((s.blocks[b]?).bind fun k => s.grids[k.grid]?).map (·.ctx)).getD 0

/-- A registration of a line by a region other than `me` that conflicts with a request: whether it is a write, and the
party (06 R128). -/
def State.warpConflict (s : State) (me : Option WarpRef) (line : PAddr) (write : Bool) : Option (Bool × W32) :=
  (s.blocks.zipIdx.findSome? fun (k, b) =>
    if k.place = .gone || s.ctxOf b = sysCtx then none
    else k.warps.zipIdx.findSome? fun (w, j) =>
      if me = some { b := b, w := j } then none
      else (w.region.find? fun g => g.line == line && (write || g.write)).map fun g => (g.write, auxWarp k.core w.ctxIdx))

/-- The registrations of a line by agents of other modules, other than `me`, that conflict with a request (06 R132, R142). -/
def State.peerHits (s : State) (me : Option PeerAgent) (line : PAddr) (write : Bool) : List PeerReg :=
  s.peerRegs.filter fun g => g.line == line && (write || g.write) && some g.agent != me

/-- A registration by a region of another module that conflicts with a request. -/
def State.peerConflict (s : State) (me : Option PeerAgent) (line : PAddr) (write : Bool) : Option (Bool × W32) :=
  ((s.peerHits me line write).find? fun g => !g.agent.card).map fun g => (g.write, g.aux)

/-- A footprint of another module's job card that conflicts with an access (06 R142, R145). TFAUX names its module (log 80). -/
def State.peerCard (s : State) (me : Option PeerAgent) (line : PAddr) (write : Bool) : Option W32 :=
  ((s.peerHits me line write).find? (·.agent.card)).map PeerReg.aux

/-- A started card whose footprint conflicts with an access (06 R145): writes conflict with any box, reads with write boxes. -/
def State.cardConflict (s : State) (me : Option Nat) (f : Foot) (write : Bool) : Option W32 :=
  s.cards.findSome? fun c =>
    if c.started && some c.id != me && c.foot.any (fun x => x.1 == f && (write || x.2)) then some (auxCard c.core c.eng) else none

/-- The cards held for their registration of a line (06 R145). -/
def State.heldAt (s : State) (line : PAddr) : List Card :=
  s.cards.filter fun c => c.place.isSome && !c.started && c.foot.any (·.1 == .line line)

/-- A held card waits for the end of the warp's region. -/
def Card.awaits (c : Card) (w : Warp) : Bool :=
  w.region.any fun g => c.foot.any fun x => x.1 == .line g.line && (x.2 || g.write)

/-- The lines of a range. -/
def linesOf (pa n : Nat) : List PAddr := (List.range ((pa % 128 + n + 127) / 128)).map fun k => lineOf pa + 128 * k

/-- The line that a context's address has its home at. -/
def State.lineAt (s : State) (ctx : Nat) (va : VAddr) : List PAddr :=
  match walkPast s ctx va with
  | .ok x _ => [lineOf (x.addr va)]
  | _ => []

/-- The context, the virtual address and the direction of what an access of the RoCE engine makes next (24 R413). -/
def Inbound.next? (s : State) : Inbound → Option (Nat × VAddr × Bool)
  | .roce _ (.response qp _) _ => (s.roceWait.find? (·.qp == qp)).map fun w => (w.ctx, w.va, true)
  | .roce ctx (.rdmaWrite va _) _ => some (ctx, va, true)
  | .roce ctx (.rdmaRead va _) _ => some (ctx, va, false)
  | .roce ctx (.fetchAdd va _) _ => some (ctx, va, true)
  | .roce ctx (.cmpSwap va _ _) _ => some (ctx, va, true)
  | .work _ ctx (.send va _) _ => some (ctx, va, false)
  | .work _ ctx (.write va _ _) _ => some (ctx, va, false)
  | _ => none

/-- The lines that a held access from outside asks for next, and whether it writes: one of the RoCE engine is made line by line (24 R413). -/
def Inbound.claim (s : State) (x : Inbound) : List PAddr × Bool :=
  match x with
  | .stay (.read _ pa n) => (linesOf pa n, false)
  | .stay (.write _ pa bs) => (linesOf pa bs.length, true)
  | .stay (.register _ pa w) => ([lineOf pa], w)
  | .stay _ => ([], false)
  | _ => (x.next? s).elim ([], false) fun (ctx, va, w) => (s.lineAt ctx va, w)

/-- An incoming write has registered its line and is performed next (24 R413). -/
def HeldAccess.entered (s : State) (h : HeldAccess) (line : PAddr) : Bool := s.peerRegs.any fun g => g.agent == roceAgent h.place && g.line == line

/-- The accesses from outside the module that are held for a line; one that has registered it is held no more. -/
def State.inboxAt (s : State) (line : PAddr) : List HeldAccess :=
  s.inbox.filter fun h => (h.access.claim s).1.contains line && !h.entered s line

/-- A held access waits for the end of the warp's region. -/
def Inbound.awaits (s : State) (x : Inbound) (w : Warp) : Bool :=
  w.region.any fun g => (x.claim s).1.contains g.line && ((x.claim s).2 || g.write)

/-- A warp's registration of a line queues behind a held card, and behind an access from outside that is held as a card is (24 R413); the region that
they wait for does not (06 R145, log 51). -/
def State.queuesBehind (s : State) (w : Warp) (line : PAddr) : Bool :=
  ((s.heldAt line).any fun c => !c.awaits w) || (s.inboxAt line).any fun h => !h.access.awaits s w

/-- Element (i, r) of a rank-2 view, or element i of a rank-1 view, lies on a line of memory; a migration of its page leaves the line where it is until it ends
(19 R352). -/
def viewOnLine (s : State) (ctx : Nat) (v : View) (line : PAddr) : Bool :=
  let at_ (cs : List Int) : Bool :=
    let e := v.locate 1 cs
    e.outside.isNone && (match walkPast s ctx (BitVec.ofNat 57 e.addr.toNat) with
      | .ok x _ => lineOf (x.addr (BitVec.ofNat 57 e.addr.toNat)) == line
      | _ => false)
  (List.range (if v.rank = 2 then (nth 0 v.ext 1).toNat else 1)).any fun r =>
    (List.range (nth 0 v.ext 0).toNat).any fun i => at_ [(i : Int), (r : Int)]

/-- The lines of memory on which a view's elements lie. -/
def viewLines (s : State) (ctx : Nat) (v : View) : List PAddr :=
  let at_ (cs : List Int) : List PAddr :=
    let e := v.locate 1 cs
    if e.outside.isSome then [] else s.lineAt ctx (BitVec.ofNat 57 e.addr.toNat)
  ((List.range (if v.rank = 2 then (nth 0 v.ext 1).toNat else 1)).flatMap fun r =>
    (List.range (nth 0 v.ext 0).toNat).flatMap fun i => at_ [(i : Int), (r : Int)]).eraseDups

/-- The storage of every current or pinned version of an embedding table is the footprint of an active Sorrel card (12 R294). -/
def State.sorrelHolds (s : State) (f : Foot) : Bool :=
  match f with
  | .scratch _ _ => false
  | .line pa => s.tables.any fun t => t.vers.any fun v =>
      (v.current || v.pins != 0) &&
      (viewOnLine s t.ctx v.table pa || (match v.state with | some x => viewOnLine s t.ctx x pa | none => false))

/-- The subcode of MM_CONFLICT for a request that met another registration (06 Table 6.5). -/
def conflictSub (write sync met : Bool) : Nat := if sync then 4 else if !write then 3 else if met then 2 else 1

/-- The verdict of a home on a request (06 R128, R145): the subcode and TFAUX of MM_CONFLICT, or none. The dump routine's
accesses take part in no conflict (06 R121). Which of several parties is named: log 80. -/
def State.conflict (s : State) (me : WarpRef) (line : PAddr) (write sync : Bool) : Option (Nat × W32) :=
  if s.ctxOf me.b = sysCtx then none
  else match s.cardConflict none (.line line) write with
  | some aux => some (5, aux)
  | none =>
    if s.sorrelHolds (.line line) then some (5, auxSorrel line)
    else match s.peerCard none line write with
    | some aux => some (5, aux)
    | none => ((s.warpConflict (some me) line write).or (s.peerConflict none line write)).map fun x => (conflictSub write sync x.1, x.2)

/-- The verdict on a scratchpad access (06 R145). -/
def State.scratchConflict (s : State) (me : WarpRef) (blk : Nat) (off : Nat) (write : Bool) : Option W32 :=
  if s.ctxOf me.b = sysCtx then none else s.cardConflict none (.scratch blk (off / 128)) write

/-! ## Stores not yet performed -/

/-- The places of all warps. -/
def State.refs (s : State) : List WarpRef :=
  s.blocks.zipIdx.flatMap fun (k, b) => (List.range k.warps.length).map fun w => { b := b, w := w }

/-- Every warp of every block changed by a function of its place. -/
def State.mapWarps (s : State) (f : WarpRef → Warp → Warp) : State :=
  { s with blocks := s.blocks.zipIdx.map fun (k, b) =>
      { k with warps := k.warps.zipIdx.map fun (w, j) => f { b := b, w := j } w } }

/-- The store lies on a line. -/
def PendStore.on (line : PAddr) (x : PendStore) : Bool := lineOf x.pa == line

/-- The stores of a warp that a test selects, performed at their homes in issue order (06 R133, R139). -/
def State.performBy (s : State) (r : WarpRef) (p : PendStore → Bool) : State :=
  match s.warp? r with
  | none => s
  | some w =>
    if w.stores.any p then
      ((w.stores.filter p).foldl (fun s x => s.putBytes x.pa x.bytes) s).modWarp r fun w => { w with stores := w.stores.filter fun x => !p x }
    else s

/-- Every store of a warp performed. -/
def State.drain (s : State) (r : WarpRef) : State := s.performBy r fun _ => true

/-- The stores of every warp to a line performed (06 R128). -/
def State.performLine (s : State) (line : PAddr) : State := s.refs.foldl (fun s r => s.performBy r (PendStore.on line)) s

/-- The oldest store of a warp to the line of its k-th performed, and the others left (06 R139). -/
def State.performOne (s : State) (r : WarpRef) (k : Nat) : State :=
  match (s.warp? r).bind fun w => (w.stores[k]?).bind fun x => w.stores.find? (PendStore.on (lineOf x.pa)) with
  | none => s
  | some x => (s.putBytes x.pa x.bytes).modWarp r fun w => { w with stores := w.stores.erase x }

/-! ## Held lines -/

/-- The line a binding holds, with whether the binding pins it. -/
def bindLine? (b : Bind) : Option (VAddr × Bool) :=
  match b with
  | .bound l _ m _ => some (l, m != .s)
  | _ => none

/-- The core of a block. -/
def State.coreOf (s : State) (b : Nat) : Nat := ((s.blocks[b]?).map (·.core)).getD 0

/-- A block stands on a core. -/
def State.standsOn (s : State) (b core : Nat) : Bool := (s.blocks[b]?).any fun k => k.place == .resident && k.core == core

/-- Every binding of a warp. -/
def Warp.bindings (wp : Warp) : List Bind := wp.lanes.flatMap (·.binds)

/-- Held lines that some binding still names, pinned while a pinning binding names them; a line that was parked stays
parked (05 R102, R104, R109). -/
def Warp.dropUnheld (wp : Warp) : Warp :=
  let bs := wp.bindings.filterMap bindLine?
  { wp with held := wp.held.filterMap fun h =>
      if bs.any (·.1 == h.line) then some { h with pinned := h.pinned && bs.contains (h.line, true) } else none }

/-- The held count, LHELD: distinct lines pinned or bound .S, parked lines left out (05 R104). DESIGN CHOICE (log 89): lines are told apart by their
virtual addresses, so that one frame held at two addresses counts as two. -/
def Warp.heldCount (wp : Warp) : Nat := (wp.held.filter fun h => !h.parked).length

/-- The held line at a virtual line. -/
def Warp.held? (wp : Warp) (l : VAddr) : Option HeldLine := wp.held.find? (·.line == l)

/-- Loaned lines return to the pool as the held count falls, down to the quota (05 R106). -/
def Warp.returnLoans (wp : Warp) : Warp := { wp with loaned := min wp.loaned (wp.heldCount - wp.quota) }

def Warp.modHeld (wp : Warp) (l : VAddr) (f : HeldLine → HeldLine) : Warp :=
  { wp with held := wp.held.map fun h => if h.line == l then f h else h }

/-- The warp's pinned copies of a home line, parked ones among them, changed: one frame may be held at several addresses (06 R122). -/
def Warp.modHome (wp : Warp) (home : PAddr) (f : HeldLine → HeldLine) : Warp :=
  { wp with held := wp.held.map fun h => if h.pinned && h.home == home then f h else h }

/-- The pinned copies of a home line that hold bytes to write back. -/
def Warp.dirtyCopies (wp : Warp) (home : PAddr) : List HeldLine := wp.held.filter fun h => h.pinned && h.home == home && h.dirty != 0

/-- The copies of a home line that stand in the line store changed. -/
def Warp.modCopy (wp : Warp) (home : PAddr) (f : HeldLine → HeldLine) : Warp :=
  { wp with held := wp.held.map fun h => if h.pinned && !h.parked && h.home == home then f h else h }

/-- A copy of a home line the warp holds pinned, in the line store if there is one. -/
def Warp.copyOf (wp : Warp) (home : PAddr) : Option HeldLine :=
  (wp.held.find? fun h => h.pinned && !h.parked && h.home == home).or (wp.held.find? fun h => h.pinned && h.home == home)

/-- Every other warp of the core changed in its copies of a home line: they are one copy (05 R102). -/
def State.shareCopy (s : State) (r : WarpRef) (home : PAddr) (f : HeldLine → HeldLine) : State :=
  s.mapWarps fun q w => if q != r && s.standsOn q.b (s.coreOf r.b) then w.modCopy home f else w

/-- The free pool of a core: 6144 less every resident reservation and every line on loan (05 R105). -/
def State.pool (s : State) (core : Nat) : Nat :=
  Config.lineStoreLines -
    (s.blocks.foldl (fun n k => if k.core = core && k.place = .resident then
        k.warps.foldl (fun n w => n + w.quota + w.loaned) n else n) 0)

/-- The lines a warp of a block may borrow: the core's free pool, as far as the save pool can hold their park area (05 R105, 21 R390). -/
def State.lendable (s : State) (b core : Nat) : Nat := min (s.pool core) (s.parkRoom b)

/-- A capacity-blocked entry becomes eligible when its warp's held count falls (05 R107). -/
def Warp.unblock (wp : Warp) : Warp :=
  { wp with entries := wp.entries.map fun e => if e.st = .capBlocked then { e with st := .runnable, retry := true } else e }

/-- Lines no longer named leave the warp; loans return, and capacity-blocked entries become eligible if the count fell. -/
def Warp.release (wp : Warp) : Warp :=
  let w := wp.dropUnheld
  if w.heldCount < wp.heldCount then w.returnLoans.unblock else w.returnLoans

/-! ## Write-backs and region ends -/

/-- A line with nothing left to write back. -/
def HeldLine.clean (h : HeldLine) : HeldLine := { h with dirty := 0 }
/-- A line whose error has been reported. -/
def HeldLine.found (h : HeldLine) : HeldLine := { h with lost := false }

/-- What a write-back does. -/
inductive Wb where
  | done
  | held
  | failed (aux : W32)
  deriving DecidableEq, Repr


/-- The warp-level trap of an event that names no lane: raised, as R267 delivers errors, at a later boundary. -/
def Warp.addErr (wp : Warp) (code sub : Nat) (addr : VAddr) (aux : W32) : Warp :=
  { wp with errs := wp.errs ++ [{ trap := mkTrap 0 code sub addr aux, pc := none }] }

/-- Writing one held line back at its home with byte enables (05 R100, 06 R126, 19 R352). -/
def writeBackLine (s : State) (r : WarpRef) (h : HeldLine) : State × Wb :=
  if h.dirty = 0 then (s, .done)
  else
    let ctx := s.ctxOf r.b
    match translate s { core := s.coreOf r.b, lane := none } ctx h.line .write with
    | (.migrating, s) => (s, .held)
    | (.fail, s) =>
      (s.modWarp r fun w => (w.modHeld h.line HeldLine.clean).addErr 9 0 h.line 1, .failed 1)
    | (.ok pa, s) =>
      if s.unreachable ctx pa then
        (s.modWarp r fun w => (w.modHeld h.line HeldLine.clean).addErr 9 0 h.line 2, .failed 2)
      else
        ((s.putLine pa h.dirty h.data).modWarp r fun w => w.modHeld h.line HeldLine.clean, .done)

/-- Writing back a list of held lines; true when a migration holds one. -/
def writeBackLines (s : State) (r : WarpRef) : List HeldLine → State × Bool
  | [] => (s, false)
  | h :: hs =>
    match writeBackLine s r h with
    | (s, .held) =>
      let (s, _) := writeBackLines s r hs
      (s, true)
    | (s, _) => writeBackLines s r hs

/-- A dirty line that an uncorrectable error took raises SCRATCH_UE SUB 3, of those a test selects (21 R395). -/
def Warp.raiseLostIn (wp : Warp) (p : HeldLine → Bool) : Warp :=
  match wp.held.find? fun h => h.lost && p h with
  | some h => ({ wp with held := wp.held.map fun h => if p h then h.found else h }).addErr 0x0F 3 h.line 0
  | none => wp

/-- The same of every line. -/
def Warp.raiseLost (wp : Warp) : Warp := wp.raiseLostIn fun _ => true

/-- The end of the warp's region (06 R126): its relaxed stores performed and every dirty byte to its home, then the registrations dropped. False when
a write-back is held by a migration: then nothing is dropped and the region end is completed later. -/
def endRegion (s : State) (r : WarpRef) : State × Bool :=
  match s.warp? r with
  | none => (s, true)
  | some w =>
    match writeBackLines (s.drain r) r w.held with
    | (s, true) => (s.modWarp r (fun x => { x with ending := true }), false)
    | (s, false) => (s.modWarp r fun w => { w.raiseLost with region := [], ending := false }, true)

/-- The line is one of those of a footprint: its virtual line is named, or its home is. -/
def HeldLine.among (vlines : List VAddr) (plines : List PAddr) (h : HeldLine) : Bool :=
  vlines.contains h.line || (h.pinned && plines.contains h.home)

/-- The region's registrations of given lines dropped, with their bytes written back: the region end an engine command makes for
its card's footprint (06 Table 6.3). -/
def endRegionLines (s : State) (r : WarpRef) (vlines : List VAddr) (plines : List PAddr) : State × Bool :=
  match s.warp? r with
  | none => (s, true)
  | some w =>
    let hs := w.held.filter (HeldLine.among vlines plines)
    match writeBackLines s r hs with
    | (s, true) => (s, false)
    | (s, false) => (s.modWarp r fun w =>
        { w.raiseLostIn (HeldLine.among vlines plines) with
          region := w.region.filter fun g => !plines.contains g.line && !hs.any fun h => h.pinned && h.home == g.line }, true)

/-! ## Registration -/

/-- The outcome of a registration. -/
inductive Reg1 where
  | ok
  | conflict (sub : Nat) (aux : W32)
  | held
  deriving DecidableEq, Repr

/-- A clean copy takes the home's bytes where it is not dirty (06 R126, R129). -/
def refreshBytes (dirty : BitVec 128) (old new : List Byte) : List Byte :=
  new.zipIdx.map fun (b, k) => if dirty.getLsbD k then nth 0 old k else b

/-- The bytes of a home with all that the warp has still to write back there laid over them: a frame may be held at several addresses, and each holds
the bytes stored through it (05 R102, 06 R122). -/
def Warp.overlay (wp : Warp) (home : PAddr) (bs : List Byte) : List Byte :=
  (wp.dirtyCopies home).foldl (fun bs h => refreshBytes h.dirty h.data bs) bs

/-- A copy that takes a line's bytes under its own dirty ones. -/
def HeldLine.refresh (new : List Byte) (h : HeldLine) : HeldLine := { h with data := refreshBytes h.dirty h.data new, stale := false }

/-- What a warp finds at a home: its bytes, and its own dirty bytes over them. -/
def homeBytes (s : State) (r : WarpRef) (home : PAddr) : List Byte :=
  match s.warp? r with
  | some w => w.overlay home (s.bytes home 128)
  | none => s.bytes home 128

/-- The copies of a line that the warp holds, and with them those of the core, refreshed from the home (06 R129). -/
def refreshLine (s : State) (r : WarpRef) (line : PAddr) : State :=
  let s := s.performLine line
  let bs := homeBytes s r line
  (s.modWarp r fun w => w.modCopy line (HeldLine.refresh bs)).shareCopy r line (HeldLine.refresh bs)

/-- A held card comes before the warp's registration of a line (06 R145). -/
def State.mustQueue (s : State) (r : WarpRef) (w : Warp) (line : PAddr) : Bool := s.ctxOf r.b != sysCtx && s.queuesBehind w line

/-- Registering a line in the warp's region (06 R127, R128): nothing when it holds an equal or stronger registration; a
footprint at 256 lines ends the region first (06 Table 6.3). A line for which a card is held comes after that card (06 R145). Relaxed stores on their
way to the line are performed first. -/
def register (s : State) (r : WarpRef) (line : PAddr) (write : Bool) : State × Reg1 :=
  match s.warp? r with
  | none => (s, .ok)
  | some w =>
    match w.region.find? (·.line == line) with
    | some g =>
      if g.write || !write then (s, .ok)
      else if s.mustQueue r w line then (s, .held)
      else match s.conflict r line true false with
        | some (sub, aux) => (s, .conflict sub aux)
        | none =>
          (s.modWarp r fun w => { w with region := w.region.map fun g => if g.line == line then { g with write := true } else g }, .ok)
    | none =>
      let ends : Bool := 256 ≤ w.region.length
      let (s, done) := if ends then endRegion s r else (s, true)
      if !done || s.mustQueue r (if ends then { w with region := [] } else w) line then (s, .held)
      else match s.conflict r line write false with
        | some (sub, aux) => (s, .conflict sub aux)
        | none => (refreshLine (s.modWarp r fun w => { w with region := w.region ++ [{ line := line, write := write }] }) r line, .ok)

/-- What a word leaves behind that a registration holds in a state `t`: nothing of its lanes' work, but a region end that the footprint's 256 lines made stands,
since what the registration queues behind may await it (06 Table 6.3, R145). -/
def State.atHold (s t : State) (r : WarpRef) : State :=
  if (s.warp? r).any (fun w => !w.region.isEmpty) && (t.warp? r).any (fun w => w.region.isEmpty) then (endRegion s r).1 else s

/-- The warp's region holds a registration of a line of an equal or stronger kind (06 Table 6.4). -/
def Warp.registered (w : Warp) (line : PAddr) (write : Bool) : Bool := w.region.any fun g => g.line == line && (g.write || !write)

/-- A line whose copy is out of date. -/
def HeldLine.markStale (h : HeldLine) : HeldLine := { h with stale := true }

/-- The warp's own stores to a line performed, before it reads the line or fills a copy of it (06 R122). -/
def State.flush (s : State) (r : WarpRef) (line : PAddr) : State := s.performBy r (PendStore.on line)

/-- The core's part of an .S access: the warp's dirty bytes of the line go home first, before a read or an access made at once its earlier stores
too (`now`), and a write marks its pinned copies stale, at whatever address they are held (06 R123, R139). A store that itself only joins the warp's
stores leaves those before it, which are performed in issue order line by line. None when a migration holds a write-back. -/
def ownLineFirst (s : State) (r : WarpRef) (line : PAddr) (write now : Bool) : Option State :=
  let s := if now then s.flush r line else s
  let stale (s : State) : State := if write then s.modWarp r fun w => w.modHome line HeldLine.markStale else s
  match s.warp? r with
  | none => some s
  | some w =>
    match writeBackLines s r (w.dirtyCopies line) with
    | (_, true) => none
    | (s, false) => some (stale s)

end Sys2Proof.Machine
end

