-- ==== Sys2Proof/Machine/Ops.lean ====
section
/-! DEFINITION. The named operations over entries and warps: finishing a word, parking traps, waking waits, merging, taking an
exception (delivery to the handler, to privileged recovery, or to Chervil) and returning from one (02 R34-R43, 07 R171,
21 R373-R383). -/

namespace Sys2Proof.Machine

open Sys2Proof

/-! ## Entries -/

/-- An entry is Runnable. -/
def Entry.runs (e : Entry) : Bool := e.st == .runnable && e.mask != 0

/-- The lanes of trap-parked entries. -/
def Warp.parkedMask (wp : Warp) : LaneMask :=
  wp.entries.foldl (fun m e => match e.st with | .trapParked _ _ => m ||| e.mask | _ => m) 0

/-- The lanes that have retired. -/
def Warp.retiredMask (wp : Warp) : LaneMask :=
  maskOf ((List.range wp.lanes.length).filter fun i => (wp.lane i).retired)

/-- The lanes a warp-wide word or JOIN awaits: neither retired nor trap-parked (02 R41, R43). -/
def Warp.awaited (wp : Warp) : LaneMask :=
  maskOf ((List.range wp.lanes.length).filter fun i => !(wp.lane i).retired && !wp.parkedMask.getLsbD i)

/-- Promotion of a Runnable entry whose count has reached 4096 (02 R37). -/
def Entry.promote (e : Entry) (promo : Nat) : Entry :=
  if e.runs && 4096 ≤ e.age && e.promoted.isNone then { e with promoted := some promo } else e

/-- Counting one issue cycle: each other Runnable entry ages, and is promoted when its count reaches 4096 (02 R37). -/
def ageEntry (promo : Nat) (e : Entry) : Entry :=
  if e.runs then Entry.promote { e with age := e.age + 1 } promo else e

/-- Ageing of every entry but the issuing one. DESIGN CHOICE (log 88): a word of a 64-wide warp, two native issues (02 R40), is one issue cycle. -/
def Warp.age (wp : Warp) (e : Nat) : Warp :=
  { wp with entries := wp.entries.zipIdx.map (fun (x, k) => if k = e then x else ageEntry wp.promotions x),
            promotions := wp.promotions + 1 }

/-- Lanes that leave the issuing entry for an entry of their own: mask, program counter and state. -/
structure Leave where
  mask : LaneMask
  pc   : W64
  st   : EState
  deriving DecidableEq, Repr

/-- A new entry for lanes that leave an entry. -/
def Entry.split (e : Entry) (now : Nat) (l : Leave) : Entry :=
  { pc := l.pc, prio := e.prio, mask := l.mask, st := l.st, age := 0, promoted := none, overflow := false, handler := e.handler,
    retry := false, woken := false, since := now, begun := none, stay := none }

/-- The words of a clause in progress from the one in hand, which stands at a program counter. -/
def ClauseCur.rest (c : ClauseCur) (pc : W64) : Begun := { hdr := c.hdr, hpc := c.hpc, start := pc, code := c.word :: c.code }

/-- The words of a begun clause from a program counter inside it to its end. -/
def Begun.from? (b : Begun) (pc : W64) : Option (List W64) :=
  if b.start.toNat ≤ pc.toNat && pc.toNat < b.start.toNat + 8 * b.code.length then some (b.code.drop ((pc.toNat - b.start.toNat) / 8)) else none

/-- Lanes blocked or waiting at their word have begun its clause and not finished it (18 R331). -/
def EState.stands (st : EState) : Bool :=
  match st with
  | .waiting _ => true
  | .capBlocked => true
  | _ => false

/-- Lanes that part off the issuing entry at a word; those that wait there go on with the clause as it was begun (18 R331). -/
def Entry.partOff (e : Entry) (cur : ClauseCur) (now : Nat) (l : Leave) : Entry :=
  { e.split now l with begun := if l.st.stands then some (cur.rest e.pc) else none }

/-- A leave without the lanes that trap (07 R165). -/
def Leave.without (t : LaneMask) (l : Leave) : Leave := { l with mask := l.mask &&& ~~~ t }

/-- The end of a word for its entry: trapping lanes form one trap-parked entry at the word (21 R373), lanes in `leaves` form
entries of their own unless they trap, lanes that have retired leave the frontier, and the rest stand at the next word, or at the next header when
the word stood last (07 R151). A class 5 clause ends for the entry when its lanes part (07 R156). -/
def Warp.finish (wp : Warp) (now : Nat) (traps : List LaneTrap) (leaves : List Leave) : Warp :=
  match wp.cur with
  | none => wp
  | some cur =>
    match wp.entries[cur.e]? with
    | none => { wp with cur := none }
    | some ent =>
      let t := ent.mask &&& maskOf (traps.map (·.lane))
      let lv := (leaves.map (Leave.without t)).filter fun l => l.mask != 0
      let out := lv.foldl (fun m l => m ||| l.mask) t
      let rest := ent.mask &&& ~~~ (out ||| wp.retiredMask)
      let parked := if t = 0 then [] else [ent.split now { mask := t, pc := ent.pc, st := .trapParked traps cur.word }]
      let w := wp.age cur.e
      let part := rest != ent.mask
      { w with
        entries := (w.entries.modify cur.e fun e => { e with mask := rest, pc := ent.pc + 8, retry := false }) ++ parked ++
                   lv.map (ent.partOff cur now),
        cur := if rest = 0 || cur.left ≤ 1 || (part && (unpackHeader cur.hdr).cls == 5) then none
               else some { cur with left := cur.left - 1, stay := none },
        lastIssue := now }

/-- The pin and the counter, when they fire in the present cycle (24 R417). -/
def State.firing (s : State) : BitVec 3 :=
  (if s.frz.fsrc.getLsbD 0 && s.agenda.contains (.event .freezePin) then 1 else 0) |||
  (if s.frz.fsrc.getLsbD 2 && s.cycle = s.frz.fcnt.toNat then 4 else 0)

/-- The trigger of the freeze that a raised trap code fires (24 R417); those that fire in the same cycle are recorded with it. -/
def State.freezeOn (s : State) (traps : List LaneTrap) : State :=
  if s.frz.arm && s.frz.fsrc.getLsbD 1 && traps.any (fun t => t.code == s.frz.fcode.toNat) then
    { s with frz := { s.frz with frozen := true, fcause := s.frz.fcause ||| 2 ||| s.firing } }
  else s

/-- Finishing the word of the issuing warp. -/
def State.finish (s : State) (r : WarpRef) (traps : List LaneTrap) (leaves : List Leave) : State :=
  (s.modWarp r fun w => w.finish s.cycle traps leaves).freezeOn traps

/-- The issuing entry waits at its word as a whole; when the wait ends it issues the word again, in the clause as it was begun (18 R331). -/
def Warp.waitAt (wp : Warp) (now : Nat) (st : EState) : Warp :=
  match wp.cur with
  | none => wp
  | some cur =>
    { wp with
      entries := wp.entries.modify cur.e fun e =>
        { e with st := st, since := now, begun := some (cur.rest e.pc), stay := if st == .waiting .migration then some (cur.stay.getD now) else none },
      cur := none }

/-- The issuing entry held at its word. -/
def State.hold (s : State) (r : WarpRef) (w : Wait) : State := s.modWarp r fun wp => wp.waitAt s.cycle (.waiting w)

/-! ## Wakes -/

/-- A Waiting entry goes on to the word after the one it waits at. -/
def Entry.wakeNext (e : Entry) : Entry := { e with st := .runnable, pc := e.pc + 8, woken := true }
/-- A Waiting entry becomes Runnable where it stands. -/
def Entry.wakeHere (e : Entry) : Entry := { e with st := .runnable, woken := true }

/-- Entries satisfying a test changed. -/
def Warp.mapEntries (wp : Warp) (p : Entry → Bool) (f : Entry → Entry) : Warp :=
  { wp with entries := wp.entries.map fun e => if p e then f e else e }

/-- The end of a wait that also ends the region (06 Table 6.3): the entry goes on, or is held by a migrating write-back. -/
def State.wakeRegion (s : State) (r : WarpRef) (k : Nat) (f : Warp → Warp) : State :=
  let (s, done) := endRegion s r
  s.modWarp r fun w =>
    let w := f w
    { w with entries := w.entries.modify k fun e =>
        { e with pc := e.pc + 8, st := if done then .runnable else .waiting .migration, woken := true, since := s.cycle } }

/-- The entries of a warp with their places. -/
def Warp.indexed (wp : Warp) : List (Entry × Nat) := wp.entries.zipIdx

/-- The comparison of WAITA (10 Table 10.8). -/
def waitaTest (cmp : BitVec 3) (x c : W32) : Bool :=
  match cmp.toNat with
  | 0 => x == c
  | 1 => x != c
  | 2 => x.toInt < c.toInt
  | 3 => c.toInt ≤ x.toInt
  | 4 => x.toNat < c.toNat
  | 5 => c.toNat ≤ x.toNat
  | _ => (x &&& c) != 0

/-- The word at a scratchpad offset of a block. -/
def State.scratchWord (s : State) (b off : Nat) : W32 :=
  BitVec.ofNat 32 (leNat (memBytes (((s.blocks[b]?).map (·.bytes)).getD []) off 4))

/-- PHASE and OVR of a byte-barrier record (05 Table 5.8). -/
def State.barbWord (s : State) (b off : Nat) : W32 := s.scratchWord b (off + 4)

/-- Predicates written in the lanes of a WAITA or JOIN that ends. -/
def Warp.setPredIn (wp : Warp) (lanes : List Nat) (pd : BitVec 3) (f : Nat → Bool) : Warp :=
  wp.mapLanes lanes fun i l => l.setPred pd { val := f i, poison := false }

/-- The lanes of BARB waits. -/
def barbLanes (l : List WaitPhase) : LaneMask := maskOf (l.map (·.lane))

/-- BARRIER_OVERRUN of the lanes of a BARB wait (05 R120). -/
def overrunTraps (bad : List WaitPhase) : List LaneTrap := bad.map fun x => mkTrap x.lane 0x0D 0 0 0

/-- The lanes of a BARB wait whose record has OVR set leave it with BARRIER_OVERRUN (05 R120). -/
def Warp.overrun (wp : Warp) (now k : Nat) (e : Entry) (bad good : List WaitPhase) : Warp :=
  let traps := overrunTraps bad
  let out : Leave := { mask := barbLanes bad, pc := e.pc, st := .trapParked traps ((bad.head?.map (·.word)).getD 0) }
  { wp with entries := (wp.entries.modify k fun x =>
      { x with mask := x.mask &&& ~~~ barbLanes bad, st := .waiting (.barb good) }) ++ [e.split now out] }

/-- A block that issues nothing: halted (21 R385) or not on a core. -/
def Block.still (k : Block) : Bool := k.halted || k.place != .resident

/-- The block of a warp issues nothing; its entries keep their states (21 R385). -/
def State.still (s : State) (b : Nat) : Bool := ((s.blocks[b]?).map Block.still).getD true

/-- The state of one entry replaced. -/
def State.setEntry (s : State) (r : WarpRef) (k : Nat) (st : EState) : State :=
  s.modWarp r fun w => { w with entries := w.entries.modify k fun e => { e with st := st } }

/-- A BARB wait whose every lane's PHASE differs from its q ends; in a halted block nothing is left to test, and it ends at RESUMEB (05 R120,
21 R385). -/
def State.testPhase (s : State) (r : WarpRef) (k : Nat) (ws : List WaitPhase) : State :=
  if ws.all (fun w => (s.barbWord w.blk w.off).getLsbD 29 != w.q) then
    if s.still r.b then s.setEntry r k (.waiting (.barb [])) else s.wakeRegion r k id
  else s

/-- A deadline whose cycle is over. -/
def pastDue (s : State) (dl : Option Nat) : Bool := dl.any (· < s.cycle)

/-- One entry tested after a scratchpad write. A WAITA whose every lane is satisfied by the end of its deadline's cycle ends with pd false (05 R117,
10 R243). Of a BARB wait the lanes whose record has OVR set leave with BARRIER_OVERRUN, and the rest are tested (05 R120). In a halted block
what came about is kept until RESUMEB (21 R385). -/
def State.testEntry (s : State) (r : WarpRef) (e : Entry) (k : Nat) : State :=
  match e.st with
  | .waiting (.waita ws pd dl) =>
    let ws2 := ws.map fun w => { w with sat := w.sat || waitaTest w.cmp (s.scratchWord w.blk w.off) w.c }
    if !s.still r.b && pastDue s dl then s
    else if !s.still r.b && ws2.all (·.sat) then s.wakeRegion r k fun w => w.setPredIn (ws2.map (·.lane)) pd fun _ => false
    else s.setEntry r k (.waiting (.waita ws2 pd dl))
  | .waiting (.barb ws) =>
    let isBad (w : WaitPhase) : Bool := (s.barbWord w.blk w.off).getLsbD 31
    let bad := ws.filter isBad
    if bad.isEmpty then s.testPhase r k ws
    else if s.still r.b then s
    else
      let good := ws.filter fun x => !isBad x
      let t := (s.modWarp r fun w => w.overrun s.cycle k e bad good).freezeOn (overrunTraps bad)
      if good.isEmpty then t else t.testPhase r k good
  | _ => s

/-- Every entry of a warp tested. -/
def State.testWarp (s : State) (r : WarpRef) : State :=
  match s.warp? r with
  | none => s
  | some w => w.indexed.foldl (fun s (e, k) => s.testEntry r e k) s

/-- Whether a warp has an entry that tests scratchpad words. -/
def Warp.watches (wp : Warp) : Bool :=
  wp.entries.any fun e => match e.st with | .waiting (.waita _ _ _) => true | .waiting (.barb _) => true | _ => false

/-- After a write to scratchpad every waiter tests again (05 R117, 10 R243). -/
def State.wakeScratch (s : State) : State :=
  s.refs.foldl (fun s r => match s.warp? r with | some w => if w.watches then s.testWarp r else s | none => s) s

/-- Bytes written to a block's scratchpad, and the waiters woken. -/
def State.putScratch (s : State) (b off : Nat) (bs : List Byte) : State :=
  (s.modBlock b fun k => { k with bytes := memPut k.bytes off bs }).wakeScratch

/-- Bytes of a block's scratchpad. -/
def State.scratchBytes (s : State) (b off n : Nat) : List Byte :=
  memBytes (((s.blocks[b]?).map (·.bytes)).getD []) off n

/-! ## Merging -/

/-- The entries of a group merged into the one at place k; the others keep no lane. -/
def Warp.mergeInto (wp : Warp) (k : Nat) (grp : Entry → Bool) (f : Entry → Entry) : Warp :=
  let m := wp.entries.foldl (fun m e => if grp e then m ||| e.mask else m) 0
  let a := wp.entries.foldl (fun a e => if grp e then max a e.age else a) 0
  let p := wp.entries.foldl (fun (p : Option Nat) e =>
    if grp e then (match p, e.promoted with | some x, some y => some (min x y) | none, q => q | q, none => q) else p) none
  { wp with entries := wp.entries.zipIdx.map fun (e, j) =>
      if j = k then f { e with mask := m, age := a, promoted := p } else if grp e then { e with mask := 0 } else e }

/-- The entry waits at a warp-wide or quad word (02 R41, R42). -/
def Entry.meets (e : Entry) : Bool := e.st == .waiting .warpWide || e.st == .waiting .quadWide

/-- The entry waits at a JOIN (02 R43). -/
def Entry.joins (e : Entry) : Bool := match e.st with | .waiting (.join _ _) => true | _ => false

/-- Entry `x` stands where `e` does, both in handler mode or both outside it, so that their lanes can come together (02 R35). -/
def Entry.besides (e x : Entry) : Bool := x.pc == e.pc && x.mask != 0 && x.handler == e.handler

/-- The lanes of the entries that a test selects. -/
def Warp.lanesBy (wp : Warp) (p : Entry → Bool) : LaneMask := wp.entries.foldl (fun m x => if p x then m ||| x.mask else m) 0

/-- The quads that hold a lane of a mask, as a mask of whole quads. -/
def quadsOf (m : LaneMask) : LaneMask := maskOf ((List.range 64).filter fun i => (List.range 4).any fun k => m.getLsbD (i / 4 * 4 + k))

/-- The lanes of the entries that a mask's quads bring together, each entry with all its lanes. -/
def quadGroup (here : Entry → Bool) (es : List Entry) : Nat → LaneMask → LaneMask
  | 0, m => m
  | n + 1, m => quadGroup here es n (es.foldl (fun m x => if here x && quadsOf m &&& x.mask != 0 then m ||| x.mask else m) m)

/-- One group of entries that meet at a word: merged when every awaited lane is there. At a quad word the group is those entries whose quads
bring them together, and the lanes awaited are those of its quads (02 R41, R42). -/
def Warp.meetAt (wp : Warp) (k : Nat) (e : Entry) : Warp :=
  let here (x : Entry) : Bool := e.besides x && x.meets
  match e.st with
  | .waiting .warpWide => if wp.awaited &&& ~~~ wp.lanesBy here = 0 then wp.mergeInto k here Entry.wakeHere else wp
  | .waiting .quadWide =>
    let m := quadGroup here wp.entries 16 e.mask
    if quadsOf m &&& wp.awaited &&& ~~~ m = 0 then wp.mergeInto k (fun x => here x && x.mask &&& m != 0) Entry.wakeHere else wp
  | _ => wp

/-- The decision on one entry at a JOIN at the end of the cycles before `bound` (02 R43): arrival of every awaited lane merges the entries there with
pd false; else an entry whose deadline's cycle is over goes on alone with pd true. -/
def Warp.decideJoin (wp : Warp) (bound k : Nat) : Warp :=
  match wp.entries[k]? with
  | some e =>
    match e.st with
    | .waiting (.join pd dl) =>
      let here (x : Entry) : Bool := e.besides x && x.joins
      let all := wp.lanesBy here
      if e.mask = 0 then wp
      else if wp.awaited &&& ~~~ all = 0 then (wp.mergeInto k here Entry.wakeNext).setPredIn (lanesOf all) pd fun _ => false
      else if dl.any (· < bound) then
        { wp.setPredIn (lanesOf e.mask) pd fun _ => true with entries := wp.entries.modify k Entry.wakeNext }
      else wp
    | _ => wp
  | none => wp

/-- The decision on every entry at a JOIN. -/
def Warp.decideJoins (wp : Warp) (bound : Nat) : Warp := (List.range wp.entries.length).foldl (fun w k => w.decideJoin bound k) wp

/-- The JOIN decisions at the end of the cycles before `bound`, in the blocks that issue (02 R43); a halted block's deadlines stand still (21 R385). -/
def State.decideJoins (s : State) (bound : Nat) : State :=
  { s with blocks := s.blocks.map fun k => if k.still then k else { k with warps := k.warps.map (·.decideJoins bound) } }

/-- Every group of entries that meet, tried in place order. -/
def Warp.meetAll (wp : Warp) : Warp :=
  (List.range wp.entries.length).foldl (fun w k =>
    match w.entries[k]? with
    | some e => if e.mask = 0 then w else w.meetAt k e
    | none => w) wp

/-- Runnable entries at one program counter merge, unless one is in handler mode and the other is not (02 R35). -/
def Warp.mergeRunnable (wp : Warp) : Warp :=
  (List.range wp.entries.length).foldl (fun w k =>
    match w.entries[k]? with
    | some e =>
      if e.runs && !e.retry then
        w.mergeInto k (fun x => x.runs && !x.retry && x.pc == e.pc && x.handler == e.handler) id
      else w
    | none => w) wp

/-- Entries that hold no lane go. -/
def Warp.dropEmpty (wp : Warp) : Warp := { wp with entries := wp.entries.filter fun e => e.mask != 0 }

/-- Rank in the order of 02 R35: higher priority first, then lower program counter. -/
def Entry.before (a b : Entry) : Bool := b.prio.toNat < a.prio.toNat || (a.prio == b.prio && a.pc.toNat < b.pc.toNat)

/-- The order in which entries, with their places, keep the frontier and issue: promoted ones first, in the order of their promotion, then by rank
(02 R35-R37). Where the rules leave two entries equal, the one earlier in the list comes first (log 71). -/
def ahead (x y : Entry × Nat) : Bool :=
  match x.1.promoted, y.1.promoted with
  | some a, some b => a < b || (a == b && x.2 < y.2)
  | some _, none => true
  | none, some _ => false
  | none, none => x.1.before y.1 || (!(y.1.before x.1) && x.2 < y.2)

/-- The frontier of at most sixteen entries (02 R34, R36, R37): promoted entries of the overflow area enter it; beyond sixteen the lowest leave it;
below sixteen the highest of the overflow area come back. -/
def Warp.markOverflow (wp : Warp) : Warp :=
  let inside (e : Entry) : Bool := !e.overflow || e.promoted.isSome
  let es := wp.indexed.filter fun x => x.1.mask != 0
  let front := es.filter fun x => inside x.1
  let rest := es.filter fun x => !inside x.1
  let out (x : Entry × Nat) : Bool :=
    if inside x.1 then 16 ≤ (front.filter (ahead · x)).length else 16 ≤ front.length + (rest.filter (ahead · x)).length
  { wp with entries := wp.indexed.map fun x => { x.1 with overflow := x.1.mask != 0 && out x } }

/-- The entry issued next: the promoted entry promoted earliest, else the Runnable entry of highest rank (02 R35). An entry of the overflow area is
chosen when no other runs ahead of it: overflow is visible in time only (02 R36). Ties: log 71. -/
def Warp.choose (wp : Warp) : Option Nat :=
  ((wp.indexed.filter fun x => x.1.runs).foldl (fun (best : Option (Entry × Nat)) x =>
    match best with
    | none => some x
    | some b => if ahead x b then some x else some b) none).map (·.2)

/-! ## Taking an exception -/

/-- Codes that go to the kernel's handler when there is one (21 Table 21.1). -/
def handlerCode (code : Nat) : Bool := [0x01, 0x02, 0x0B, 0x11, 0x12].contains code

/-- The privileged words' lane state: the trap-frame CSRs filled for one lane (21 R375 step 3). -/
def Lane.fillFrame (l : Lane) (pc word : W64) (mask : LaneMask) (t : LaneTrap) : Lane :=
  { l with tf := { pc := pc.extractLsb' 0 32, code := BitVec.ofNat 32 (t.sub * 256 + t.code), word := word, addr := t.addr,
                   mask := mask, aux := t.aux } }

/-- The trap of a lane among an entry's traps. -/
def trapOf (ts : List LaneTrap) (i : Nat) : LaneTrap := (ts.find? (·.lane == i)).getD (mkTrap i 0 0 0 0)

/-- The bits of a list of Booleans, least significant first. -/
def boolsNat : List Bool → Nat
  | [] => 0
  | b :: l => (if b then 1 else 0) + 2 * boolsNat l

/-- The 48 bytes of a lane's trap frame (21 Table 21.3): the handler set, p0-p6, and their poison bits. -/
def Lane.frameBytes (l : Lane) (nv : Nat) : List Byte :=
  let hs := (List.range 8).map fun k => nth zeroPW l.v (nv - 8 + k)
  hs.flatMap (fun x => natLE 4 x.val.toNat) ++ natLE 4 (boolsNat (l.p.map (·.val))) ++
    natLE 4 (boolsNat (hs.map (·.poison)) + 256 * boolsNat (l.p.map (·.poison))) ++ List.replicate 8 0

/-- Where lane i of warp w has its frame (21 R377). -/
def frameAt (k : Block) (w i : Nat) : Nat := k.frames + 3072 * w + 48 * i

/-- The handler set and predicates restored from a frame (21 R380). -/
def Lane.restoreFrame (l : Lane) (nv : Nat) (bs : List Byte) : Lane :=
  let pois := leNat (bs.drop 0x24 |>.take 4)
  let pred := leNat (bs.drop 0x20 |>.take 4)
  let l := (List.range 8).foldl (fun l k =>
    l.setV (nv - 8 + k) { val := BitVec.ofNat 32 (leNat (bs.drop (4 * k) |>.take 4)), poison := pois / 2 ^ k % 2 == 1 }) l
  { l with p := (List.range 7).map fun k => { val := pred / 2 ^ k % 2 == 1, poison := pois / 2 ^ (8 + k) % 2 == 1 } }

/-- The kernel of a block's grid. -/
def State.kernelOf? (s : State) (b : Nat) : Option Kernel := ((s.blocks[b]?).bind fun k => s.grids[k.grid]?).map (·.kernel)

/-- A trap-parked entry that is a context fault: a lane holds a code that no handler takes, there is no handler, or the lanes are
in handler mode (21 R373, R376). Privileged code has no context (21 R383). -/
def Entry.faults (e : Entry) (k : Kernel) : Bool :=
  match e.st with
  | .trapParked ts _ => !k.priv && (k.handler.isNone || e.handler || ts.any fun t => !handlerCode t.code)
  | _ => false

/-- Some lane of the warp is in handler mode. -/
def Warp.inHandler (wp : Warp) : Bool := wp.lanes.any fun l => l.handler && !l.retired

/-- The lowest lane of a mask. -/
def lowest (m : LaneMask) : Nat := ((lanesOf m).head?).getD 64

/-- The trap-parked entry with the lowest home lane (21 R374). -/
def Warp.firstParked (wp : Warp) : Option Nat :=
  (wp.indexed.foldl (fun (best : Option (Nat × Nat)) (e, k) =>
    match e.st with
    | .trapParked _ _ =>
      if e.mask = 0 then best
      else match best with
        | some (l, _) => if lowest e.mask < l then some (lowest e.mask, k) else best
        | none => some (lowest e.mask, k)
    | _ => best) none).map (·.2)

/-- Chervil is called for a context's fault, once. -/
def State.callChervil (s : State) (ctx : Nat) : State :=
  if s.agenda.contains (.event (.contextFault ctx)) then s else { s with agenda := .event (.contextFault ctx) :: s.agenda }

/-- TAKING AN EXCEPTION, to the kernel's handler (21 R375): the region ends; the handler set and p0-p6 of the entry's lanes go to
the trap frame; the trap-frame CSRs are filled; the lanes enter handler mode at HANDLER. A handler address that is no clause
header makes the lanes raise BAD_TARGET, a context fault. -/
def takeHandler (s : State) (r : WarpRef) (k : Nat) : State :=
  match s.warp? r, s.blocks[r.b]?, s.kernelOf? r.b with
  | some wp, some blk, some kern =>
    match wp.entries[k]?, s.grids[blk.grid]?, kern.handler with
    | some e, some g, some h =>
      match e.st with
      | .trapParked ts word =>
        match s.badTarget blk.core g h with
        | some sub =>
          let bad := ts.map fun t => mkTrap t.lane 4 sub (BitVec.ofNat 57 h.toNat) 0
          (s.modWarp r fun w => { w with entries := w.entries.modify k fun x => { x with st := .trapParked bad word } }).freezeOn bad
        | none =>
          let (s, done) := endRegion s r
          if !done then s
          else
            let s := s.modBlock r.b fun b =>
              { b with bytes := (lanesOf e.mask).foldl (fun m i => memPut m (frameAt b r.w i) ((wp.lane i).frameBytes kern.nv)) b.bytes }
            let p := s.prioAt blk.core g h e.prio
            s.modWarp r fun w =>
              let w := w.mapLanes (lanesOf e.mask) fun i l => { l.fillFrame e.pc word e.mask (trapOf ts i) with handler := true }
              { w with entries := w.entries.modify k fun x =>
                  { x with pc := h, prio := p, st := .runnable, handler := true, age := 0, promoted := none } }
      | _ => s
    | _, _, _ => s
  | _, _, _ => s

/-- The release of a core's array by a block that leaves (02 R32, 11 R274), and the core's time without a block (20 R371). -/
def Core.dropBlock (c : Core) (b now : Nat) (empty : Bool) : Core :=
  { c with holder := if c.holder = some b then none else c.holder, lease := if c.holder = some b then 0 else c.lease,
           reqs := c.reqs.filter (·.1 != b), emptyAt := if empty then now else c.emptyAt }

/-- A block leaves its core. -/
def State.vacate (s : State) (b : Nat) (p : Place) : State :=
  match s.blocks[b]? with
  | none => s
  | some k =>
    let s := s.modBlock b fun k => { k with place := p }
    let empty := !s.blocks.any fun x => x.core = k.core && x.place = .resident
    s.modCore k.core fun c => c.dropBlock b s.cycle empty

/-- TAKING AN EXCEPTION in privileged code (21 R383): the region ends (06 Table 6.3); with SCONT nonzero the trap-frame CSRs are filled, SNEST rises and the lanes
go to SCONT with their registers unchanged; with SCONT zero Chervil ends the privileged block and logs the trap. -/
def takePrivileged (s : State) (r : WarpRef) (k : Nat) : State :=
  match s.warp? r with
  | none => s
  | some wp =>
    match wp.entries[k]? with
    | none => s
    | some e =>
      match e.st with
      | .trapParked ts word =>
        let (s, done) := endRegion s r
        if !done then s
        else if wp.scont = 0 then
          let t := ts.headD (mkTrap 0 0 0 0 0)
          { s.vacate r.b .gone with
            cards := s.cards.filter (·.blk != r.b),
            log := s.log ++ [natLE 4 (t.sub * 256 + t.code) ++ natLE 8 e.pc.toNat] }
        else
          s.modWarp r fun w =>
            let w := w.mapLanes (lanesOf e.mask) fun i l => l.fillFrame e.pc word e.mask (trapOf ts i)
            { w with snest := w.snest + 1,
                     entries := w.entries.modify k fun x => { x with pc := w.scont.setWidth 64, st := .runnable } }
      | _ => s

/-- An entry of lanes that took an error of the block's own memory, and no other trap (21 R394). -/
def Entry.memoryError (e : Entry) : Bool :=
  match e.st with
  | .trapParked ts _ => ts.all fun t => t.code == 0x0F
  | _ => false

/-- The end of a block called for, once. -/
def State.callBlockEnd (s : State) (r : WarpRef) : State :=
  let m : Move := .event (.scratchUe r.b r 0 0)
  if s.agenda.contains m then s else { s with agenda := m :: s.agenda }

/-- Delivery at a clause boundary of a warp (21 R374): a context fault at once, or the end of the block for an error of its memory
(21 R394, R395), in privileged code too; otherwise, when no lane is in handler mode, the parked entry with the lowest home lane. -/
def deliver (s : State) (r : WarpRef) : State :=
  match s.warp? r, s.kernelOf? r.b with
  | some wp, some kern =>
    let bad := wp.entries.filter fun e => e.mask != 0 && e.faults kern
    if bad.any (fun e => !e.memoryError) then s.callChervil (s.ctxOf r.b)
    else if !bad.isEmpty then s.callBlockEnd r
    else if kern.priv && wp.entries.any (fun e => e.mask != 0 && e.memoryError) then s.callBlockEnd r
    else if kern.priv then (match wp.firstParked with | some k => takePrivileged s r k | none => s)
    else if wp.inHandler then s
    else match wp.firstParked with
      | some k => takeHandler s r k
      | none => s
  | _, _ => s

/-- RETURNING FROM AN EXCEPTION (21 R380): once every handler lane that has not retired stands at this TRET, the handler set and
p0-p6 come back from the frame, each lane resumes at TFPC + adj, and the lanes form one entry per program counter. -/
def tretReturn (s : State) (r : WarpRef) (adj : Nat) (m : LaneMask) : State :=
  match s.blocks[r.b]?, s.kernelOf? r.b with
  | some blk, some kern =>
    s.modWarp r fun w =>
      let w2 := w.mapLanes (lanesOf m) fun i l =>
        { l.restoreFrame kern.nv (memBytes blk.bytes (frameAt blk r.w i) 48) with handler := false }
      let target (i : Nat) : W64 := (w.lane i).tf.pc.setWidth 64 + BitVec.ofNat 64 adj
      let pcs := ((lanesOf m).map target).eraseDups
      match w2.entries.find? (fun e => e.handler) with
      | none => w2
      | some e0 =>
        { w2 with
          entries := (w2.entries.map fun e => { e with mask := e.mask &&& ~~~ m }) ++
            pcs.map fun p => { e0.split s.cycle { mask := maskOf ((lanesOf m).filter fun i => target i == p), pc := p, st := .runnable } with
                               handler := false, woken := true },
          cur := none, lastIssue := s.cycle }
  | _, _ => s

/-! ## Issuing a word -/

/-- What the body of a word leaves: done (some lanes trapped, some leave for other places, the rest go on), or the whole entry held
at the word to issue it again, or the body has placed every lane itself. -/
inductive Body where
  | done (s : State) (traps : List LaneTrap) (leaves : List Leave)
  | hold (s : State) (w : Wait)
  | placed (s : State)
  deriving DecidableEq, Repr

/-- A trap raised alike by every lane of a list. -/
def trapAll (lanes : List Nat) (code sub : Nat) : List LaneTrap := lanes.map fun i => mkTrap i code sub 0 0

/-- The words that wait for the whole warp, or for their quads (02 R41, R42). -/
def wideWait (op : Nat) : Option Wait :=
  if [0x70, 0x73, 0x74, 0x75, 0x76, 0x77, 0x79, 0x7A, 0x7B, 0xB8, 0xB9, 0xBA, 0xBB, 0xC0].contains op then some .warpWide
  else if op = 0x71 || op = 0x72 then some .quadWide
  else none

/-- The awaited lanes of a warp-wide or quad word are all in the issuing entry. -/
def Ctx.together (c : Ctx) (w : Wait) : Bool :=
  match w with
  | .quadWide => quadsOf c.ent.mask &&& c.wp.awaited &&& ~~~ c.ent.mask == 0
  | _ => c.wp.awaited &&& ~~~ c.ent.mask == 0

/-- The opcode of the word in hand. -/
def Ctx.op (c : Ctx) : Nat := c.cur.word.toNat / 2 ^ 56

/-- The word in hand stands last in its clause. -/
def Ctx.isLast (c : Ctx) : Bool := c.cur.left ≤ 1

/-- The decode check of a word that fails first: its trap code (07 R171 steps 2-5). -/
def Ctx.decodeTrap (c : Ctx) (op : Nat) (legal : Bool) : Option Nat :=
  if 0xE0 ≤ op then some 1
  else if !classAdmits (unpackHeader c.cur.hdr).cls.toNat op c.isLast then some 3
  else if privileged op && !c.kern.priv then some 9
  else if !legal then some 2
  else none

/-- Finishing what a body left; the lanes whose guard is poisoned trap with it. -/
def Body.end (b : Body) (r : WarpRef) (gp : List LaneTrap) : State :=
  match b with
  | .done s traps leaves => s.finish r (gp ++ traps) leaves
  | .hold s w => s.hold r w
  | .placed s => s

/-- The words that a helper lane performs on its own registers: those that compute, load or read (02 R44). -/
def actsInHelpers (op : Nat) : Bool :=
  op < 0x70 || [0x94, 0x98, 0x99, 0xA0, 0xA3, 0xD0, 0xD2, 0xD6, 0xDA, 0xDC].contains op

/-- The word does nothing: no lane of the entry is active, and it acts in no helper lane (02 R44, 07 R165). -/
def Ctx.idle (c : Ctx) (op : Nat) (g : Guard) : Bool :=
  (c.active g).isEmpty && (c.helpers.isEmpty || !actsInHelpers op || (g.pred == 7 && g.neg))

/-- The pipeline of every instruction word (07 R165, R171): the warp-wide wait, the guard, the decode checks, then the word's own body over
Active without helpers and over the helper lanes. -/
def issueWord (op : Nat) (i : Instr) (g : Guard) (body : State → Ctx → List Nat → List Nat → Body) (s : State) : Out :=
  match s.ctx? with
  | none => .fault .noIssuingWarp
  | some c =>
    match (wideWait op).filter fun w => !c.together w with
    | some w => .next (s.hold c.r w)
    | none =>
      let gp := (c.guardPoisoned g).map fun i => c.wp.poisonTrap i 3
      let act := c.active g
      if c.idle op g then .next (s.finish c.r gp [])
      else match c.decodeTrap op (fieldsOk i c.kern) with
        | some code => .next (s.finish c.r (gp ++ trapAll act code 0) [])
        | none => .next ((body s c act c.helpers).end c.r gp)

/-- A word that cannot be decoded, or whose opcode is reserved (07 R170, R171): after the wait of its opcode (02 R41, R42) and the guard,
ILLEGAL_OPCODE, CLASS_MISMATCH, PROTECTION or RESERVED_FIELD in every active lane. -/
def badWord (w : W64) (reservedCell : Bool) (s : State) : Out :=
  match s.ctx? with
  | none => .fault .noIssuingWarp
  | some c =>
    match (wideWait (w.toNat / 2 ^ 56)).filter fun x => !c.together x with
    | some x => .next (s.hold c.r x)
    | none =>
      let g : Guard := { neg := w.getLsbD 55, pred := w.extractLsb' 52 3 }
      let gp := (c.guardPoisoned g).map fun i => c.wp.poisonTrap i 3
      let act := c.active g
      if act.isEmpty then .next (s.finish c.r gp [])
      else
        let code := if reservedCell then 1 else (c.decodeTrap (w.toNat / 2 ^ 56) false).getD 2
        .next (s.finish c.r (gp ++ trapAll act code 0) [])

/-- A word that computes in registers (08 R176): `f` gives each lane's result from the warp as it stands before the word. -/
def computeWord (op : Nat) (i : Instr) (g : Guard) (nf : Bool) (d : Option Reg) (f : Ctx → Nat → LaneRes) (s : State) : Out :=
  issueWord op i g (fun s c act hl =>
    .done (s.modWarp c.r fun w => w.compute nf d (c.spoiled g) act hl (f c)) (c.wp.fpTraps nf act (f c)) []) s

end Sys2Proof.Machine
end

