-- ==== Sys2Proof/Machine/Barrier.lean ====
section
/-! DEFINITION. Block and gang barriers: arrivals, expectations and phases (10 R247). -/

namespace Sys2Proof.Machine

open Sys2Proof

/-- A barrier with no arrival yet. -/
def noBarrier : Barrier := { count := 0, arrived := 0, phase := false, nfix := none }
def Block.bar (k : Block) (n : Nat) : Barrier := nth noBarrier k.bars n
def Block.gbar (k : Block) (n : Nat) : Barrier := nth noBarrier k.gbars n

/-- The threads of a block that have not retired. -/
def Block.alive (k : Block) : Nat := k.warps.foldl (fun n w => n + (w.lanes.filter fun l => !l.retired).length) 0

/-- An arrival of n threads of warp w. -/
def Barrier.arrive (x : Barrier) (n w : Nat) (fix : Option Nat) : Barrier :=
  { x with count := x.count + n, arrived := x.arrived ||| ((1 : BitVec 32) <<< w), nfix := match x.nfix with | some m => some m | none => fix }

/-- A barrier after its phase has passed. -/
def Barrier.pass (x : Barrier) : Barrier := { count := 0, arrived := 0, phase := !x.phase, nfix := none }

def Block.setBar (k : Block) (n : Nat) (f : Barrier → Barrier) : Block := { k with bars := k.bars.modify n f }
def Block.setGbar (k : Block) (n : Nat) (f : Barrier → Barrier) : Block := { k with gbars := k.gbars.modify n f }

/-- Every entry of a block that waits for something goes on; in a halted block they keep their states until RESUMEB (21 R385). -/
def Block.wake (k : Block) (w : Wait) : Block :=
  if k.still then k else
  { k with warps := k.warps.map fun x => x.mapEntries (fun e => e.st == .waiting w) Entry.wakeNext }

/-- A block barrier passes when its count reaches the expectation (10 R247). -/
def Block.checkBar (k : Block) (n : Nat) : Block :=
  let x := k.bar n
  if 0 < x.count && x.nfix.getD k.alive ≤ x.count then (k.setBar n Barrier.pass).wake (.barrier n x.phase) else k

/-- The barrier phase an entry waits for has passed. -/
def Block.passed (k : Block) (w : Wait) : Bool :=
  match w with
  | .barrier n ph => (k.bar n).phase != ph
  | .gbarrier n ph => (k.gbar n).phase != ph
  | _ => false

/-- The blocks of a gang, by place. -/
def gangOf (s : State) (b : Nat) : List Nat :=
  match s.blocks[b]? with
  | none => []
  | some k =>
    let g := ((s.grids[k.grid]?).map (·.kernel.gang)).getD 1
    (s.blocks.zipIdx.filter fun (x, _) => x.grid == k.grid && x.lin / g == k.lin / g && x.place != .gone).map (·.2)

/-- A sum over the blocks of a gang. -/
def gangSum (s : State) (bs : List Nat) (f : Block → Nat) : Nat := bs.foldl (fun n b => n + ((s.blocks[b]?).map f).getD 0) 0

/-- A gang barrier passes when the arrivals of all its blocks reach the threads of the gang that have not retired (10 R247). -/
def checkGbar (s : State) (b n : Nat) : State :=
  let bs := gangOf s b
  let count := gangSum s bs fun k => (k.gbar n).count
  if 0 < count && gangSum s bs Block.alive ≤ count then
    bs.foldl (fun s x => s.modBlock x fun k => (k.setGbar n Barrier.pass).wake (.gbarrier n (k.gbar n).phase)) s
  else s

/-- Every barrier of a block checked, after a retirement (10 R247). -/
def checkBarriers (s : State) (b : Nat) : State :=
  let s := s.modBlock b fun k => (List.range 8).foldl Block.checkBar k
  (List.range 4).foldl (fun s n => checkGbar s b n) s

end Sys2Proof.Machine
end

