-- ==== Sys2Proof/Machine/Control.lean ====
section
/-! DEFINITION. The control words, opcodes 0x80-0x8A: branches, calls with their spills, CALLX records, JOIN, EXIT, TRAP, BRK,
YIELD and PAUSE (09 R200-R212), and the branch-mask prediction counters (02 R38, 15 R319). -/

namespace Sys2Proof.Machine

open Sys2Proof

/-! ## Prediction -/

/-- The prediction made at the issue of a control word whose GP is not 7 (15 R319): PREDCNT counts it, the history keeps what the
guard selected, and the resolution follows as the next step. -/
def State.predict (s : State) (g : Guard) : State :=
  match s.ctx? with
  | none => s
  | some c =>
    if g.pred = 7 then s
    else
      let actual := maskOf (c.selected g)
      let guess := assocGet 0 (c.wp.hist.map fun x => (x.1.toNat, x.2)) c.ent.pc.toNat &&& c.ent.mask
      { s.modWarp c.r (fun w =>
          { w with predCnt := w.predCnt + 1, pred := some { pc := c.ent.pc, predicted := guess, actual := actual },
                   hist := (c.ent.pc, actual) :: w.hist.filter (·.1 != c.ent.pc) }) with
        agenda := .event (.maskResolve c.r) :: s.agenda }

/-- The prediction for a control word that cannot be decoded, whose guard is read like any other's (15 R319). DESIGN CHOICE (log 108): the reserved opcodes 0x8B to 0x8F
make none, since no control word stands there. -/
def State.predictBad (s : State) (w : W64) : State :=
  let op := w.toNat / 2 ^ 56
  if 0x80 ≤ op && op ≤ 0x8A then s.predict { neg := w.getLsbD 55, pred := w.extractLsb' 52 3 } else s

/-- A control word: its prediction, then the pipeline of every word. -/
def controlWord (op : Nat) (i : Instr) (g : Guard) (body : State → Ctx → List Nat → Body) (s : State) : Out :=
  issueWord op i g (fun s c act _ => body s c act) (s.predict g)

/-- The resolution of a warp's outstanding prediction: MISPCNT and REPLCNT grow when the mask differs (15 R319). Lanes, registers
and memory are as if no prediction had been made (02 R38, R39). -/
def execMaskResolve (w : WarpRef) (s : State) : Out :=
  .next (s.modWarp w fun x =>
    match x.pred with
    | none => x
    | some p =>
      let n := (lanesOf (p.predicted ^^^ p.actual)).length
      { x with pred := none, mispCnt := if n = 0 then x.mispCnt else x.mispCnt + 1,
               replCnt := x.replCnt + BitVec.ofNat 32 n })

/-! ## Targets -/

/-- A distinct target with its lanes, put in ascending order of target. -/
def addTarget (i : Nat) (pc : W64) : List (W64 × LaneMask) → List (W64 × LaneMask)
  | [] => [(pc, maskOf [i])]
  | (q, m) :: l =>
    if pc = q then (q, m ||| maskOf [i]) :: l
    else if pc.toNat < q.toNat then (pc, maskOf [i]) :: (q, m) :: l
    else (q, m) :: addTarget i pc l

/-- Lanes grouped by target, targets ascending (09 R203, R208). -/
def byTarget (l : List (Nat × W64)) : List (W64 × LaneMask) := l.foldl (fun g x => addTarget x.1 x.2 g) []

/-- Groups of lanes that leave for their targets. -/
def runAt (g : List (W64 × LaneMask)) : List Leave := g.map fun x => { mask := x.2, pc := x.1, st := .runnable }

/-- The check of 09 R202 on a lane's target: BAD_TARGET with the target. -/
def targetTrap (s : State) (c : Ctx) (i : Nat) (pc : W64) : Option LaneTrap :=
  (s.badTarget c.blk.core c.grid pc).map fun sub => mkTrap i 4 sub (BitVec.ofNat 57 pc.toNat) 0

/-- The relative target: the word's own address plus 8 times IMM32. -/
def relTarget (c : Ctx) (off : W32) : W64 := c.ent.pc + 8 * off.signExtend 64

/-- The lanes whose targets are headers, and the traps of the others. -/
def checkTargets (s : State) (c : Ctx) (ts : List (Nat × W64)) : List (Nat × W64) × List LaneTrap :=
  (ts.filter fun x => (targetTrap s c x.1 x.2).isNone, ts.filterMap fun x => targetTrap s c x.1 x.2)

/-- The register targets of the active lanes, and POISON_CONSUMED for the poisoned ones (09 R202). -/
def regTargets (s : State) (c : Ctx) (a : Reg) (act : List Nat) : List (Nat × W64) × List LaneTrap :=
  let bad := act.filter fun i => (c.wp.pair a i).poison
  let good := act.filter fun i => !(c.wp.pair a i).poison
  let (ok, traps) := checkTargets s c (good.map fun i => (i, (c.wp.pair a i).val))
  (ok, bad.map (fun i => c.wp.poisonTrap i 3) ++ traps)

/-- BRA (09 R203). -/
def execBra (o : BraOp) (s : State) : Out :=
  controlWord 0x80 (.bra o) o.g (fun s c act =>
    let (ok, traps) := checkTargets s c (act.map fun i => (i, relTarget c o.off))
    .done s traps (runAt (byTarget ok))) s

/-- BRX (09 R203). -/
def execBrx (o : BrxOp) (s : State) : Out :=
  controlWord 0x81 (.brx o) o.g (fun s c act =>
    let (ok, traps) := regTargets s c o.a act
    .done s traps (runAt (byTarget ok))) s

/-! ## The call stack -/

/-- Where a spill slot lies. -/
inductive SlotAt where
  | scratch (off : Nat)
  | phys (pa : PAddr)
  | held
  | trap (sub : Nat) (addr : VAddr)
  deriving DecidableEq, Repr

/-- Spill slot j of lane i lies outside the call-stack view (09 R206). -/
def slotOutside (c : Ctx) (i j : Nat) : Bool :=
  match c.kern.csview.bind (c.kern.views[·]?) with
  | none => false
  | some v => (v.locate c.kern.gang [(j : Int), (c.r.w * c.kern.width + i : Nat), (c.blk.lin : Nat)]).outside.isSome

/-- Spill slot j of lane i through the call-stack view (09 R205, R206). The warp's own earlier writes of the slot's line reach its home first (09 R207,
06 R122). -/
def slotAt (s : State) (c : Ctx) (i j : Nat) (acc : Access) : SlotAt × State :=
  match c.kern.csview.bind (c.kern.views[·]?) with
  | none => (.trap 4 0, s)
  | some v =>
    let e := v.locate c.kern.gang [(j : Int), (c.r.w * c.kern.width + i : Nat), (c.blk.lin : Nat)]
    if e.outside.isSome then (.trap 2 0, s)
    else if v.scratch then (.scratch e.addr.toNat, s)
    else
      let va := BitVec.ofNat 57 e.addr.toNat
      match translate s { core := c.blk.core, lane := some (c.r, i) } c.grid.ctx va acc with
      | (.ok pa, s) =>
        if s.unreachable c.grid.ctx pa then (.trap 1 va, s)
        else match ownLineFirst s c.r (lineOf pa) (acc == .write) true with
          | some s => (.phys pa, s)
          | none => (.held, s)
      | (.fail, s) => (.trap 1 va, s)
      | (.migrating, s) => (.held, s)

/-- A CALLSTACK_FAULT of a lane; for SUB 1 the slot's address and number (09 R206). -/
def stackTrap (i sub : Nat) (addr : VAddr) (j : Nat) : LaneTrap :=
  mkTrap i 0x0C sub addr (if sub = 1 then BitVec.ofNat 32 j else 0)

/-- A slot written at its home (09 R207). -/
def putSlot (s : State) (b : Nat) (a : SlotAt) (x : W64) : State :=
  match a with
  | .scratch off => s.putScratch b off (natLE 8 x.toNat)
  | .phys pa => s.putWord64 pa x
  | _ => s

/-- A slot read at its home. -/
def getSlot (s : State) (b : Nat) (a : SlotAt) : W64 :=
  match a with
  | .scratch off => BitVec.ofNat 64 (leNat (s.scratchBytes b off 8))
  | .phys pa => s.word64 pa
  | _ => 0

/-- What a lane's spill or refill leaves. -/
inductive StackRes where
  | ok (s : State)
  | held
  | trap (t : LaneTrap) (s : State)
  deriving DecidableEq, Repr

/-- Two consecutive slots reached, and a use of them; neither is reached when one lies outside (09 R206). -/
def withSlots (s : State) (c : Ctx) (i j : Nat) (acc : Access) (f : State → SlotAt → SlotAt → State) : StackRes :=
  if slotOutside c i j || slotOutside c i (j + 1) then .trap (stackTrap i 2 0 j) s
  else match slotAt s c i j acc with
  | (.held, _) => .held
  | (.trap sub va, s) => .trap (stackTrap i sub va j) s
  | (a, s) =>
    match slotAt s c i (j + 1) acc with
    | (.held, _) => .held
    | (.trap sub va, s) => .trap (stackTrap i sub va (j + 1)) s
    | (b, s) => .ok (f s a b)

/-- A lane pushes a return address, spilling its two oldest on-chip entries when four are held (09 R206). -/
def pushLane (s : State) (c : Ctx) (ra : W64) (i : Nat) : StackRes :=
  let l := c.wp.lane i
  if l.stack.length < 4 then .ok (s.modWarp c.r fun w => w.modLane i fun l => { l with stack := ra :: l.stack })
  else withSlots s c i l.spilled .write fun s a b =>
    (putSlot (putSlot s c.r.b a (nth 0 l.stack 3)) c.r.b b (nth 0 l.stack 2)).modWarp c.r fun w =>
      w.modLane i fun l => { l with stack := ra :: l.stack.take 2, spilled := l.spilled + 2 }

/-- A lane pops, refilling two entries when none is on chip (09 R206). The entry popped is what `popped` reads before. -/
def popLane (s : State) (c : Ctx) (i : Nat) : StackRes :=
  let l := c.wp.lane i
  match l.stack with
  | _ :: st => .ok (s.modWarp c.r fun w => w.modLane i fun l => { l with stack := st })
  | [] =>
    if l.spilled = 0 then .trap (stackTrap i 3 0 0) s
    else withSlots s c i (l.spilled - 2) .read fun s a _ =>
      s.modWarp c.r fun w => w.modLane i fun l =>
        { l with stack := [getSlot s c.r.b a], spilled := l.spilled - 2 }

/-- The entry a lane's RET pops, read before the word. -/
def popped (s : State) (c : Ctx) (i : Nat) : W64 :=
  match (c.wp.lane i).stack with
  | x :: _ => x
  | [] =>
    let (a, s) := slotAt s c i ((c.wp.lane i).spilled - 1) .read
    getSlot s c.r.b a

/-- Every lane's spill or refill in turn: the state, the traps, and whether a migration holds an access (09 R206). -/
def stackAll (f : State → Nat → StackRes) : List Nat → State → State × List LaneTrap × Bool
  | [], s => (s, [], false)
  | i :: is, s =>
    match f s i with
    | .held => (s, [], true)
    | .ok s => stackAll f is s
    | .trap t s =>
      let (s, ts, h) := stackAll f is s
      (s, t :: ts, h)

/-- The lanes of a list that are not among the traps. -/
def notTrapped (ts : List LaneTrap) (l : List (Nat × W64)) : List (Nat × W64) := l.filter fun x => !ts.any (·.lane == x.1)

/-- CALL's action on the lanes whose targets passed (09 R206). -/
def callBody (s : State) (c : Ctx) (ok : List (Nat × W64)) (traps : List LaneTrap) : Body :=
  match stackAll (fun s i => pushLane s c (c.ent.pc + 8) i) (ok.map (·.1)) s with
  | (_, _, true) => .hold s .migration
  | (s, ts, false) => .done s (traps ++ ts) (runAt (byTarget (notTrapped ts ok)))

/-- CALL (09 R202, R206). -/
def execCall (o : BraOp) (s : State) : Out :=
  controlWord 0x82 (.call o) o.g (fun s c act =>
    let (ok, traps) := checkTargets s c (act.map fun i => (i, relTarget c o.off))
    callBody s c ok traps) s

/-- The depth of a lane's stack (09 R204). -/
def Lane.depth (l : Lane) : Nat := l.spilled + l.stack.length

/-- The groups of a CALLX record, with the lanes that called. -/
def calledGroups (groups : List (W64 × LaneMask)) (m : LaneMask) : List (W64 × LaneMask) := groups.map fun g => (g.1, g.2 &&& m)

/-- The entries of a record's groups: the first Runnable, each later one Waiting at its target (09 R208). -/
def groupLeaves : List (W64 × LaneMask) → List Leave
  | [] => []
  | g :: gs => { mask := g.2, pc := g.1, st := .runnable } :: gs.map fun x => { mask := x.2, pc := x.1, st := .waiting .callGroup }

/-- CALLX (09 R208). -/
def execCallx (o : BrxOp) (s : State) : Out :=
  controlWord 0x83 (.callx o) o.g (fun s c act =>
    let (ok, traps) := regTargets s c o.a act
    let groups := byTarget ok
    if groups.length < 2 then callBody s c ok traps
    else if 8 ≤ c.wp.records.length then .done s (traps ++ ok.map fun x => stackTrap x.1 5 0 0) []
    else
      match stackAll (fun s i => pushLane s c (c.ent.pc + 8) i) (ok.map (·.1)) s with
      | (_, _, true) => .hold s .migration
      | (s, ts, false) =>
        let m := maskOf ((notTrapped ts ok).map (·.1))
        let gs := calledGroups groups m
        let rec1 : CallRecord :=
          { ra := c.ent.pc + 8, groups := gs, lanes := m, returned := 0,
            depths := (List.range 64).map fun i => (c.wp.lane i).depth }
        .done (s.modWarp c.r fun w => { w with records := w.records ++ [rec1] }) (traps ++ ts) (groupLeaves gs)) s

/-- The record a returning lane belongs to, the newest first (09 R208). -/
def recordOf (records : List CallRecord) (i : Nat) (ra : W64) (depth : Nat) : Option Nat :=
  ((records.zipIdx.reverse).find? fun (r, _) =>
    r.lanes.getLsbD i && !r.returned.getLsbD i && r.ra == ra && nth 0 r.depths i == depth).map (·.2)

/-- A lane marked as returned in its record. -/
def CallRecord.giveBack (r : CallRecord) (m : LaneMask) : CallRecord := { r with returned := r.returned ||| m }

/-- RET (09 R206, R208): a lane whose pop restores its depth in a record waits at the RET; any other goes to the entry popped. -/
def execRet (o : BareOp) (s : State) : Out :=
  controlWord 0x84 (.ret o) o.g (fun s c act =>
    match stackAll (fun s i => popLane s c i) act s with
    | (_, _, true) => .hold s .migration
    | (s2, ts, false) =>
      let lanes := act.filter fun i => !ts.any (·.lane == i)
      let recd (i : Nat) := recordOf c.wp.records i (popped s c i) ((c.wp.lane i).depth - 1)
      let plain := (lanes.filter fun i => (recd i).isNone).map fun i => (i, popped s c i)
      let back (k : Nat) : LaneMask := maskOf (lanes.filter fun i => recd i == some k)
      let ks := (List.range c.wp.records.length).filter fun k => back k != 0
      .done (s2.modWarp c.r fun w => { w with records := w.records.zipIdx.map fun (r, k) => r.giveBack (back k) }) ts
        (runAt (byTarget plain) ++
         ks.map fun k => { mask := back k, pc := c.ent.pc, st := .waiting .callReturned })) s

/-- One record advanced: groups whose every lane has returned, retired or is trap-parked are done; the next group becomes
Runnable; a record whose last group is done completes and its returned lanes go to ra together (09 R208). -/
def Warp.advanceRecord (wp : Warp) (k : Nat) (r : CallRecord) : Warp :=
  let gone := r.returned ||| wp.retiredMask ||| wp.parkedMask
  match r.groups.dropWhile fun g => g.2 &&& ~~~ gone == 0 with
  | [] =>
    { wp.mapEntries (fun e => e.st == .waiting .callReturned && (e.mask &&& r.returned) != 0)
        (fun e => { e with pc := r.ra, st := .runnable, woken := true }) with records := wp.records.eraseIdx k }
  | g :: gs =>
    { wp.mapEntries (fun e => e.st == .waiting .callGroup && e.pc == g.1 && (e.mask &&& g.2) != 0) Entry.wakeHere with
      records := wp.records.set k { r with groups := g :: gs } }

/-- Every record of a warp advanced, the newest first. -/
def Warp.advanceRecords (wp : Warp) : Warp :=
  ((List.range wp.records.length).reverse).foldl (fun w k =>
    match w.records[k]? with
    | some r => w.advanceRecord k r
    | none => w) wp

/-! ## JOIN, EXIT, TRAP, BRK, YIELD, PAUSE -/

/-- JOIN: the lanes of Active wait at the word; how the wait ends is `Warp.decideJoin` (02 R43, 09 R209). -/
def execJoin (o : JoinOp) (s : State) : Out :=
  controlWord 0x85 (.join o) o.g (fun s c act =>
    let dl := if o.t = 0xFFFFFFFF then none else some (s.cycle + o.t.toNat)
    .done s [] [{ mask := maskOf act, pc := c.ent.pc, st := .waiting (.join o.pd dl) }]) s

/-- A JOIN whose deadline's cycle is over, in a block that issues: an arrival of that cycle wins, else the entry goes on alone with pd true (02 R43). -/
def joinTimeoutEntry (s : State) (r : WarpRef) (k : Nat) : State :=
  if s.still r.b then s
  else s.modWarp r fun w =>
    match w.entries[k]? with
    | some e => (match e.st with | .waiting (.join _ dl) => if pastDue s dl then w.decideJoin s.cycle k else w | _ => w)
    | none => w

/-- JOIN_TIMEOUT. -/
def execJoinTimeout (e : EntryRef) (s : State) : Out := .next (joinTimeoutEntry s { b := e.b, w := e.w } e.e)

/-- A lane's bindings all released. -/
def Lane.unbind (l : Lane) : Lane := { l with binds := l.binds.map fun _ => .unbound }

/-- A lane retires (02 R32). -/
def Lane.retire (l : Lane) : Lane := { l.unbind with retired := true, handler := false }

/-- A warp whose lanes have all retired recalls its line registers and gives its quota back (02 R32). -/
def Warp.retireWhole (wp : Warp) : Warp :=
  if wp.lanes.all (·.retired) then
    { wp with lanes := wp.lanes.map Lane.unbind, held := [], region := [], quota := 0, loaned := 0, records := [] }
  else wp

/-- Every warp of a block has retired. -/
def Block.retired (k : Block) : Bool := k.warps.all fun w => w.lanes.all (·.retired)

/-- An error of the block still to be delivered. -/
def Block.erred (k : Block) : Bool := k.warps.any fun w => !w.errs.isEmpty

/-- An error that a retired warp records for its block (11 R267). -/
def Block.charged (k : Block) : Bool :=
  k.warps.any fun w => w.lanes.all (·.retired) && !((w.lane 0).tf.code.toNat % 256 == 0 ||
    handlerCode ((w.lane 0).tf.code.toNat % 256))

/-- A block retires once its warps have, its cards are done (02 R32) and no error of theirs is outstanding. -/
def State.settleBlock (s : State) (b : Nat) : State :=
  match s.blocks[b]? with
  | none => s
  | some k =>
    if k.place = .resident && k.retired && !k.erred && (s.ctxOf b == sysCtx || !k.charged) && !s.cards.any (·.blk == b) then
      s.vacate b .gone
    else s

/-- EXIT: the warp's region ends, then the lanes retire and are no longer expected at barriers (09 R210, 10 R247). -/
def execExitw (o : BareOp) (s : State) : Out :=
  controlWord 0x86 (.exitw o) o.g (fun s c act =>
    match endRegion s c.r with
    | (s, false) => .hold s .migration
    | (s, true) =>
      let s := checkBarriers (s.modWarp c.r fun w => ((w.mapLanes act fun _ l => l.retire).release).retireWhole) c.r.b
      .done (s.settleBlock c.r.b) [] []) s

/-- A trap with IMM32 in TFAUX in every lane of Active (09 R211). -/
def userTrap (code : Nat) (imm : W32) (act : List Nat) : List LaneTrap := act.map fun i => mkTrap i code 0 0 imm

def execTrapw (o : ImmOp) (s : State) : Out :=
  controlWord 0x87 (.trapw o) o.g (fun s _ act => .done s (userTrap 0x12 o.imm act) []) s

def execBrk (o : ImmOp) (s : State) : Out :=
  controlWord 0x88 (.brk o) o.g (fun s _ act => .done s (userTrap 0x11 o.imm act) []) s

/-- The lanes of Active at the next word as an entry of their own; the clause ends, so the slot's round robin passes on (09 R212). -/
def stepAside (s : State) (c : Ctx) (act : List Nat) (st : EState) : Body :=
  .done s [] [{ mask := maskOf act, pc := c.ent.pc + 8, st := st }]

def execYieldw (o : BareOp) (s : State) : Out :=
  controlWord 0x89 (.yieldw o) o.g (fun s c act => stepAside s c act .runnable) s

/-- PAUSE n: Waiting at the next word for n cycles; PAUSE 0 is YIELD (09 R212). -/
def execPause (o : PauseOp) (s : State) : Out :=
  controlWord 0x8A (.pause o) o.g (fun s c act =>
    stepAside s c act (if o.n = 0 then .runnable else .waiting (.pause (s.cycle + o.n.toNat)))) s

/-- A PAUSE whose cycles have passed ends, in a block that issues (21 R385). -/
def pauseExpireEntry (s : State) (r : WarpRef) (k : Nat) : State :=
  if s.still r.b then s
  else s.modWarp r fun w => { w with entries := w.entries.modify k fun e =>
    match e.st with
    | .waiting (.pause t) => if s.cycle < t then e else e.wakeHere
    | _ => e }

def execPauseExpire (e : EntryRef) (s : State) : Out := .next (pauseExpireEntry s { b := e.b, w := e.w } e.e)

end Sys2Proof.Machine
end

