-- ==== Sys2Proof/Machine/Lines.lean ====
section
/-! DEFINITION. The line words, opcodes 0x90-0x9A: binding and capacity (05 R100-R112), line accesses and atomics (10 R227-R237). -/

namespace Sys2Proof.Machine

open Sys2Proof

/-! ## Bindings -/

/-- The binding of a lane in a line register. -/
def Lane.bind (l : Lane) (ln : BitVec 3) : Bind := nth .unbound l.binds ln.toNat

/-- A lane's binding set. -/
def Lane.setBind (l : Lane) (ln : BitVec 3) (b : Bind) : Lane := { l with binds := l.binds.set ln.toNat b }

/-- A binding set in one lane of a warp. -/
def State.setBind (s : State) (r : WarpRef) (ln : BitVec 3) (i : Nat) (b : Bind) : State :=
  s.modWarp r (·.modLane i (·.setBind ln b))

/-- The cursor of an address: addr mod 128, a residue from 0 to 127 (05 R98, R100). -/
def cursorOf (addr : Int) : BitVec 7 := BitVec.ofNat 7 (addr % 128).toNat

/-- The element address of a line and an offset in it. -/
def elemAt (line : VAddr) (off : Nat) : VAddr := BitVec.ofNat 57 (line.toNat + off)

/-- The lines that lanes of a warp hold through a register and that are dirty. -/
def Warp.heldIn (wp : Warp) (ln : BitVec 3) (lanes : List Nat) : List HeldLine :=
  let ls := lanes.filterMap fun i => (bindLine? ((wp.lane i).bind ln)).map (·.1)
  wp.held.filter fun h => ls.contains h.line

/-- Bindings of a register released in some lanes, with the dirty bytes held through them written back first (05 R103). None when a
migration holds a write-back. -/
def releaseIn (s : State) (r : WarpRef) (ln : BitVec 3) (lanes : List Nat) : Option State :=
  match s.warp? r with
  | none => some s
  | some w =>
    match writeBackLines s r (w.heldIn ln lanes) with
    | (_, true) => none
    | (s, false) => some (s.modWarp r fun w => (w.mapLanes lanes fun _ l => l.setBind ln .unbound).release)

/-! ## Capacity -/

/-- What 05 R106 decides: the lanes that bind, the lanes that are capacity-blocked, and the loan. -/
structure Fit where
  bound   : List Nat
  blocked : List Nat
  loaned  : Nat
  split   : Bool
  deriving DecidableEq, Repr

/-- The warp holds a line that is not parked. -/
def Warp.holds (wp : Warp) (l : VAddr) : Bool := wp.held.any fun h => h.line == l && !h.parked

/-- Split mode: lanes in ascending order bind while their line is held or the held count is below the quota. -/
def fitSplit (wp : Warp) : List (Nat × VAddr) → List VAddr → List Nat × List Nat
  | [], _ => ([], [])
  | (i, l) :: rest, taken =>
    if wp.holds l || taken.contains l then
      let (a, b) := fitSplit wp rest taken
      (i :: a, b)
    else if wp.heldCount + taken.length < wp.quota then
      let (a, b) := fitSplit wp rest (l :: taken)
      (i :: a, b)
    else
      let (a, b) := fitSplit wp rest taken
      (a, i :: b)

/-- The lanes that bind their lines under 05 R106; `pool` is what it may borrow. -/
def fit (wp : Warp) (exact : Bool) (pool : Nat) (needs : List (Nat × VAddr)) : Fit :=
  let n := ((needs.map (·.2)).eraseDups.filter fun l => !wp.holds l).length
  let total := wp.heldCount + n
  if total ≤ wp.quota then { bound := needs.map (·.1), blocked := [], loaned := wp.loaned, split := false }
  else if !exact && total - wp.quota - wp.loaned ≤ pool then
    { bound := needs.map (·.1), blocked := [], loaned := max wp.loaned (total - wp.quota), split := false }
  else
    let (a, b) := fitSplit wp needs []
    { bound := a, blocked := b, loaned := wp.loaned, split := true }

/-- A line attached to the warp, pinned with its data or held in mode .S. -/
def Warp.attach (wp : Warp) (h : HeldLine) : Warp :=
  match wp.held? h.line with
  | some _ => wp.modHeld h.line fun _ => h
  | none => { wp with held := wp.held ++ [h] }

/-- A copy of a home line in the line store that is not out of date. -/
def HeldLine.fresh (h : HeldLine) : Bool := h.pinned && !h.parked && !h.stale

/-- A pinned line at a virtual line: it takes the warp's copy of the home if there is one, else the home's bytes under the warp's dirty bytes. -/
def pinnedLine (s : State) (wp : Warp) (line : VAddr) (home : PAddr) : HeldLine :=
  let copy := wp.copyOf home
  { line := line, home := home, parked := false, pinned := true,
    data := match copy.filter HeldLine.fresh with | some h => h.data | none => wp.overlay home (s.bytes home 128),
    dirty := (((wp.held? line).filter fun h => h.pinned && h.home == home).map (·.dirty)).getD 0, stale := false,
    lost := (copy.map (·.lost)).getD false }

/-- The line as a binding in a mode leaves it. An .S binding brings a parked line back into the held count; its copy is filled at its next access. -/
def attached (s : State) (wp : Warp) (line : VAddr) (home : PAddr) (mode : Mode) : HeldLine :=
  match mode with
  | .s =>
    match wp.held? line with
    | some h => { h with parked := false, stale := h.stale || h.parked }
    | none => { line := line, home := home, parked := false, pinned := false, data := [], dirty := 0, stale := false, lost := false }
  | .wz =>
    { line := line, home := home, parked := false, pinned := true, data := List.replicate 128 0, dirty := BitVec.allOnes 128, stale := false,
      lost := false }
  | _ => pinnedLine s wp line home

/-- A copy that shows zeros. -/
def HeldLine.zeroShown (h : HeldLine) : HeldLine := { h with data := List.replicate 128 0 }

/-- A line attached to the warp in a mode; a .WZ line's other copies start as zeros with it (05 R100, R102). -/
def attachLine (s : State) (r : WarpRef) (h : HeldLine) (mode : Mode) : State :=
  if mode == .wz then (s.modWarp r fun w => (w.attach h).modHome h.home HeldLine.zeroShown).shareCopy r h.home HeldLine.zeroShown
  else s.modWarp r fun w => w.attach h

/-- Whether a binding fills from memory, so that a marked sector poisons it (21 R395). -/
def fills (wp : Warp) (home : PAddr) (mode : Mode) : Bool :=
  match mode with
  | .s => false
  | .wz => false
  | _ => !(wp.held.any fun h => h.home == home && h.fresh)

/-- The sector of an element is marked. -/
def State.badSector (s : State) (pa : PAddr) (off : Nat) : Bool := s.badRange (pa + off / 32 * 32) 32

/-! ## OPEN and REOPEN -/

/-- What OPEN finds for one lane before capacity is considered. -/
inductive OpenLane where
  | none
  | trap (t : LaneTrap)
  | zero (line : VAddr) (cursor : BitVec 7)
  | poisoned (addr : VAddr)
  | need (addr : VAddr) (pa : PAddr)
  | held
  deriving DecidableEq, Repr

/-- The rights a mode needs of the view (05 R99). -/
def modeGrants (m : Mode) (v : View) : Bool :=
  match m with
  | .r => v.rd
  | .s => v.rd
  | .w => v.wr
  | .wz => v.wr
  | .rw => v.rd && v.wr

/-- Translation for the page rights a mode needs (05 R111). -/
def openTranslate (s : State) (v : Via) (ctx : Nat) (va : VAddr) (m : Mode) : TRes × State :=
  match m with
  | .r => translate s v ctx va .read
  | .s => translate s v ctx va .read
  | .w => translate s v ctx va .write
  | .wz => translate s v ctx va .write
  | .rw =>
    match translate s v ctx va .write with
    | (.ok _, s) => translate s v ctx va .read
    | x => x

/-- The line that would hold an element outside its view, modulo 2^57 (21 Table 21.8). -/
def zeroLineOf (addr : Int) : VAddr := BitVec.ofInt 57 (addr - (cursorOf addr).toNat)

/-- One lane of OPEN or REOPEN up to its translation (10 R228). -/
def openLane (s : State) (c : Ctx) (o : OpenOp) (helper : Bool) (i : Nat) : OpenLane × State :=
  let v := c.kern.view o.v
  let (cs, pois) := c.wp.coords o.b v i
  let e := v.locate c.kern.gang cs
  if helper && o.mode != .r then (.none, s)
  else if pois then (.trap (c.wp.poisonTrap i 6), s)
  else
    let zero := v.oobZero && o.mode == .r
    match e.outside with
    | some d =>
      if !zero then (.trap (mkTrap i 7 0 0 (BitVec.ofNat 32 d)), s)
      else if !modeGrants o.mode v then (.trap (mkTrap i 9 0 0 0), s)
      else (.zero (zeroLineOf e.addr) (cursorOf e.addr), s)
    | none =>
      let va := BitVec.ofNat 57 e.addr.toNat
      if !modeGrants o.mode v then (.trap (mkTrap i 9 0 va 0), s)
      else match openTranslate s { core := c.blk.core, lane := some (c.r, i) } c.grid.ctx va o.mode with
        | (.fail, s) => (.poisoned va, s)
        | (.migrating, s) => (.held, s)
        | (.ok pa, s) => if s.unreachable c.grid.ctx pa then (.trap (mkTrap i 9 0 va 2), s) else (.need va pa, s)

/-- Every lane of OPEN or REOPEN looked at in ascending order. -/
def openLanes (s : State) (c : Ctx) (o : OpenOp) (hl : List Nat) : List Nat → List (Nat × OpenLane) × State
  | [] => ([], s)
  | i :: is =>
    let (x, s) := openLane s c o (hl.contains i) i
    let (xs, s) := openLanes s c o hl is
    ((i, x) :: xs, s)

/-- The kind of a mode's registration at OPEN (06 R127). -/
def modeWrites (m : Mode) : Bool :=
  match m with
  | .w => true
  | .wz => true
  | _ => false

/-- One lane bound to its line: the warp's own stores to it, registration, fill and binding (06 R122, 10 R228). `old` is the warp before the word, which says what this word fills
(21 R395). An error, with the state it was met in, when the registration is held. -/
def bindLane (s : State) (c : Ctx) (o : OpenOp) (old : Warp) (i : Nat) (va : VAddr) (pa : PAddr) : Except State (State × Option LaneTrap) :=
  let vl := vlineOf va
  let line := lineOf pa
  let (s, res) := if o.mode == .s then (s, Reg1.ok) else register (s.flush c.r line) c.r line (modeWrites o.mode)
  match res with
  | .held => .error s
  | .conflict sub aux => .ok (s, some (mkTrap i 0x0A sub va aux))
  | .ok =>
    match s.warp? c.r with
    | none => .ok (s, none)
    | some w =>
      if fills old line o.mode && s.badSector line (va.toNat % 128) then
        .ok (s.setBind c.r o.ln i (.poisoned va o.v o.mode (cursorOf va.toNat)), none)
      else
        let s2 := attachLine s c.r (attached s w vl line o.mode) o.mode
        .ok (s2.setBind c.r o.ln i (.bound vl o.v o.mode (cursorOf va.toNat)), none)

/-- Every lane that binds, in ascending order. -/
def bindAll (s : State) (c : Ctx) (o : OpenOp) (old : Warp) : List (Nat × VAddr × PAddr) → Except State (State × List LaneTrap)
  | [] => .ok (s, [])
  | (i, va, pa) :: rest =>
    match bindLane s c o old i va pa with
    | .error t => .error t
    | .ok (s, t) =>
      match bindAll s c o old rest with
      | .error t => .error t
      | .ok (s, ts) => .ok (s, t.toList ++ ts)

/-- Zero lines and poisoned bindings set (05 R98, R111). -/
def bindPlain (s : State) (c : Ctx) (o : OpenOp) (xs : List (Nat × OpenLane)) : State :=
  xs.foldl (fun s (i, x) => match x with
    | .zero line cur => s.setBind c.r o.ln i (.zero line o.v o.mode cur)
    | .poisoned va => s.setBind c.r o.ln i (.poisoned va o.v o.mode (cursorOf va.toNat))
    | _ => s) s

/-- The traps of the lanes looked at; helper lanes raise none (02 R44). -/
def openTraps (hl : List Nat) (xs : List (Nat × OpenLane)) : List LaneTrap :=
  xs.filterMap fun (i, x) => match x with | .trap t => if hl.contains i then none else some t | _ => none

/-- The lanes that need a line. -/
def openNeeds (xs : List (Nat × OpenLane)) : List (Nat × VAddr × PAddr) :=
  xs.filterMap fun (i, x) => match x with | .need va pa => some (i, va, pa) | _ => none

/-- The capacity-blocked lanes of a word, as the entry they form. -/
def blockedLeave (c : Ctx) (hl blocked : List Nat) : List Leave :=
  [{ mask := maskOf (blocked.filter fun i => !hl.contains i), pc := c.ent.pc, st := .capBlocked }]

/-- SPLITCNT grows by one when lanes are blocked, and the loan is taken (05 R106). -/
def Warp.takeFit (wp : Warp) (f : Fit) : Warp :=
  { wp with loaned := f.loaned, splitCnt := if f.split && !f.blocked.isEmpty then wp.splitCnt + 1 else wp.splitCnt }

/-- The body of OPEN and REOPEN (10 R228); `all` says which lanes are released first. -/
def openBody (o : OpenOp) (all : Bool) (s : State) (c : Ctx) (act hl : List Nat) : Body :=
  let rel := if c.ent.retry then [] else if all then List.range c.wp.lanes.length else act ++ hl
  match releaseIn s c.r o.ln rel with
  | none => .hold s .migration
  | some s1 =>
    let lanes := (List.range 64).filter fun i => act.contains i || hl.contains i
    let (xs, s2) := openLanes s1 c o hl lanes
    if xs.any fun x => x.2 == .held then .hold s .migration
    else
      match s2.warp? c.r with
      | none => .done s [] []
      | some w =>
        let needs := openNeeds xs
        let f := fit w c.kern.exact (s2.lendable c.r.b c.blk.core) (needs.map fun x => (x.1, vlineOf x.2.1))
        let s3 := bindPlain (s2.modWarp c.r (·.takeFit f)) c o xs
        match bindAll s3 c o w (needs.filter fun x => f.bound.contains x.1) with
        | .error t => .hold (s.atHold t c.r) .migration
        | .ok (s4, ts) =>
          .done (s4.modWarp c.r (·.returnLoans)) (openTraps hl xs ++ ts.filter fun t => !hl.contains t.lane)
            (blockedLeave c hl f.blocked)

/-- OPEN (10 R228). -/
def execOpenl (o : OpenOp) (s : State) : Out := issueWord 0x90 (.openl o) o.g (openBody o true) s
/-- REOPEN (10 R228). -/
def execReopen (o : OpenOp) (s : State) : Out := issueWord 0x91 (.reopen o) o.g (openBody o false) s

/-- RECALL: every lane's binding in Ln is written back and released (05 R103, 10 R229). -/
def execRecall (o : LineOp) (s : State) : Out :=
  issueWord 0x92 (.recall o) o.g (fun s c _ _ =>
    match releaseIn s c.r o.ln (List.range c.wp.lanes.length) with
    | none => .hold s .migration
    | some s => .done s [] []) s

/-- FLUSHL: every dirty byte held through Ln is written back; bindings stay (10 R229). -/
def execFlushl (o : LineOp) (s : State) : Out :=
  issueWord 0x93 (.flushl o) o.g (fun s c _ _ =>
    match writeBackLines s c.r (c.wp.heldIn o.ln (List.range c.wp.lanes.length)) with
    | (_, true) => .hold s .migration
    | (s, false) => .done s [] []) s

/-! ## LDL, STL, ATOML -/

/-- What the checks of 10 R231 and R235 find for a lane. -/
inductive LineChk where
  | trap (t : LaneTrap)
  | poison
  | zero
  | go (line : VAddr) (mode : Mode) (view : BitVec 6) (off : Nat)
  deriving DecidableEq, Repr

/-- Whether a mode admits a load or a store (05 Table 5.4). -/
def modeAdmits (m : Mode) (store : Bool) : Bool :=
  match m with
  | .r => !store
  | .w => store
  | .wz => store
  | _ => true

/-- The byte offset of LDL and STL: cursor plus immediate, or the register (05 R101). -/
def lineOffset (wp : Warp) (off : LineOff) (cur : BitVec 7) (i : Nat) : Int × Bool :=
  match off with
  | .imm x => ((cur.toNat : Int) + x.toInt, false)
  | .reg r => ((wp.reg r i).val.toInt, (wp.reg r i).poison)

/-- The cursor a binding holds. -/
def Bind.cursor : Bind → BitVec 7
  | .unbound => 0
  | .bound _ _ _ c => c
  | .zero _ _ _ c => c
  | .poisoned _ _ _ c => c

/-- The checks of LDL and STL in one lane (10 R231). -/
def lineCheck (wp : Warp) (ln : BitVec 3) (off : LineOff) (size : Nat) (store dataPoison : Bool) (i : Nat) : LineChk :=
  let bd := (wp.lane i).bind ln
  let (b, pois) := lineOffset wp off bd.cursor i
  if bd == .unbound then .trap (mkTrap i 5 0 0 0)
  else if pois then .trap (wp.poisonTrap i 6)
  else if b % (size : Int) != 0 || b < 0 || 128 < b + size then .trap (mkTrap i 6 0 0 (BitVec.ofInt 32 b))
  else match bd with
    | .unbound => .trap (mkTrap i 5 0 0 0)
    | .poisoned _ _ _ _ => if store then .trap (wp.poisonTrap i 1) else .poison
    | .zero l _ m _ => if modeAdmits m store then .zero else .trap (mkTrap i 9 0 (elemAt l b.toNat) 0)
    | .bound l v m _ =>
      if !modeAdmits m store then .trap (mkTrap i 9 0 (elemAt l b.toNat) 0)
      else if store && dataPoison then .trap (wp.poisonTrap i 1)
      else .go l m v b.toNat

/-- The outcome of one lane's access; a held one names the state in which it was met. -/
inductive AccRes (α : Type) where
  | ok (x : α) (s : State)
  | trap (t : LaneTrap) (s : State)
  | held (s : State)
  deriving DecidableEq, Repr

/-- A registered line's copy made fresh (06 R129). -/
def freshen (s : State) (c : Ctx) (h : HeldLine) : State := if h.stale then refreshLine s c.r h.home else s

/-- A copy of a line that a page now maps elsewhere. -/
def HeldLine.rehome (home : PAddr) (h : HeldLine) : HeldLine := { h with home := home, stale := h.stale || h.home != home }

/-- An access to a pinned line in the region (06 R127, R129): nothing further when the line is registered and its copy is not out of date; else the line is
registered at the home its page has now, and its copy is refilled from there (19 R344). A home that cannot be found or reached is log 70. -/
def pinnedAccess (s : State) (c : Ctx) (i : Nat) (line : VAddr) (off : Nat) (write : Bool) : AccRes Unit :=
  match (s.warp? c.r).bind fun w => (w.held? line).map fun h => (w, h) with
  | none => .ok () s
  | some (w, h) =>
    if w.registered h.home write && !h.stale then .ok () s
    else match s.home { core := c.blk.core, lane := some (c.r, i) } c.grid.ctx line with
      | (.migrating, _) => .held s
      | (.fail, s) => .trap (mkTrap i 9 0 (elemAt line off) 3) s
      | (.ok pa, s) =>
        if s.unreachable c.grid.ctx pa then .trap (mkTrap i 9 0 (elemAt line off) 2) s
        else
          let s := s.modWarp c.r fun w => w.modHeld line (HeldLine.rehome (lineOf pa))
          match register s c.r (lineOf pa) write with
          | (s, .held) => .held s
          | (s, .conflict sub aux) => .trap (mkTrap i 0x0A sub (elemAt line off) aux) s
          | (s, .ok) =>
            match (s.warp? c.r).bind (·.held? line) with
            | some h => .ok () (freshen s c h)
            | none => .ok () s

/-- Translation of an .S access: an atomic needs both rights (10 R232). -/
def syncTranslate (s : State) (v : Via) (ctx : Nat) (va : VAddr) (rd wr : Bool) : TRes × State :=
  if wr then
    match translate s v ctx va .write with
    | (.ok pa, s) => if rd then translate s v ctx va .read else (.ok pa, s)
    | x => x
  else translate s v ctx va .read

/-- An .S access of a lane up to its home: checks of 10 R232 in order. -/
def syncAccess (s : State) (c : Ctx) (i : Nat) (line : VAddr) (off size : Nat) (rd wr : Bool) : AccRes PAddr :=
  let va := elemAt line off
  match syncTranslate s { core := c.blk.core, lane := some (c.r, i) } c.grid.ctx va rd wr with
  | (.migrating, _) => .held s
  | (.fail, s) => .trap (mkTrap i 9 0 va 3) s
  | (.ok pa, s) =>
    if s.unreachable c.grid.ctx pa then .trap (mkTrap i 9 0 va 2) s
    else match s.conflict c.r (lineOf pa) wr true with
      | some (sub, aux) => .trap (mkTrap i 0x0A sub va aux) s
      | none =>
        match ownLineFirst s c.r (lineOf pa) wr rd with
        | none => .held s
        | some s => if rd && s.badRange pa size then .trap (mkTrap i 8 7 va 0) s else .ok pa s

/-- The bindings of a warp to a line whose element lies in a marked sector, bound Poisoned at a re-pin (21 R395). -/
def poisonBind (s : State) (line : VAddr) (pa : PAddr) (b : Bind) : Bind :=
  match b with
  | .bound l v m c => if l == line && m != .s && s.badSector pa c.toNat then .poisoned (elemAt l c.toNat) v m c else b
  | _ => b

/-- A binding whose line has no translation any more. -/
def unmapBind (line : VAddr) (b : Bind) : Bind :=
  match b with
  | .bound l v m c => if l == line && m != .s then .poisoned (elemAt l c.toNat) v m c else b
  | _ => b

/-- Every binding of a lane changed. -/
def Lane.mapBinds (f : Bind → Bind) (l : Lane) : Lane := { l with binds := l.binds.map f }

/-- Every binding of a warp changed. -/
def Warp.mapBinds (wp : Warp) (f : Bind → Bind) : Warp := { wp with lanes := wp.lanes.map (Lane.mapBinds f) }

/-- A line that is no longer parked. -/
def HeldLine.unpark (h : HeldLine) : HeldLine := { h with parked := false }

/-- The parked bytes of a page without a translation, lost as in a failed write-back (log 79). -/
def Warp.loseParked (wp : Warp) (h : HeldLine) : Warp :=
  if h.dirty = 0 then wp else (wp.modHeld h.line HeldLine.clean).addErr 9 0 h.line 1

/-- A binding of the warp pins a line. -/
def Warp.pins (wp : Warp) (line : VAddr) : Bool := (wp.bindings.filterMap bindLine?).contains (line, true)

/-- A parked line pinned again: fetched, with the parked dirty bytes laid over it (05 R110). The bindings of a page that has no
translation any more become Poisoned (log 79); where a marked sector leaves no binding that pins the line, its parked bytes are written home (06 R126). None when a
migration holds it. -/
def repinLine (s : State) (r : WarpRef) (i : Nat) (line : VAddr) : Option State :=
  match (s.warp? r).bind fun w => (w.held? line).map fun h => (w, h) with
  | none => some s
  | some (w, h) =>
    if !h.parked then some s
    else if !h.pinned then some (s.modWarp r fun w => w.modHeld line HeldLine.unpark)
    else match s.home { core := s.coreOf r.b, lane := some (r, i) } (s.ctxOf r.b) line with
      | (.migrating, _) => none
      | (.fail, s) => some (s.modWarp r fun w => ((w.loseParked h).mapBinds (unmapBind line)).dropUnheld)
      | (.ok pa, s) =>
        let s := s.flush r (lineOf pa)
        let x := pinnedLine s (w.modHeld line (HeldLine.rehome (lineOf pa))) line (lineOf pa)
        let t := s.modWarp r fun w => (w.modHeld line fun _ => x).mapBinds (poisonBind s line (lineOf pa))
        match if (t.warp? r).any fun w => w.pins line then (t, .done) else writeBackLine t r x with
        | (_, .held) => none
        | (t, _) => some (t.modWarp r Warp.dropUnheld)

/-- The lanes of a word that reach parked bindings, re-pinned as 05 R106 grants. -/
def repinAll (s : State) (r : WarpRef) : List (Nat × VAddr) → Option State
  | [] => some s
  | (i, l) :: rest => (repinLine s r i l).bind fun s => repinAll s r rest

/-- The line a lane's check reached. -/
def LineChk.line? : LineChk → Option VAddr
  | .go l _ _ _ => some l
  | _ => none

/-- Re-pinning before a line access: the state, and the lanes that do not fit (05 R110). -/
def repinFor (s : State) (c : Ctx) (lanes : List Nat) (chk : Nat → LineChk) : Option (State × List Nat) :=
  let needs := lanes.filterMap fun i => ((chk i).line?.filter fun l => !c.wp.holds l).map fun l => (i, l)
  if needs.isEmpty then some (s, [])
  else
    let f := fit c.wp c.kern.exact (s.lendable c.r.b c.blk.core) needs
    (repinAll (s.modWarp c.r (·.takeFit f)) c.r (needs.filter fun x => f.bound.contains x.1)).map fun s =>
      (s.modWarp c.r Warp.release, f.blocked)

/-- A result that an access leaves in a lane's destination. -/
def extendLoad (size : Nat) (sx : Bool) (bs : List Byte) : List PW :=
  let x := leNat bs
  match size with
  | 8 => pairWords (BitVec.ofNat 64 x) false
  | 1 => [{ val := if sx then (BitVec.ofNat 8 x).signExtend 32 else BitVec.ofNat 32 x, poison := false }]
  | 2 => [{ val := if sx then (BitVec.ofNat 16 x).signExtend 32 else BitVec.ofNat 32 x, poison := false }]
  | _ => [{ val := BitVec.ofNat 32 x, poison := false }]

/-- Poisoned zero of a size. -/
def poisonLoad (size : Nat) : List PW := if size = 8 then [poisonPW, poisonPW] else [poisonPW]

/-- Writing consecutive vector registers of a lane of the warp. -/
def State.setVs (s : State) (r : WarpRef) (i n : Nat) (xs : List PW) : State := s.modWarp r (·.modLane i (·.setVs n xs))

/-- The poison origin a lane takes from a poisoned binding it reads (05 R112). -/
def State.noteOrigin (s : State) (r : WarpRef) (i : Nat) (ln : BitVec 3) : State :=
  s.modWarp r (·.modLane i fun l => match l.bind ln with | .poisoned a _ _ _ => l.takeOrigin (some a) | _ => l)

/-- The bytes of a held line. -/
def Warp.lineBytes (wp : Warp) (line : VAddr) (off n : Nat) : List Byte :=
  ((wp.held? line).map fun h => (h.data.drop off).take n).getD []

/-- LDL of one lane (10 R231, R232). -/
def ldlLane (o : LdlOp) (c : Ctx) (s : State) (i : Nat) : AccRes Unit :=
  let size := szBytes o.sz
  let chk := match s.warp? c.r with | some w => lineCheck w o.ln o.off size false false i | none => .poison
  match chk with
  | .trap t => .trap t s
  | .poison => .ok () ((s.noteOrigin c.r i o.ln).setVs c.r i o.d.toNat (poisonLoad size))
  | .zero => .ok () (s.setVs c.r i o.d.toNat (extendLoad size o.sx []))
  | .go line mode _ off =>
    if mode == .s then
      match syncAccess s c i line off size true false with
      | .held s => .held s
      | .trap t s => .trap t s
      | .ok pa s => .ok () (s.setVs c.r i o.d.toNat (extendLoad size o.sx (s.bytes pa size)))
    else
      match pinnedAccess s c i line off false with
      | .held s => .held s
      | .trap t s => .trap t s
      | .ok _ s =>
        let bs := ((s.warp? c.r).map fun w => w.lineBytes line off size).getD []
        .ok () (s.setVs c.r i o.d.toNat (extendLoad size o.sx bs))

/-- The error bytes of a lost line are reported at the next access (21 R395): SCRATCH_UE SUB 3. -/
def lostTrap (s : State) (c : Ctx) (i : Nat) (line : VAddr) : Option LaneTrap :=
  match (s.warp? c.r).bind (·.held? line) with
  | some h => if h.lost then some (mkTrap i 0x0F 3 line 0) else none
  | none => none

/-- Bytes put into a copy. -/
def HeldLine.show (off : Nat) (bs : List Byte) (h : HeldLine) : HeldLine :=
  let old := if h.data.isEmpty then List.replicate 128 0 else h.data
  { h with data := old.take off ++ bs ++ old.drop (off + bs.length) }

/-- A store of bytes into a copy. -/
def storeLine (off : Nat) (bs : List Byte) (h : HeldLine) : HeldLine :=
  { h.show off bs with dirty := h.dirty ||| (BitVec.ofNat 128 (2 ^ bs.length - 1) <<< off) }

/-- The warp's copies after a store through a held line: the bytes are dirty in that line, and shown in its other copies of the home (05 R102,
06 R122). -/
def Warp.storeAt (wp : Warp) (h : HeldLine) (off : Nat) (bs : List Byte) : Warp :=
  (wp.modHome h.home (HeldLine.show off bs)).modHeld h.line (storeLine off bs)

/-- A store through a held line, shown in the copies of the core. -/
def storeHeld (s : State) (r : WarpRef) (line : VAddr) (off : Nat) (bs : List Byte) : State :=
  match (s.warp? r).bind (·.held? line) with
  | none => s
  | some h => (s.modWarp r fun w => w.storeAt h off bs).shareCopy r h.home (HeldLine.show off bs)

/-- A relaxed .S store issued: it is performed later, in any order with those to other lines (06 R136, R141, log 3). The dump routine's is performed
at once. -/
def State.sendStore (s : State) (r : WarpRef) (ord : Order) (pa : PAddr) (bs : List Byte) : State :=
  if ord == .rlx && s.ctxOf r.b != sysCtx then s.modWarp r fun w => { w with stores := w.stores ++ [{ pa := pa, bytes := bs }] }
  else s.putBytes pa bs

/-- The data of STL in one lane, as bytes. -/
def stlData (wp : Warp) (o : StlOp) (i : Nat) : List Byte × Bool :=
  if o.sz = 1 then (natLE 8 (wp.pair o.d i).val.toNat, (wp.pair o.d i).poison)
  else (natLE (szBytes o.sz) (wp.reg o.d i).val.toNat, (wp.reg o.d i).poison)

/-- STL of one lane (10 R231, R232). -/
def stlLane (o : StlOp) (c : Ctx) (s : State) (i : Nat) : AccRes Unit :=
  let size := szBytes o.sz
  let (bs, pois) := stlData c.wp o i
  let chk := match s.warp? c.r with | some w => lineCheck w o.ln o.off size true pois i | none => .poison
  match chk with
  | .trap t => .trap t s
  | .poison => .ok () s
  | .zero => .ok () s
  | .go line mode view off =>
    if mode == .s then
      if !(c.kern.view view).wr then .trap (mkTrap i 9 0 (elemAt line off) 0) s
      else match syncAccess s c i line off size false true with
        | .held s => .held s
        | .trap t s => .trap t s
        | .ok pa s => .ok () (s.sendStore c.r o.ord pa bs)
    else
      match pinnedAccess s c i line off true with
      | .held s => .held s
      | .trap t s => .trap t s
      | .ok _ s => .ok () (storeHeld s c.r line off bs)

/-- Lanes in ascending order: the state and the traps, an error when a migration or a registration holds an access. A line whose dirty bytes an error took
reports it first (21 R395). -/
def eachLane (f : State → Nat → AccRes Unit) : List Nat → State → Except State (State × List LaneTrap)
  | [], s => .ok (s, [])
  | i :: is, s =>
    match f s i with
    | .held s => .error s
    | .ok _ s => eachLane f is s
    | .trap t s => (eachLane f is s).map fun (s, ts) => (s, t :: ts)

/-- A lane access guarded by the error of its line. -/
def orLost (c : Ctx) (chk : Nat → LineChk) (f : State → Nat → AccRes Unit) (s : State) (i : Nat) : AccRes Unit :=
  match (chk i).line?.bind (lostTrap s c i) with
  | some t => .trap t s
  | none => f s i

/-- Whether some lane of a word is bound in mode .S. -/
def anySync (lanes : List Nat) (chk : Nat → LineChk) : Bool :=
  lanes.any fun i => match chk i with | .go _ .s _ _ => true | _ => false

/-- The shared body of the line accesses: the region end of an ordered .S access (06 Table 6.3), re-pinning (05 R110), then the lanes in
ascending order. -/
def lineBody (ord : Order) (s : State) (c : Ctx) (lanes hl : List Nat) (chk : Nat → LineChk)
    (f : State → Nat → AccRes Unit) (fail : State → Nat → State) : Body :=
  let (s1, ok) := if ord != .rlx && anySync lanes chk then endRegion s c.r else (s, true)
  if !ok then .hold s1 .migration
  else match repinFor s1 c lanes chk with
    | none => .hold s .migration
    | some (s2, blocked) =>
      match eachLane (orLost c chk f) (lanes.filter fun i => !blocked.contains i) s2 with
      | .error t => .hold (s.atHold t c.r) .migration
      | .ok (s3, ts) =>
        let s4 := (ts.filter fun t => hl.contains t.lane).foldl (fun s t => fail s t.lane) s3
        .done (s4.modWarp c.r fun w => if ts.any (fun t => t.code == 0x0F) then { w with held := w.held.map HeldLine.found } else w)
          (ts.filter fun t => !hl.contains t.lane) (blockedLeave c hl blocked)

/-- LDL (10 R231). A helper lane that would trap receives poisoned zero (02 R44). -/
def execLdl (o : LdlOp) (s : State) : Out :=
  issueWord 0x94 (.ldl o) o.g (fun s c act hl =>
    let lanes := (List.range 64).filter fun i => act.contains i || hl.contains i
    lineBody o.ord s c lanes hl (lineCheck c.wp o.ln o.off (szBytes o.sz) false false) (ldlLane o c)
      (fun s i => s.setVs c.r i o.d.toNat (poisonLoad (szBytes o.sz)))) s

/-- STL (10 R231). -/
def execStl (o : StlOp) (s : State) : Out :=
  issueWord 0x95 (.stl o) o.g (fun s c act _ =>
    lineBody o.ord s c act [] (fun i => lineCheck c.wp o.ln o.off (szBytes o.sz) true (stlData c.wp o i).2 i) (stlLane o c)
      (fun s _ => s)) s

/-! ## Atomics -/

/-- The new value of an atomic on 32 bits (10 Table 10.5); `cmp` is cas's compare. -/
def atom32 (op : BitVec 4) (old b cmp : W32) : W32 :=
  match op.toNat with
  | 0 => old + b
  | 1 => if b.toInt < old.toInt then b else old
  | 2 => if old.toInt < b.toInt then b else old
  | 3 => if b.toNat < old.toNat then b else old
  | 4 => if old.toNat < b.toNat then b else old
  | 5 => old &&& b
  | 6 => old ||| b
  | 7 => old ^^^ b
  | 8 => b
  | 9 => if old = cmp then b else old
  | _ => BitVec.ofNat 32 (faddV .f32 .rne false (fval .f32 old.toNat) (fval .f32 b.toNat)).bits

/-- The new value of an atomic on 64 bits. -/
def atom64 (op : BitVec 4) (old b cmp : W64) : W64 :=
  match op.toNat with
  | 0 => old + b
  | 1 => if b.toInt < old.toInt then b else old
  | 2 => if old.toInt < b.toInt then b else old
  | 3 => if b.toNat < old.toNat then b else old
  | 4 => if old.toNat < b.toNat then b else old
  | 5 => old &&& b
  | 6 => old ||| b
  | 7 => old ^^^ b
  | 8 => b
  | _ => if old = cmp then b else old

/-- The operand of an atomic in one lane: the value, cas's compare, and whether any of it is poisoned (10 R234). -/
def atomArg (wp : Warp) (pair : Bool) (op : BitVec 4) (r : Reg) (i : Nat) : W64 × W64 × Bool :=
  if pair then
    let a := wp.pair r i
    let b := wp.pair (regPlus r 2) i
    if op = 9 then (b.val, a.val, a.poison || b.poison) else (a.val, 0, a.poison)
  else
    let a := wp.reg r i
    let b := wp.reg (regPlus r 1) i
    if op = 9 then (b.val.setWidth 64, a.val.setWidth 64, a.poison || b.poison) else (a.val.setWidth 64, 0, a.poison)

/-- The old value's words and the new value's bytes. -/
def atomApply (pair : Bool) (op : BitVec 4) (old : List Byte) (b cmp : W64) : List PW × List Byte :=
  if pair then
    let x := BitVec.ofNat 64 (leNat old)
    (pairWords x false, natLE 8 (atom64 op x b cmp).toNat)
  else
    let x := BitVec.ofNat 32 (leNat old)
    ([{ val := x, poison := false }], natLE 4 (atom32 op x (b.setWidth 32) (cmp.setWidth 32)).toNat)

/-- The checks of ATOML in one lane (10 R235). -/
def atomCheck (wp : Warp) (kern : Kernel) (ln : BitVec 3) (size : Nat) (pois : Bool) (i : Nat) : LineChk :=
  let bd := (wp.lane i).bind ln
  let cur := bd.cursor.toNat
  if bd == .unbound then .trap (mkTrap i 5 0 0 0)
  else if cur % size != 0 then .trap (mkTrap i 6 0 0 (BitVec.ofNat 32 cur))
  else match bd with
    | .unbound => .trap (mkTrap i 5 0 0 0)
    | .zero l _ _ _ => .trap (mkTrap i 9 0 (elemAt l cur) 0)
    | .poisoned a v m _ =>
      if m != .s || !(kern.view v).wr then .trap (mkTrap i 9 0 a 0) else .trap (wp.poisonTrap i 2)
    | .bound l v m _ =>
      if m != .s || !(kern.view v).wr then .trap (mkTrap i 9 0 (elemAt l cur) 0)
      else if pois then .trap (wp.poisonTrap i 2)
      else .go l m v cur

/-- ATOML of one lane (10 R235). -/
def atomlLane (o : AtomlOp) (c : Ctx) (s : State) (i : Nat) : AccRes Unit :=
  let size := if o.pair then 8 else 4
  let (b, cmp, pois) := atomArg c.wp o.pair o.op o.b i
  match atomCheck c.wp c.kern o.ln size pois i with
  | .trap t => .trap t s
  | .go line _ _ off =>
    match syncAccess s c i line off size true true with
    | .held s => .held s
    | .trap t s => .trap t s
    | .ok pa s =>
      let (old, new) := atomApply o.pair o.op (s.bytes pa size) b cmp
      .ok () ((s.putBytes pa new).setVs c.r i o.d.toNat old)
  | _ => .ok () s

/-- ATOML (10 R235). -/
def execAtoml (o : AtomlOp) (s : State) : Out :=
  issueWord 0x96 (.atoml o) o.g (fun s c act _ =>
    lineBody o.ord s c act []
      (fun i => atomCheck c.wp c.kern o.ln (if o.pair then 8 else 4) (atomArg c.wp o.pair o.op o.b i).2.2 i) (atomlLane o c)
      (fun s _ => s)) s

/-! ## LINEQ, VIEWQ, PREF -/

/-- Mode codes (10 Table 10.3). -/
def modeCode : Mode → Nat
  | .r => 0 | .w => 1 | .wz => 2 | .rw => 3 | .s => 4

/-- The answer of LINEQ for one lane (10 R236). -/
def lineQuery (wp : Warp) (q : BitVec 2) (b : Bind) : W32 :=
  match b with
  | .unbound => if q = 0 then 0 else 0xFFFFFFFF
  | .bound l v m c =>
    if q = 0 then (if (wp.held? l).any (·.parked) then 5 else if m = .s then 2 else 1)
    else BitVec.ofNat 32 (if q = 1 then c.toNat else if q = 2 then modeCode m else v.toNat)
  | .zero _ v m c => BitVec.ofNat 32 (if q = 0 then 3 else if q = 1 then c.toNat else if q = 2 then modeCode m else v.toNat)
  | .poisoned _ v m c => BitVec.ofNat 32 (if q = 0 then 4 else if q = 1 then c.toNat else if q = 2 then modeCode m else v.toNat)

def execLineq (o : LineqOp) (s : State) : Out :=
  computeWord 0x98 (.lineq o) o.g false (some (Reg.vec o.d)) (fun c i =>
    res32 (lineQuery c.wp o.q ((c.wp.lane i).bind o.ln)) false) s

/-- The answer of VIEWQ (10 R236): a descriptor field, never BASE; zero at or above RANK. -/
def viewQuery (v : View) (f : BitVec 4) : W32 :=
  match f.toNat with
  | 0 => BitVec.ofNat 32 v.rank
  | 1 => v.etype.setWidth 32
  | 2 => v.space.setWidth 32
  | 3 => BitVec.ofNat 32 ((if v.rd then 1 else 0) + (if v.wr then 2 else 0))
  | 4 => if v.oobZero then 1 else 0
  | n => if n ≤ 9 then (if n - 5 < v.rank then nth 0 v.ext (n - 5) else 0) else if n - 10 < v.rank then nth 0 v.str (n - 10) else 0

def execViewq (o : ViewqOp) (s : State) : Out :=
  computeWord 0x99 (.viewq o) o.g false (some o.d) (fun c _ => res32 (viewQuery (c.kern.view o.v) o.f) false) s

/-- PREF changes only timing (10 R237). -/
def execPref (o : PrefOp) (s : State) : Out := issueWord 0x9A (.pref o) o.g (fun s _ _ _ => .done s [] []) s

end Sys2Proof.Machine
end

