-- ==== Sys2Proof/Machine/Scratch.lean ====
section
/-! DEFINITION. The scratchpad, wait, fence, barrier and message words, opcodes 0xA0-0xAE (05 R114-R120, 10 R238-R252). -/

namespace Sys2Proof.Machine

open Sys2Proof

/-! ## Scratchpad elements -/

/-- The block of a gang at a rank (02 R29). -/
def gangBlock (s : State) (grid lin gang rank : Nat) : Option Nat :=
  (s.blocks.zipIdx.find? fun (k, _) => k.grid == grid && k.lin == lin / gang * gang + rank && k.place != .gone).map (·.2)

/-- Where a scratchpad element lies. -/
inductive ElemAt where
  | poison
  | outside (dim : Nat)
  | place (blk off : Nat)
  deriving DecidableEq, Repr

/-- The element a lane's coordinates name in a scratchpad view (05 R97, 10 R223). DESIGN CHOICE (log 100): 02 R32 releases the scratchpad of a gang member that has
retired, 05 R97 still calls its rank inside, and no rule gives an access to it an outcome; it is taken as outside in its rank, with TFAUX 5, and a read of a
view with OOB = 1 gives zeros. -/
def scratchElem (s : State) (c : Ctx) (v : View) (b : Reg) (i : Nat) : ElemAt :=
  let (cs, pois) := c.wp.coords b v i
  if pois then .poison
  else
    let e := v.locate c.kern.gang cs
    match e.outside with
    | some d => .outside d
    | none =>
      if v.space = 2 then
        match gangBlock s c.blk.grid c.blk.lin c.kern.gang e.rank.toNat with
        | some k => .place k e.addr.toNat
        | none => .outside 5
      else .place c.r.b e.addr.toNat

/-- The traps of an element that is not there: POISON_CONSUMED SUB 6 or VIEW_BOUND (05 R98, 10 R223). -/
def elemTrap (c : Ctx) (i : Nat) (e : ElemAt) : Option LaneTrap :=
  match e with
  | .poison => some (c.wp.poisonTrap i 6)
  | .outside d => some (mkTrap i 7 0 0 (BitVec.ofNat 32 d))
  | .place _ _ => none

/-- MM_CONFLICT SUB 5 of a scratchpad access that meets a card's footprint: TFADDR holds the offset (06 R130, R145). DESIGN CHOICE (log 102): the permutation of 05 R97
can put an 8-byte element at 4 mod 8 and so across two blocks of 128 bytes, where 05 has it in one; its bytes stand one after another, and the block of the
first is the one tested. -/
def footTrap (s : State) (c : Ctx) (i blk off : Nat) (write : Bool) : Option LaneTrap :=
  (s.scratchConflict c.r blk off write).map fun aux => mkTrap i 0x0A 5 (BitVec.ofNat 57 off) aux

/-- A lane's access to an element: the checks of the element and its data, then the access. DESIGN CHOICE (log 101): only SEND and RINGADV have their checks
ordered (10 R252); every other word tests the element first and then its datum. -/
def atPlace (s : State) (c : Ctx) (v : View) (b : Reg) (i : Nat) (pois : Option Nat) (f : State → Nat → Nat → AccRes Unit) : AccRes Unit :=
  match scratchElem s c v b i with
  | .place blk off =>
    match pois with
    | some sub => .trap (c.wp.poisonTrap i sub) s
    | none => f s blk off
  | e => match elemTrap c i e with
    | some t => .trap t s
    | none => .ok () s

/-- A lane's access to an element that a card's footprint can refuse: LDS, STS and ATOMS alone (06 R145, 10 R255). DESIGN CHOICE (log 101): the footprint is
tested last. -/
def atElem (s : State) (c : Ctx) (v : View) (b : Reg) (i : Nat) (write : Bool) (pois : Option Nat)
    (f : State → Nat → Nat → AccRes Unit) : AccRes Unit :=
  atPlace s c v b i pois fun s blk off =>
    match footTrap s c i blk off write with
    | some t => .trap t s
    | none => f s blk off

/-- Lanes in ascending order, with the poisoned zero of helper lanes that would trap (02 R44). -/
def scratchBody (s : State) (lanes hl : List Nat) (f : State → Nat → AccRes Unit) (fail : State → Nat → State) : Body :=
  match eachLane f lanes s with
  | .error _ => .hold s .migration
  | .ok (s, ts) =>
    .done ((ts.filter fun t => hl.contains t.lane).foldl (fun s t => fail s t.lane) s) (ts.filter fun t => !hl.contains t.lane) []

/-- Active and helper lanes together, ascending. -/
def bothLanes (act hl : List Nat) : List Nat := (List.range 64).filter fun i => act.contains i || hl.contains i

/-- Element types that sign-extend on a narrow load (10 R239). -/
def etypeSigned (t : BitVec 4) : Bool := t == 0 || t == 2 || t == 4 || t == 6

/-- Zeros of a destination of n words. -/
def zeroWords (n : Nat) : List PW := List.replicate n zeroPW

/-- LDS of one lane (10 R239); an 8-byte element that the permutation puts at 4 mod 8 is log 102. -/
def ldsLane (o : LdsOp) (c : Ctx) (s : State) (i : Nat) : AccRes Unit :=
  let v := c.kern.view o.v
  match scratchElem s c v o.b i with
  | .outside d =>
    if v.oobZero then .ok () (s.setVs c.r i o.d.toNat (zeroWords (if o.sz = 1 then 2 else 1)))
    else .trap (mkTrap i 7 0 0 (BitVec.ofNat 32 d)) s
  | _ => atElem s c v o.b i false none fun s blk off =>
      .ok () (s.setVs c.r i o.d.toNat (extendLoad v.size (etypeSigned v.etype) (s.scratchBytes blk off v.size)))

def execLds (o : LdsOp) (s : State) : Out :=
  issueWord 0xA0 (.lds o) o.g (fun s c act hl =>
    scratchBody s (bothLanes act hl) hl (ldsLane o c) (fun s i => s.setVs c.r i o.d.toNat (poisonLoad (szBytes o.sz)))) s

/-- STS of one lane (10 R239, R241). -/
def stsLane (o : StsOp) (c : Ctx) (s : State) (i : Nat) : AccRes Unit :=
  let pois := if o.sz = 1 then (c.wp.pair o.d i).poison else (c.wp.reg o.d i).poison
  let x := if o.sz = 1 then (c.wp.pair o.d i).val.toNat else (c.wp.reg o.d i).val.toNat
  atElem s c (c.kern.view o.v) o.b i true (if pois then some 1 else none) fun s blk off =>
    .ok () (s.putScratch blk off (natLE (szBytes o.sz) x))

def execSts (o : StsOp) (s : State) : Out :=
  issueWord 0xA1 (.sts o) o.g (fun s c act _ => scratchBody s act [] (stsLane o c) (fun s _ => s)) s

/-- ATOMS of one lane (10 R239). -/
def atomsLane (o : AtomsOp) (c : Ctx) (s : State) (i : Nat) : AccRes Unit :=
  let (b, cmp, pois) := atomArg c.wp o.pair o.op o.c i
  atElem s c (c.kern.view o.v) o.b i true (if pois then some 2 else none) fun s blk off =>
    let (old, new) := atomApply o.pair o.op (s.scratchBytes blk off (if o.pair then 8 else 4)) b cmp
    .ok () ((s.putScratch blk off new).setVs c.r i o.d.toNat old)

/-- A region end before a body (06 Table 6.3); a migrating write-back holds the word. -/
def afterRegion (s : State) (c : Ctx) (f : State → Body) : Body :=
  match endRegion s c.r with
  | (s, true) => f s
  | (s, false) => .hold s .migration

def execAtoms (o : AtomsOp) (s : State) : Out :=
  issueWord 0xA2 (.atoms o) o.g (fun s c act _ =>
    if o.ord = .rlx then scratchBody s act [] (atomsLane o c) (fun s _ => s)
    else afterRegion s c fun s => scratchBody s act [] (atomsLane o c) (fun s _ => s)) s

/-- LDSM of one lane: the n bytes that begin at the element (10 R239). -/
def ldsmLane (o : LdsOp) (n : Nat) (c : Ctx) (s : State) (i : Nat) : AccRes Unit :=
  let v := c.kern.view o.v
  match scratchElem s c v o.b i with
  | .outside d =>
    if v.oobZero then .ok () (s.setVs c.r i o.d.toNat (zeroWords (n / 4)))
    else .trap (mkTrap i 7 0 0 (BitVec.ofNat 32 d)) s
  | .place blk off =>
    if off % n != 0 then .trap (mkTrap i 7 0 0 6) s
    else if Config.scratchBytes < off + n then .trap (mkTrap i 7 0 0 5) s
    else atElem s c v o.b i false none fun s _ _ =>
      let bs := s.scratchBytes blk off n
      .ok () (s.setVs c.r i o.d.toNat ((List.range (n / 4)).map fun k =>
        { val := BitVec.ofNat 32 (leNat ((bs.drop (4 * k)).take 4)), poison := false }))
  | .poison => .trap (c.wp.poisonTrap i 6) s

def execLdsmB64 (o : LdsOp) (s : State) : Out :=
  issueWord 0xA3 (.ldsmB64 o) o.g (fun s c act hl =>
    scratchBody s (bothLanes act hl) hl (ldsmLane o 8 c) (fun s i => s.setVs c.r i o.d.toNat (List.replicate 2 poisonPW))) s

def execLdsmB128 (o : LdsOp) (s : State) : Out :=
  issueWord 0xA3 (.ldsmB128 o) o.g (fun s c act hl =>
    scratchBody s (bothLanes act hl) hl (ldsmLane o 16 c) (fun s i => s.setVs c.r i o.d.toNat (List.replicate 4 poisonPW))) s

/-! ## WAITA and SIGA -/

/-- One lane of WAITA at issue: its word and test, or its trap. -/
def waitaLane (s : State) (o : WaitaOp) (c : Ctx) (i : Nat) : WaitWord ⊕ LaneTrap :=
  match scratchElem s c (c.kern.view o.v) o.b i with
  | .place blk off =>
    let cv := (c.wp.reg o.c i).val
    .inl { lane := i, blk := blk, off := off, cmp := o.cmp, c := cv, sat := waitaTest o.cmp (s.scratchWord blk off) cv }
  | e => .inr ((elemTrap c i e).getD (mkTrap i 7 0 0 0))

/-- The left parts of a list of alternatives. -/
def leftsOf {α β : Type} (l : List (α ⊕ β)) : List α := l.filterMap fun x => match x with | .inl a => some a | .inr _ => none
/-- The right parts of a list of alternatives. -/
def rightsOf {α β : Type} (l : List (α ⊕ β)) : List β := l.filterMap fun x => match x with | .inl _ => none | .inr b => some b

/-- The deadline of a WAITA: the smallest timeout of its lanes, 0xFFFFFFFF for none (10 R243). -/
def waitaDeadline (now : Nat) (ts : List W32) : Option Nat :=
  ts.foldl (fun (d : Option Nat) (t : W32) =>
    if t = 0xFFFFFFFF then d else match d with | none => some (now + t.toNat) | some x => some (min x (now + t.toNat))) none

/-- WAITA (05 R117, 10 R243). Lanes that the guard leaves out go on (log 72). -/
def execWaita (o : WaitaOp) (s : State) : Out :=
  issueWord 0xA4 (.waita o) o.g (fun s c act _ =>
    let xs := act.map (waitaLane s o c)
    let ws := leftsOf xs
    let ts := rightsOf xs
    if ws.all (·.sat) then
      afterRegion s c fun s => .done (s.modWarp c.r fun w => w.setPredIn (ws.map (·.lane)) o.pd fun _ => false) ts []
    else
      let dl := waitaDeadline s.cycle (act.map fun i => (c.wp.reg (regPlus o.c 1) i).val)
      .done s ts [{ mask := maskOf (ws.map (·.lane)), pc := c.ent.pc, st := .waiting (.waita ws o.pd dl) }]) s

/-- A WAITA whose deadline's cycle is over, in a block that issues: pd is false in each satisfied lane and true in the others (05 R117, 10 R243,
21 R385). -/
def waitaTimeoutEntry (s : State) (r : WarpRef) (k : Nat) : State :=
  match (s.warp? r).bind (·.entries[k]?) with
  | some e =>
    match e.st with
    | .waiting (.waita ws pd dl) =>
      if s.still r.b || !pastDue s dl || e.mask = 0 then s
      else s.wakeRegion r k fun w => w.setPredIn (ws.map (·.lane)) pd fun i => ws.any fun x => x.lane == i && !x.sat
    | _ => s
  | none => s

def execWaitaTimeout (e : EntryRef) (s : State) : Out := .next (waitaTimeoutEntry s { b := e.b, w := e.w } e.e)

/-- SIGA of one lane: a release write (10 R244). -/
def sigaLane (o : SigaOp) (c : Ctx) (s : State) (i : Nat) : AccRes Unit :=
  atPlace s c (c.kern.view o.v) o.b i (if (c.wp.reg o.c i).poison then some 1 else none) fun s blk off =>
    .ok () (s.putScratch blk off (natLE 4 (c.wp.reg o.c i).val.toNat))

/-- SIGA (10 R244): its lanes in ascending order, after the region end. -/
def execSiga (o : SigaOp) (s : State) : Out :=
  issueWord 0xA5 (.siga o) o.g (fun s c act _ =>
    afterRegion s c fun s => scratchBody s act [] (sigaLane o c) (fun s _ => s)) s

/-- FENCE ends the region (10 R245); the region end performs the stores that it orders (log 3). -/
def execFence (o : FenceOp) (s : State) : Out :=
  issueWord 0xA8 (.fence o) o.g (fun s c _ _ => afterRegion s c fun s => .done s [] []) s

/-! ## Barriers -/

/-- BAR (10 R247): the region end and its write-backs come first. -/
def execBar (o : BarOp) (s : State) : Out :=
  issueWord 0xA9 (.bar o) o.g (fun s c act _ =>
    let x := c.blk.bar o.k.toNat
    let n := o.n.map fun r => (nth zeroPW c.wp.s r.toNat).val.toNat
    let fix := if x.count = 0 then n else none
    afterRegion s c fun s =>
    if (fix.map fun n => n < 1 || 1024 < n).getD false then .done s (trapAll act 2 0) []
    else
      let k1 := (((s.blocks[c.r.b]?).getD c.blk).setBar o.k.toNat fun x => x.arrive act.length c.r.w fix)
      let k2 := k1.checkBar o.k.toNat
      let s2 := s.modBlock c.r.b fun _ => k2
      .done s2 [] (if (k2.bar o.k.toNat).phase != x.phase then []
                   else [{ mask := maskOf act, pc := c.ent.pc, st := .waiting (.barrier o.k.toNat x.phase) }])) s

/-- GBAR (10 R247). -/
def execGbar (o : GbarOp) (s : State) : Out :=
  issueWord 0xAB (.gbar o) o.g (fun s c act _ =>
    afterRegion s c fun s =>
      let x := c.blk.gbar o.k.toNat
      let s1 := s.modBlock c.r.b fun k => k.setGbar o.k.toNat fun x => x.arrive act.length c.r.w none
      let s2 := checkGbar s1 c.r.b o.k.toNat
      let passed := ((s2.blocks[c.r.b]?).map fun k => (k.gbar o.k.toNat).phase != x.phase).getD false
      .done s2 [] (if passed then [] else
        [{ mask := maskOf act, pc := c.ent.pc, st := .waiting (.gbarrier o.k.toNat x.phase) }])) s

/-- The flags of a mask are clear (07 R159). -/
def flagsClear (wp : Warp) (mask : BitVec 12) : Bool :=
  (List.range 12).all fun k => !mask.getLsbD k || nth 0 wp.flags k == 0

/-- WAITF (10 R248). Lanes that the guard leaves out go on (log 72). -/
def execWaitf (o : WaitfOp) (s : State) : Out :=
  issueWord 0xAC (.waitf o) o.g (fun s c act _ =>
    if flagsClear c.wp o.mask then afterRegion s c fun s => .done s [] []
    else .done s [] [{ mask := maskOf act, pc := c.ent.pc, st := .waiting (.waitf o.mask) }]) s

/-! ## Byte barriers -/

/-- A byte-barrier record (05 Table 5.8). -/
structure BarbRec where
  count : Int
  high  : W32
  deriving DecidableEq, Repr

def State.barb (s : State) (blk off : Nat) : BarbRec :=
  { count := (s.scratchWord blk off).toInt, high := s.barbWord blk off }

/-- Writing a record, which wakes its waiters. -/
def State.putBarb (s : State) (blk off : Nat) (x : BarbRec) : State :=
  s.putScratch blk off (natLE 4 (BitVec.ofInt 32 x.count).toNat ++ natLE 4 x.high.toNat)

/-- What follows either update of a record (05 R120). -/
def BarbRec.settle (x : BarbRec) : BarbRec :=
  let posted := x.high.getLsbD 30
  let x := if posted && x.count < 0 then { x with high := x.high ||| 0x80000000 } else x
  let x := if x.count < -(2 ^ 31) then { count := -(2 ^ 31), high := x.high ||| 0x80000000 } else x
  if posted && x.count = 0 then { x with high := (x.high ^^^ 0x20000000) &&& ~~~ (0x40000000 : W32) } else x

/-- A post of e bytes; none when it is refused. -/
def BarbRec.post (x : BarbRec) (e : Nat) : Option BarbRec :=
  if 2 ^ 31 ≤ e || x.count + (e : Int) > 2 ^ 31 - 1 then none
  else some ({ count := x.count + e, high := x.high ||| 0x40000000 } : BarbRec).settle

/-- A delivery of n payload bytes. -/
def BarbRec.deliver (x : BarbRec) (n : Nat) : BarbRec := ({ x with count := x.count - n } : BarbRec).settle

/-- BARB.post of one lane (10 R249). -/
def barbPostLane (o : BarbPostOp) (c : Ctx) (s : State) (i : Nat) : AccRes Unit :=
  atPlace s c (c.kern.view o.v) o.b i (if (c.wp.reg o.c i).poison then some 1 else none) fun s blk off =>
    let x := s.barb blk off
    match x.post (c.wp.reg o.c i).val.toNat with
    | none => .trap (mkTrap i 0x0D 0 0 0) s
    | some y => .ok () ((s.putBarb blk off y).setVs c.r i o.d.toNat [{ val := if x.high.getLsbD 29 then 1 else 0, poison := false }])

/-- BARB.post (05 R120, 10 R249). -/
def execBarbPost (o : BarbPostOp) (s : State) : Out :=
  issueWord 0xAA (.barbPost o) o.g (fun s c act _ => scratchBody s act [] (barbPostLane o c) (fun s _ => s)) s

/-- One lane of BARB.wait at issue. -/
def barbLane (s : State) (o : BarbWaitOp) (c : Ctx) (i : Nat) : WaitPhase ⊕ LaneTrap :=
  match scratchElem s c (c.kern.view o.v) o.b i with
  | .place blk off =>
    if (s.barbWord blk off).getLsbD 31 then .inr (mkTrap i 0x0D 0 0 0)
    else .inl { lane := i, blk := blk, off := off, q := (c.wp.reg o.c i).val.getLsbD 0, word := c.cur.word }
  | e => .inr ((elemTrap c i e).getD (mkTrap i 7 0 0 0))

/-- BARB.wait (05 R120, 10 R249): the entry goes on when every lane's PHASE differs from its q. Lanes that the guard leaves out go on at once
(log 72). -/
def execBarbWait (o : BarbWaitOp) (s : State) : Out :=
  issueWord 0xAA (.barbWait o) o.g (fun s c act _ =>
    let xs := act.map (barbLane s o c)
    let ws := leftsOf xs
    if ws.all fun w => (s.barbWord w.blk w.off).getLsbD 29 != w.q then afterRegion s c fun s => .done s (rightsOf xs) []
    else .done s (rightsOf xs) [{ mask := barbLanes ws, pc := c.ent.pc, st := .waiting (.barb ws) }]) s

/-! ## Message rings -/

/-- A ring header (10 Table 10.11). -/
structure Ring where
  head  : W32
  tail  : W32
  nslot : Nat
  slotb : Nat
  drops : W32
  deriving DecidableEq, Repr

def State.ring (s : State) (blk off : Nat) : Ring :=
  let x := (s.scratchWord blk (off + 8)).toNat
  { head := s.scratchWord blk off, tail := s.scratchWord blk (off + 4), nslot := x % 2 ^ 16, slotb := x / 2 ^ 16,
    drops := s.scratchWord blk (off + 12) }

/-- A power of two from 2 to 4096. -/
def slotCountOk (n : Nat) : Bool := [2, 4, 8, 16, 32, 64, 128, 256, 512, 1024, 2048, 4096].contains n

/-- The header and ring checks of 10 R252 for a message of n words: TFAUX of VIEW_BOUND. -/
def Ring.check (x : Ring) (off n : Nat) : Option W32 :=
  if off % 16 != 0 then some 6
  else if !slotCountOk x.nslot || x.slotb < 16 || 256 < x.slotb || x.slotb % 16 != 0 || x.slotb < 4 + 4 * n ||
          Config.scratchBytes < off + 16 + x.nslot * x.slotb then some 7
  else none

/-- Messages in a ring. -/
def Ring.used (x : Ring) : W32 := x.tail - x.head

/-- SEND of one lane (10 R252). -/
def sendLane (o : SendOp) (c : Ctx) (s : State) (i : Nat) : AccRes Unit :=
  let n := o.n1.toNat + 1
  let pay := (List.range n).map fun k => c.wp.reg (regPlus o.c k) i
  match scratchElem s c (c.kern.view o.v) o.b i with
  | .place blk off =>
    let x := s.ring blk off
    match x.check off n with
    | some aux => .trap (mkTrap i 7 0 0 aux) s
    | none =>
      let slot := off + 16 + x.tail.toNat % x.nslot * x.slotb
      if pay.any (·.poison) then .trap (c.wp.poisonTrap i 5) s
      else if x.nslot ≤ x.used.toNat then
        .ok () ((s.putScratch blk (off + 12) (natLE 4 (x.drops + 1).toNat)).modWarp c.r (·.setPredIn [i] o.pd fun _ => false))
      else
        let s := s.putScratch blk slot (natLE 4 (4 * n) ++ pay.flatMap fun p => natLE 4 p.val.toNat)
        .ok () ((s.putScratch blk (off + 4) (natLE 4 (x.tail + 1).toNat)).modWarp c.r (·.setPredIn [i] o.pd fun _ => true))
  | e => .trap ((elemTrap c i e).getD (mkTrap i 7 0 0 0)) s

def execSend (o : SendOp) (s : State) : Out :=
  issueWord 0xAD (.send o) o.g (fun s c act _ => scratchBody s act [] (sendLane o c) (fun s _ => s)) s

/-- RINGADV of one lane: HEAD advances by at most the messages there are (10 R252). The count goes to the lane's destination; of
several lanes with one s-register for it, that of lane `who` stands there (log 54), and of none when a lane of Active traps (07 R169). -/
def ringadvLane (o : RingadvOp) (who : Option Nat) (c : Ctx) (s : State) (i : Nat) : AccRes Unit :=
  match scratchElem s c (c.kern.view o.v) o.b i with
  | .place blk off =>
    let x := s.ring blk off
    match x.check off 0 with
    | some aux => .trap (mkTrap i 7 0 0 aux) s
    | none =>
      if (c.wp.reg o.c i).poison then .trap (c.wp.poisonTrap i 1) s
      else
        let m := (c.wp.reg o.c i).val
        let k := if m.toNat < x.used.toNat then m else x.used
        let s := s.putScratch blk off (natLE 4 (x.head + k).toNat)
        let res : PW := { val := k, poison := false }
        .ok () (if o.d.s then (if some i = who then s.modWarp c.r (·.setSs o.d.n.toNat [res]) else s)
                else s.setVs c.r i o.d.n.toNat [res])
  | e => .trap ((elemTrap c i e).getD (mkTrap i 7 0 0 0)) s

/-- RINGADV of a lane raises a trap. -/
def ringadvTraps (o : RingadvOp) (s : State) (c : Ctx) (i : Nat) : Bool :=
  match ringadvLane o none c s i with
  | .trap _ _ => true
  | _ => false

/-- The lane whose count an s-register destination takes (07 R169, log 54). -/
def ringadvWho (o : RingadvOp) (s : State) (c : Ctx) (act : List Nat) : Option Nat :=
  if c.spoiled o.g || act.any (ringadvTraps o s c) then none else some (anyLane act)

def execRingadv (o : RingadvOp) (s : State) : Out :=
  issueWord 0xAE (.ringadv o) o.g (fun s c act _ => scratchBody s act [] (ringadvLane o (ringadvWho o s c act) c) (fun s _ => s)) s

end Sys2Proof.Machine
end

