-- ==== Sys2Proof/Machine/Record.lean ====
section
/-! DEFINITION. Job card records: their fields, boxes, footprints and the checks a card word makes at issue (11 R258-R262, R270-R277,
12 R279-R297). Offsets follow Tables 11.2 and 11.3 and each kind's own table. -/

namespace Sys2Proof.Machine

open Sys2Proof

/-! ## Fields -/

/-- The 32-bit word of a record at a byte offset. -/
def recW (r : List Byte) (o : Nat) : Nat := leNat ((r.drop o).take 4)
/-- Bits hi..lo of a record's word. -/
def recF (r : List Byte) (o hi lo : Nat) : Nat := field (recW r o) hi lo
/-- A record's word as INT32. -/
def recI (r : List Byte) (o : Nat) : Int := (BitVec.ofNat 32 (recW r o)).toInt
/-- One bit of a record's word. -/
def recB (r : List Byte) (o k : Nat) : Bool := recF r o k k == 1

/-- A box descriptor (11 Table 11.3). -/
structure Box where
  valid : Bool
  w     : Bool
  view  : Nat
  grank : Nat
  org   : List Int
  cnt   : List Nat
  deriving DecidableEq, Repr

/-- The offset of a box in its record. -/
def boxOff (n : Nat) : Nat := 0x40 + 0x30 * n

/-- Box n of a record. -/
def boxOf (r : List Byte) (n : Nat) : Box :=
  let o := boxOff n
  { valid := recB r o 8, w := recB r o 7, view := recF r o 5 0, grank := recF r o 23 16,
    org := (List.range 5).map fun d => recI r (o + 4 + 4 * d), cnt := (List.range 5).map fun d => recW r (o + 0x18 + 4 * d) }

/-- The number of elements of a box over a view's rank. -/
def Box.count (b : Box) (v : View) : Nat := (b.cnt.take v.rank).foldl (· * ·) 1

/-- The coordinates of element k: dimension 0 counts fastest (11 R260). -/
def boxCoords : List Int → List Nat → Nat → List Int
  | o :: os, c :: cs, k => (o + (k % c : Nat)) :: boxCoords os cs (k / c)
  | _, _, _ => []

/-- The location of element k of a box (05 R97). -/
def Box.elem (b : Box) (k : Kernel) (n : Nat) : Elem :=
  let v := nth noView k.views b.view
  v.locate k.gang (boxCoords (b.org.take v.rank) (b.cnt.take v.rank) n ++ [(b.grank : Int)])

/-! ## Checks at issue -/

/-- The first alternative that holds. -/
def firstSome {α : Type} : List (Option α) → Option α
  | [] => none
  | some a :: _ => some a
  | none :: l => firstSome l

/-- The lowest of some offsets: within one condition, fields are examined in ascending offset (11 R262). -/
def lowest? (l : List (Option Nat)) : Option Nat := l.reduceOption.min?

/-- A failure at a record offset. -/
def failIf (c : Bool) (off : Nat) : Option Nat := if c then some off else none

/-- A number is none of a list. -/
def notIn (l : List Nat) (x : Nat) : Bool := !l.contains x

/-- Card kinds by opcode. -/
def isCopy (op : Nat) : Bool := op ≤ 0xB3
def isKv (op : Nat) : Bool := 0xC0 ≤ op && op ≤ 0xC3
def isEmb (op : Nat) : Bool := 0xC4 ≤ op && op ≤ 0xC6

/-- The bits that must be zero in each word of the header (11 Table 11.2, R259; 12 R286, R291-R297). -/
def headMasks (op : Nat) (drain : Bool) : List (Nat × Nat) :=
  let w0 := 0xFFFFFF18 + (if op = 0xB2 then 0 else 0x80) + (if op = 0xB1 then 0 else 0x40) + (if op = 0xB3 then 0 else 0x20)
  let all := 0xFFFFFFFF
  let tail (l : List Nat) : List (Nat × Nat) := l.map fun o => (o, all)
  [(0x00, w0), (0x08, 0xC0C0)] ++
  (if isCopy op then tail [0x18, 0x1C, 0x20, 0x24, 0x28, 0x2C, 0x30, 0x34, 0x38, 0x3C]
   else match op with
    | 0xB8 => [(0x18, 0xFF0000C0), (0x20, if drain then 0xFF00F8F8 else all)] ++ tail [0x24, 0x28, 0x2C, 0x30, 0x34, 0x38, 0x3C]
    | 0xBA => [(0x18, all), (0x1C, all), (0x20, 0xFF00F8F8)] ++ tail [0x24, 0x28, 0x2C, 0x30, 0x34, 0x38, 0x3C]
    | 0xC0 => [(0x18, 0xC00000E0), (0x20, 0xFFFF0000), (0x34, 0xFFFFFFC0), (0x3C, all)]
    | 0xC1 => [(0x18, 0xFFFFF800), (0x20, 0xFFFF0000), (0x28, all), (0x2C, all), (0x30, all), (0x34, 0xFFFFFFC0), (0x3C, all)]
    | 0xC2 => [(0x18, 0xFFFFF000), (0x20, 0xFFFF0000), (0x28, all), (0x2C, all), (0x30, all), (0x34, 0xFFFFFFC0), (0x3C, all)]
    | 0xC3 => [(0x18, 0xFFFFF000), (0x20, 0xFFFF0000), (0x2C, all), (0x30, all), (0x34, 0xFFFFFFC0), (0x3C, all)]
    | 0xC4 => (0x18, 0xFFFFFC00) :: tail [0x20, 0x24, 0x28, 0x2C, 0x30, 0x34, 0x38, 0x3C]
    | 0xC5 => (0x18, 0xFFFFFE00) :: tail [0x24, 0x28, 0x2C, 0x30, 0x34, 0x38, 0x3C]
    | _ => [(0x18, 0xC0C0FE00), (0x1C, 0xFFFFFFFE)] ++ tail [0x20, 0x24, 0x28, 0x2C, 0x30, 0x34, 0x38, 0x3C])

/-- Where the fields of a word begin, by bit. -/
def fieldStarts (op o : Nat) : List Nat :=
  if o = 0x00 then [0, 1, 2, 3, 5, 6, 7, 8]
  else if o = 0x08 then [0, 6, 8, 14, 16, 24]
  else if o = 0x18 then
    (match op with
     | 0xC0 => [0, 5, 8, 16, 20, 24, 27, 28, 29, 30]
     | 0xC1 => [0, 11]
     | 0xC2 => [0, 12]
     | 0xC3 => [0, 12]
     | 0xC4 => [0, 8, 10]
     | 0xC5 => [0, 8, 9]
     | 0xC6 => [0, 8, 9, 16, 22, 24, 30]
     | _ => [0, 1, 2, 3, 6, 8, 12, 16, 24])
  else if o = 0x1C then (if op = 0xC6 then [0, 1] else [0])
  else if o = 0x20 then (if 0xC0 ≤ op then [0, 16] else [0, 1, 2, 3, 8, 11, 16, 24])
  else if o = 0x34 then (if 0xC0 ≤ op then [0, 6] else [0])
  else if 0x40 ≤ o && (o - 0x40) % 0x30 = 0 then [0, 6, 7, 8, 9, 16, 24]
  else [0]

/-- The lowest set bit of a word below bit n. -/
def lowBit (x : Nat) : Nat := ((List.range 32).find? fun k => x / 2 ^ k % 2 == 1).getD 32

/-- The byte offset of the field that holds the lowest set bit. -/
def fieldByte (op o x : Nat) : Nat := o + ((fieldStarts op o).filter (· ≤ lowBit x)).foldl max 0 / 8

/-- A reserved or unused field that is not zero (11 R262, second condition). -/
def reservedFail (op : Nat) (r : List Byte) : Option Nat :=
  let boxes := (List.range 4).flatMap fun n => [(boxOff n, 0xFF00FE40), (boxOff n + 0x2C, 0xFFFFFFFF)]
  lowest? ((headMasks op (recB r 0x18 2) ++ boxes).map fun (o, m) =>
    let x := recW r o &&& m
    if x = 0 then none else some (if op < 0xC0 && 0x24 ≤ o && o < 0x40 then 0x24 else fieldByte op o x))

/-- What a kind asks of a box. -/
inductive Role where
  | read | write | extra | extraRead | absent
  deriving DecidableEq, Repr

/-- A valid box of a record whose view is FP8. -/
def boxFp8 (k : Kernel) (r : List Byte) (n : Nat) : Bool :=
  let b := boxOf r n
  b.valid && [11, 12].contains (nth noView k.views b.view).etype.toNat

/-- The roles of the boxes (11 Table 11.4, 12 R287-R297). -/
def rolesOf (k : Kernel) (op : Nat) (r : List Byte) : List Role :=
  let dr := op == 0xBA || recB r 0x18 2
  let nm := dr && recB r 0x20 0
  let tr := dr && recB r 0x20 1
  let sc := (nm && boxFp8 k r 1) || (tr && boxFp8 k r 2)
  let w (b : Bool) : Role := if b then .write else .absent
  match op with
  | 0xB3 => [.read, .extra, .extra, .extra]
  | 0xB8 => [.read, w nm, w tr, w sc]
  | 0xBA => [.absent, w nm, w tr, w sc]
  | 0xC0 => [.read, w (recB r 0x18 28), .read, .read]
  | 0xC1 => [.read, .read, .write, .write]
  | 0xC2 => [.read, .extra, .extra, .extra]
  | 0xC3 => [.write, .extra, .extra, .extra]
  | 0xC4 => [.read, .read, .write, .extra]
  | 0xC5 => [.read, .read, .extra, .extra]
  | 0xC6 => [.extraRead, .extraRead, .extraRead, .extraRead]
  | _ => [.read, .write, .extra, .extra]

/-- A box against its role (11 R262, third condition): the offset of W or VALID. -/
def roleFail (b : Box) (n : Nat) (x : Role) : Option Nat :=
  match x with
  | .read => lowest? [failIf b.w (boxOff n), failIf (!b.valid) (boxOff n + 1)]
  | .write => lowest? [failIf (!b.w) (boxOff n), failIf (!b.valid) (boxOff n + 1)]
  | .extra => none
  | .extraRead => failIf (b.valid && b.w) (boxOff n)
  | .absent => failIf b.valid (boxOff n + 1)

/-- The completion word or the byte barrier of a record: its view and coordinates (11 R262). -/
structure Spot where
  view : Nat
  rank : Nat
  c    : Int
  deriving DecidableEq, Repr

def cwSpot (r : List Byte) : Spot := { view := recF r 8 5 0, rank := recF r 8 23 16, c := recI r 0x0C }
def bbSpot (r : List Byte) : Spot := { view := recF r 8 13 8, rank := recF r 8 31 24, c := recI r 0x10 }

/-- The view of a spot is a rank-1 scratchpad view of the element size. -/
def Spot.viewOk (x : Spot) (k : Kernel) (size : Nat) : Bool :=
  match k.views[x.view]? with
  | some v => v.scratch && v.rank == 1 && v.size == size
  | none => false

/-- The gang rank of a spot names a block. -/
def Spot.rankOk (x : Spot) (k : Kernel) : Bool := (nth noView k.views x.view).space != 2 || x.rank < k.gang

/-- The location of a spot. -/
def Spot.elem (x : Spot) (k : Kernel) : Elem := (nth noView k.views x.view).locate k.gang [x.c, (x.rank : Int)]

/-- The completion word and the barrier (11 R118, R262, first condition). -/
def spotFail (k : Kernel) (r : List Byte) : Option Nat :=
  let cw := recB r 0 0
  let bb := recB r 0 1
  lowest? [
    failIf (cw && !(cwSpot r).viewOk k 4) 0x08, failIf (bb && !(bbSpot r).viewOk k 8) 0x09,
    failIf (cw && !(cwSpot r).rankOk k) 0x0A, failIf (bb && !(bbSpot r).rankOk k) 0x0B,
    failIf (cw && ((cwSpot r).elem k).outside.isSome) 0x0C, failIf (bb && ((bbSpot r).elem k).outside.isSome) 0x10]

/-- The valid boxes of a record, with their numbers. -/
def validBoxes (r : List Byte) : List (Nat × Box) := ((List.range 4).map fun n => (n, boxOf r n)).filter fun x => x.2.valid

/-- A view index at or above Nview. -/
def viewFail (k : Kernel) (op : Nat) (r : List Byte) : Option Nat :=
  let n := k.views.length
  lowest? (
    [failIf (op == 0xC6 && !recB r 0x18 8 && n ≤ recF r 0x18 21 16) 0x1A,
     failIf (op == 0xC6 && recB r 0x1C 0 && n ≤ recF r 0x18 29 24) 0x1B,
     failIf (isKv op && n ≤ recF r 0x34 5 0) 0x34] ++
    (validBoxes r).map fun (i, b) => failIf (n ≤ b.view) (boxOff i))

/-- A gang rank outside space 2, or at or above G. -/
def rankFail (k : Kernel) (r : List Byte) : Option Nat :=
  let space (v : Nat) : BitVec 3 := (nth noView k.views v).space
  lowest? (
    [failIf (recB r 0 0 && recF r 8 23 16 != 0 && space (recF r 8 5 0) != 2) 0x0A,
     failIf (recB r 0 1 && recF r 8 31 24 != 0 && space (recF r 8 13 8) != 2) 0x0B] ++
    (validBoxes r).map fun (i, b) => failIf (b.grank != 0 && (space b.view != 2 || k.gang ≤ b.grank)) (boxOff i + 2))

/-- A count of zero, or a field at or above RANK that breaks Table 11.3. -/
def shapeFail (k : Kernel) (r : List Byte) : Option Nat :=
  lowest? ((validBoxes r).flatMap fun (i, b) =>
    let v := nth noView k.views b.view
    ((List.range 5).map fun d => failIf (v.rank ≤ d && nth 0 b.org d != 0) (boxOff i + 4 + 4 * d)) ++
    ((List.range 5).map fun d => failIf (nth 0 b.cnt d == 0 || (v.rank ≤ d && nth 0 b.cnt d != 1)) (boxOff i + 0x18 + 4 * d)))

/-- A box may leave its view: a read box under OOB = 1. -/
def mayLeave (v : View) (b : Box) : Bool := !b.w && v.oobZero

/-- A box that leaves its view's extents. DESIGN CHOICE (log 92): the field found is ORGd, also where CNTd takes the box over the extent. -/
def extentFail (k : Kernel) (r : List Byte) : Option Nat :=
  lowest? ((validBoxes r).flatMap fun (i, b) =>
    let v := nth noView k.views b.view
    (List.range v.rank).map fun d =>
      failIf (!mayLeave v b && (nth 0 b.org d < 0 || ((nth 0 v.ext d).toNat : Int) < nth 0 b.org d + (nth 0 b.cnt d : Nat)))
        (boxOff i + 4 + 4 * d))

/-- A scratchpad box that passes 1,572,864, or a box of memory with an element outside the 57-bit range, which no condition names: DESIGN CHOICE (log 92),
it counts as this one. -/
def passFail (k : Kernel) (r : List Byte) : Option Nat :=
  lowest? ((validBoxes r).map fun (i, b) =>
    let v := nth noView k.views b.view
    failIf ((List.range (b.count v)).any fun n =>
      let e := b.elem k n
      (!mayLeave v b && e.outside.isSome) ||
      (v.scratch && (e.outside.isNone || e.outside == some 5) && (Config.scratchBytes : Int) < e.addr + v.size)) (boxOff i))

/-- A box whose view lacks the right. -/
def rightFail (k : Kernel) (r : List Byte) : Option Nat :=
  lowest? ((validBoxes r).map fun (i, b) =>
    let v := nth noView k.views b.view
    failIf (if b.w then !v.wr else !v.rd) (boxOff i))

/-- A view and the box that names it. -/
def boxView (k : Kernel) (r : List Byte) (n : Nat) : View := nth noView k.views (boxOf r n).view
/-- The element count of a box. -/
def boxCount (k : Kernel) (r : List Byte) (n : Nat) : Nat := (boxOf r n).count (boxView k r n)

/-- Conditions of the copies (11 R266, R270, R271). `flagged` says that the clause assigns the word a flag, `dest` that it names a ticket
register. -/
def copyFail (k : Kernel) (op : Nat) (r : List Byte) (flagged dest : Bool) : Option Nat :=
  let space (n : Nat) : Nat := (boxView k r n).space.toNat
  let ff := recB r 0 7
  if op = 0xB3 then none
  else lowest? (
    [failIf (ff && (flagged || dest || recB r 0 0 || recB r 0 1 || recB r 0 2)) 0,
     failIf (op != 0xB1 && (boxView k r 0).size != (boxView k r 1).size) (boxOff 1),
     failIf (boxCount k r 0 != boxCount k r 1) (boxOff 1 + 0x18),
     failIf (op == 0xB2 && space 0 != 3 && space 1 != 3) (boxOff 0)] ++
    (validBoxes r).map fun (i, _) => failIf (if op = 0xB2 then space i == 4 else space i == 3) (boxOff i))

/-- The formats of Mainsail operands (11 R275). -/
def mmaFormat (t : Nat) : Bool := [0, 9, 10, 11, 12].contains t

/-- Conditions of a drain (11 R277). -/
def drainFail (k : Kernel) (r : List Byte) : Option Nat :=
  let rows := recF r 0x20 23 16 + 1
  let out (n : Nat) : List (Option Nat) :=
    if (boxOf r n).valid then
      [failIf (notIn [8, 10, 11, 12] (boxView k r n).etype.toNat) (boxOff n),
       failIf (boxCount k r n != 128 * rows) (boxOff n + 0x18)]
    else []
  let scales := (if boxFp8 k r 1 then rows else 0) + (if boxFp8 k r 2 then 128 else 0)
  lowest? (out 1 ++ out 2 ++
    (if (boxOf r 3).valid then
      [failIf ((boxView k r 3).rank != 1 || (boxView k r 3).etype != 8) (boxOff 3),
       failIf (boxCount k r 3 != scales) (boxOff 3 + 0x18)]
     else []))

/-- Conditions of MMA (11 R273, R275, R277). -/
def mmaFail (k : Kernel) (r : List Byte) : Option Nat :=
  let a := recF r 0x18 11 8
  let w := recF r 0x18 15 12
  let drain := recB r 0x18 2
  let g := recW r 0x1C
  lowest? [
    failIf (!drain && recB r 0 1) 0,
    failIf (k.nacc ≤ recF r 0x18 5 3) 0x18,
    failIf (!mmaFormat a || !mmaFormat w || (a == 0) != (w == 0)) 0x19,
    failIf (g < 1 || 64 < g) 0x1C,
    failIf (drain && recF r 0x20 10 8 != recF r 0x18 5 3) 0x21,
    failIf ((boxView k r 0).rank != 1 || (boxView k r 0).etype != 8) (boxOff 0),
    failIf (boxCount k r 0 != g * (recF r 0x18 23 16 + 2)) (boxOff 0 + 0x18),
    if drain then drainFail k r else none]

/-! ## KV cache descriptors and Sorrel -/

/-- A KV cache descriptor (12 Table 12.2). -/
structure KvDesc where
  kview : Nat
  vview : Nat
  mview : Nat
  hd    : Nat
  fmt   : Nat
  rope  : Nat
  rotp  : Nat
  nhead : Nat
  npage : Nat
  nseq  : Nat
  deriving DecidableEq, Repr

def kvDesc (d : List Byte) : KvDesc :=
  { kview := recF d 0 5 0, vview := recF d 0 13 8, mview := recF d 0 21 16, hd := recF d 4 7 0, fmt := recF d 4 11 8,
    rope := recF d 4 13 12, rotp := recF d 4 22 16, nhead := recF d 8 15 0, npage := recW d 0x0C, nseq := recW d 0x10 }

/-- A pool view of a descriptor (12 R283). -/
def poolOk (k : Kernel) (x : KvDesc) (n : Nat) : Bool :=
  match k.views[n]? with
  | some v => v.space == 0 && v.rank == 2 && v.etype.toNat == x.fmt && (nth 0 v.ext 0).toNat == x.hd
  | none => false

/-- The residency map's view (12 R283). -/
def mapOk (k : Kernel) (x : KvDesc) : Bool :=
  match k.views[x.mview]? with
  | some v => v.space == 0 && v.rank == 1 && v.etype == 5
  | none => false

/-- A descriptor outside Table 12.2: 0x8000 plus the byte offset of the field (12 R279, R287). -/
def descFail (k : Kernel) (d : List Byte) : Option Nat :=
  let x := kvDesc d
  (lowest? [
    failIf (!poolOk k x x.kview) 0, failIf (!poolOk k x x.vview) 1, failIf (!mapOk k x) 2,
    failIf (recW d 0 &&& 0xFFC0C0C0 != 0) ((if recW d 0 &&& 0xC0 != 0 then 0 else if recW d 0 &&& 0xC000 != 0 then 1 else 2)),
    failIf (notIn [32, 64, 128] x.hd) 4, failIf (notIn [9, 10, 11, 12] x.fmt) 5, failIf (x.rope == 3) 5,
    failIf (recF d 4 15 14 != 0) 5, failIf (x.hd / 2 < x.rotp) 6, failIf (recF d 4 31 23 != 0) 6,
    failIf (x.nhead == 0) 8, failIf (recF d 8 31 16 != 0) 0x0A, failIf (x.npage == 0 || 2 ^ 24 < x.npage) 0x0C,
    failIf (x.nseq == 0 || 2 ^ 31 < x.nseq) 0x10,
    failIf ((List.range 11).any fun n => recW d (0x14 + 4 * n) != 0) 0x14]).map fun o => 0x8000 + o

/-- The conditions that all KV cards share: SEQ, HEAD and the pages they name (12 R287, R291-R293). -/
def kvCommon (x : KvDesc) (r : List Byte) (lastPage : Nat) : Option Nat :=
  lowest? [failIf (x.nseq ≤ recW r 0x1C) 0x1C, failIf (x.nhead ≤ recF r 0x20 15 0) 0x20, failIf (x.npage ≤ lastPage) 0x24]

/-- Conditions of ATTN (12 R287). DESIGN CHOICE (log 104): OFMT is looked at only with FIN set; Table 12.4 gives it the values 8 and 10, and no rule says whether
one that nothing uses is refused. -/
def attnFail (k : Kernel) (r d : List Byte) : Option Nat :=
  let x := kvDesc d
  let rows := recF r 0x18 15 8 + 1
  lowest? [
    failIf (128 < rows) 0x19, failIf (notIn [8, 10] (recF r 0x18 19 16)) 0x1A,
    failIf (recB r 0x18 28 && notIn [8, 10] (recF r 0x18 23 20)) 0x1A, failIf (k.nacc ≤ recF r 0x18 26 24 + 1) 0x1B,
    kvCommon x r (recW r 0x24 + recF r 0x18 4 0),
    failIf ((boxView k r 0).etype.toNat != recF r 0x18 19 16) (boxOff 0),
    failIf (boxCount k r 0 != rows * x.hd) (boxOff 0 + 0x18),
    failIf (recB r 0x18 28 && (boxView k r 1).etype.toNat != recF r 0x18 23 20) (boxOff 1),
    failIf (recB r 0x18 28 && boxCount k r 1 != rows * x.hd) (boxOff 1 + 0x18),
    failIf ((boxOf r 2).view != x.kview) (boxOff 2), failIf ((boxOf r 3).view != x.vview) (boxOff 3)]

/-- Conditions of KVAPPEND, KVMAP and KVROT (12 R291-R293). -/
def kvFail (k : Kernel) (op : Nat) (r d : List Byte) : Option Nat :=
  let x := kvDesc d
  if op = 0xC1 then
    let n := recF r 0x18 10 0 + 1
    let src (b : Nat) : List (Option Nat) :=
      [failIf (notIn [8, 9, 10] (boxView k r b).etype.toNat) (boxOff b), failIf (boxCount k r b != n * x.hd) (boxOff b + 0x18)]
    lowest? ([kvCommon x r ((recW r 0x24 + n - 1) / 64)] ++ src 0 ++ src 1 ++
      [failIf ((boxOf r 2).view != x.kview) (boxOff 2), failIf ((boxOf r 3).view != x.vview) (boxOff 3)])
  else
    let n := recF r 0x18 11 0 + 1
    let last := recW r 0x24 + n - 1
    if op = 0xC2 then
      lowest? [kvCommon x r last, failIf ((boxView k r 0).etype != 5) (boxOff 0),
        failIf (boxCount k r 0 != 4 * n) (boxOff 0 + 0x18)]
    else
      lowest? [kvCommon x r last, failIf (x.rope != 1) 0x8005, failIf ((boxOf r 0).view != x.kview) (boxOff 0)]

/-- A table view of Sorrel (12 R294). -/
def tableOk (v : View) : Bool :=
  v.space == 0 && v.rank == 2 && (v.etype == 8 || v.etype == 10) && 1 ≤ (nth 0 v.ext 0).toNat && (nth 0 v.ext 0).toNat ≤ 1024

/-- A state view of Sorrel (12 R294). -/
def stateOk (t v : View) : Bool :=
  v.space == 0 && v.rank == 1 && v.etype == 8 && (nth 0 t.ext 1).toNat ≤ (nth 0 v.ext 0).toNat

/-- Conditions of the Sorrel cards found at issue (12 R295-R297). -/
def embFail (k : Kernel) (op : Nat) (r : List Byte) : Option Nat :=
  let idx : List (Option Nat) :=
    [failIf ((boxView k r 0).rank != 1 || !([4, 5].contains (boxView k r 0).etype.toNat)) (boxOff 0)]
  if op = 0xC6 then
    let t := nth noView k.views (recF r 0x18 21 16)
    let v := nth noView k.views (recF r 0x18 29 24)
    if recB r 0x18 8 then none
    else lowest? [failIf (!tableOk t) 0x1A, failIf (recB r 0x1C 0 && !stateOk t v) 0x1B]
  else if op = 0xC4 then
    let nb := recW r 0x1C
    lowest? ([failIf (recF r 0x18 9 8 == 3) 0x19, failIf (nb < 1 || 65536 < nb) 0x1C] ++ idx ++
      [failIf ((boxView k r 1).rank != 1 || (boxView k r 1).etype != 5) (boxOff 1),
       failIf (boxCount k r 1 != nb + 1) (boxOff 1 + 0x18), failIf ((boxView k r 2).etype != 8) (boxOff 2)])
  else lowest? (idx ++ [failIf ((boxView k r 1).etype != 8) (boxOff 1)])

/-- The kind's own conditions. -/
def kindFail (k : Kernel) (op : Nat) (r d : List Byte) (flagged dest : Bool) : Option Nat :=
  if isCopy op then copyFail k op r flagged dest
  else if op = 0xB8 then mmaFail k r
  else if op = 0xBA then lowest? [failIf (k.nacc ≤ recF r 0x20 10 8) 0x21, drainFail k r]
  else if isEmb op then embFail k op r
  else firstSome [descFail k d, if op = 0xC0 then attnFail k r d else kvFail k op r d]

/-- The check of a record at issue: the subcode of ENGINE_ERROR and the offset (11 R262). -/
def recordFail (k : Kernel) (op : Nat) (r d : List Byte) (flagged dest : Bool) : Option (Nat × Nat) :=
  match spotFail k r with
  | some o => some (5, o)
  | none =>
    (firstSome [reservedFail op r,
      firstSome ((List.range 4).map fun n => roleFail (boxOf r n) n (nth .extra (rolesOf k op r) n)),
      viewFail k op r, rankFail k r, shapeFail k r, extentFail k r, passFail k r, rightFail k r,
      kindFail k op r d flagged dest]).map fun o => (1, o)

end Sys2Proof.Machine
end

