-- ==== Sys2Proof/Machine/Cards.lean ====
section
/-! DEFINITION. Job cards: footprints, the issue of a card word, queues, guards, the Mainsail array's requests, payload access and
completion writes; the words CPY, CPYF, CPYP, CPYQ, GSET, ENGWAIT, MMA, MMALEASE, MMADRAIN, MMAZERO (06 R143-R146, 11 R256-R278). -/

namespace Sys2Proof.Machine

open Sys2Proof

/-! ## Footprints -/

/-- Where an element of a box lies. -/
inductive Loc where
  | outside
  | scratch (blk off : Nat)
  | virt (va : VAddr)
  deriving DecidableEq, Repr

/-- The kernel of a card's block. -/
def cardKernel (s : State) (c : Card) : Kernel :=
  (s.kernelOf? c.blk).getD
    { obj := { va := 0, codeOff := 0, codeLen := 0, khOff := 0, nkern := 0, secver := 0, stepping := 0, signed := false },
      kidx := 0, nv := 8, wide := false, quad := false, gang := 1, nacc := 0, narg := 0, quota := 1, exact := false, views := [],
      csview := none, handler := none, idemp := false, entry := 0, priv := false }

/-- A scratchpad offset of a view's space, in the block it names (05 R95). -/
def spaceLoc (s : State) (blk : Nat) (v : View) (gang : Nat) (e : Elem) : Loc :=
  if e.outside.isSome then .outside
  else if v.space = 1 then .scratch blk e.addr.toNat
  else if v.space = 2 then
    match (s.blocks[blk]?).bind fun k => gangBlock s k.grid k.lin gang e.rank.toNat with
    | some b => .scratch b e.addr.toNat
    | none => .outside
  else .virt (BitVec.ofNat 57 e.addr.toNat)

/-- The location of element k of box n of a card. -/
def cardLoc (s : State) (c : Card) (n k : Nat) : Loc :=
  let kern := cardKernel s c
  let b := boxOf c.record n
  spaceLoc s c.blk (nth noView kern.views b.view) kern.gang (b.elem kern k)

/-- The line, or the 128-byte block of scratchpad, of a location. -/
def lineLoc (l : Loc) : Loc :=
  match l with
  | .outside => .outside
  | .scratch b o => .scratch b (o / 128 * 128)
  | .virt va => .virt (vlineOf va)

/-- One line of a card's footprint: its box, whether that writes, the lowest element on it and the line (06 R143). -/
structure FootLine where
  box : Nat
  w   : Bool
  k   : Nat
  at_ : Loc
  deriving DecidableEq, Repr

/-- The number of elements of a card's box. -/
def cardCount (s : State) (c : Card) (n : Nat) : Nat := boxCount (cardKernel s c) c.record n

/-- The lines of one box, each with its lowest element. -/
def boxLines (s : State) (c : Card) (n : Nat) : List FootLine :=
  (List.range (cardCount s c n)).foldl (fun acc k =>
    let l := lineLoc (cardLoc s c n k)
    if l == .outside || acc.any (·.at_ == l) then acc
    else acc ++ [{ box := n, w := (boxOf c.record n).w, k := k, at_ := l }]) []

/-- The lines of every valid box, in ascending box order. MMAZERO has no record. -/
def cardLines (s : State) (c : Card) : List FootLine :=
  if c.op = 0xBB then [] else (validBoxes c.record).flatMap fun x => boxLines s c x.1

/-- The home of a footprint line, without the walker's effects. -/
def footOf (s : State) (ctx : Nat) (l : Loc) : Option Foot :=
  match l with
  | .outside => none
  | .scratch b o => some (.scratch b (o / 128))
  | .virt va => match walkPast s ctx va with | .ok x _ => some (.line (lineOf (x.addr va))) | _ => none

/-- The footprint of a card: as registered once it has started, else as its boxes say. -/
def cardFoot (s : State) (c : Card) : List (Foot × Bool) :=
  if c.started then c.foot
  else (cardLines s c).filterMap fun l => (footOf s (s.ctxOf c.blk) l.at_).map fun f => (f, l.w)

/-- Two footprints overlap (06 R144). -/
def footsOverlap (a b : List (Foot × Bool)) : Bool := a.any fun x => b.any fun y => x.1 == y.1 && (x.2 || y.2)

/-! ## Queues -/

/-- Cards a queue of a core holds (11 R263). -/
def queueLen (s : State) (core eng : Nat) : Nat :=
  (s.cards.filter fun c => c.queued && !c.started && c.core == core && c.eng == eng).length

/-- The count of a flag of the issuing warp. -/
def flagCount (s : State) (r : WarpRef) (f : Nat) : Nat := ((s.warp? r).map fun w => nth 0 w.flags f).getD 0

/-- A completion-flag count changed. -/
def Warp.modFlag (wp : Warp) (k : Nat) (f : Nat → Nat) : Warp := { wp with flags := wp.flags.modify k f }

/-- There is room for a card: in its queue, and on its flag (07 R159, 11 R263). -/
def hasRoom (s : State) (c : Card) : Bool :=
  queueLen s c.core c.eng < Config.queueDepth &&
  (match c.flag with | some f => flagCount s { b := c.blk, w := c.warp } f < 255 | none => true)

/-- Fire and forget (11 R266). -/
def Card.ff (c : Card) : Bool := c.op == 0xB2 && recB c.record 0 7

/-- A request for the array joins the queue of its core, unless the block holds the array (11 R274). -/
def Core.ask (c : Core) (blk n : Nat) : Core := if c.holder = some blk then c else { c with reqs := c.reqs ++ [(blk, n)] }

/-- Mainsail cards of a block that have not completed. -/
def mainsailCards (s : State) (blk : Nat) : List Card := s.cards.filter fun c => c.queued && c.eng == 4 && c.blk == blk

/-- A block with a ticket its card word received. -/
def Block.addTicket (k : Block) (e : Nat) (t : W32) : Block :=
  { k with tickets := k.tickets.filter (fun x => !(x.eng == e && x.num == t)) ++ [{ eng := e, num := t, past := false }] }

/-- A card enters its queue: ticket, flag and array request (11 R263, R274). -/
def enqueue (s : State) (c : Card) : State :=
  let hal := c.eng < 4 && !c.ff
  let s := if hal then s.modCore c.core fun k => { k with iss := k.iss.modify c.eng (· + 1) } else s
  let t := ((s.cores[c.core]?).map fun k => nth 0 k.iss c.eng).getD 0
  let r : WarpRef := { b := c.blk, w := c.warp }
  let s := if hal && c.dest < 64 then s.modWarp r (·.setSs c.dest [{ val := t, poison := false }]) else s
  let s := if hal then s.modBlock c.blk (·.addTicket c.eng t) else s
  let s := match c.flag with | some f => s.modWarp r (·.modFlag f (· + 1)) | none => s
  let s := if c.eng = 4 && (mainsailCards s c.blk).isEmpty then s.modCore c.core (·.ask c.blk 1) else s
  { s with cards := s.cards ++ [{ c with id := s.nextCard, queued := true, ticket := if hal then some t else none }],
           nextCard := s.nextCard + 1 }

/-- A card word whose queue or flag has no room: the card waits outside the queue, its entry at the word (07 R159, 11 R263). -/
def waitRoom (s : State) (c : Card) : State := { s with cards := s.cards ++ [{ c with id := s.nextCard }], nextCard := s.nextCard + 1 }

/-- A waiting card word enqueues its card once there is room, in a block that is not halted (21 R385). -/
def resumeRoom (s : State) (r : WarpRef) (k : Nat) : State :=
  if s.still r.b then s else
  match (s.warp? r).bind (·.entries[k]?) with
  | some e =>
    match e.st with
    | .waiting (.cardRoom id) =>
      match s.cards.find? (·.id == id) with
      | some c =>
        if hasRoom s c then
          (enqueue { s with cards := s.cards.filter (·.id != id) } c).modWarp r fun w =>
            { w with entries := w.entries.modify k Entry.wakeNext }
        else s
      | none => s
    | _ => s
  | none => s

def execCardEnqueueResume (e : EntryRef) (s : State) : Out := .next (resumeRoom s { b := e.b, w := e.w } e.e)

/-- The words of the clause after the current one (07 R158: "last" refers to the clause as encoded). -/
def laterOps (c : Ctx) : List Nat := c.cur.code.map fun w => w.toNat / 2 ^ 56

/-- The flag the clause assigns to the word in hand (07 Table 7.3). -/
def flagOf (c : Ctx) : Option Nat :=
  let h := unpackHeader c.cur.hdr
  match h.sa, h.sb with
  | false, false => none
  | true, false => some h.fa.toNat
  | false, true => some h.fb.toNat
  | true, true => if (laterOps c).any flagCounted then some h.fa.toNat else some h.fb.toNat

/-! ## Issue -/

/-- The operands of a card word. -/
structure CardWord where
  op   : Nat
  eng  : Nat
  v    : BitVec 6
  b    : Reg
  gm   : Option (BitVec 4)
  dest : Nat
  deriving DecidableEq, Repr

/-- Traps of a card word stand in every lane of Active (11 R256, R262). -/
def allTrap (act : List Nat) (code sub : Nat) (aux : W32) : List LaneTrap := act.map fun i => mkTrap i code sub 0 aux

/-- Poison in an operand of an engine command (11 R256). -/
def poisonAll (c : Ctx) (act : List Nat) : List LaneTrap := act.map fun i => c.wp.poisonTrap i 4

/-- A record read whole from scratchpad: its bytes and place, or the trap it raises in every lane (11 R258). -/
inductive RecRead where
  | ok (blk off : Nat) (bytes : List Byte)
  | trap (code sub : Nat) (addr : VAddr) (aux : W32)
  deriving DecidableEq, Repr

/-- Reading n bytes, aligned to n or to `al`, that begin at an element (11 R258, 12 R282, R302). -/
def readRecord (s : State) (c : Ctx) (v : View) (cs : List Int) (al n : Nat) : RecRead :=
  let e := v.locate c.kern.gang cs
  match spaceLoc s c.r.b v c.kern.gang e with
  | .scratch blk off =>
    if off % al != 0 then .trap 7 0 0 6
    else if Config.scratchBytes < off + n then .trap 7 0 0 5
    else .ok blk off (s.scratchBytes blk off n)
  | _ => .trap 7 0 0 (BitVec.ofNat 32 (e.outside.getD 5))

/-- The gang rank of a block (02 R29). -/
def Ctx.grank (c : Ctx) : Nat := c.blk.lin % c.kern.gang

/-- The KV cache descriptor a record names, when its view can hold one (12 R282); through a gang view, the block's own. For a view of another space or
rank no rule names a trap: DESIGN CHOICE (log 93), an empty descriptor is read, and the card's own conditions refuse it. -/
def readDesc (s : State) (c : Ctx) (op : Nat) (r : List Byte) : RecRead :=
  if !isKv op then .ok 0 0 []
  else match c.kern.views[recF r 0x34 5 0]? with
    | some v => if v.scratch && v.rank == 1 then readRecord s c v [recI r 0x38, (c.grank : Int)] 64 320 else .ok 0 0 []
    | none => .ok 0 0 []

/-- ENGINE_ERROR at issue (11 R262). -/
def engineTrap (act : List Nat) (eng sub off : Nat) : List LaneTrap :=
  allTrap act 0x0E sub (BitVec.ofNat 32 (off + eng * 2 ^ 24))

/-- The card a word makes. -/
def newCard (c : Ctx) (o : CardWord) (flag : Option Nat) (blk off : Nat) (rb db : List Byte) : Card :=
  { id := 0, core := c.blk.core, eng := o.eng, op := o.op, blk := c.r.b, warp := c.r.w, pc := c.ent.pc, queued := false,
    recBlk := blk, recOff := off, record := rb, desc := db, guard := o.gm.map (·.toNat), ticket := none, flag := flag,
    dest := o.dest, tile := 0, started := false, foot := [], prog := 0, version := 0, waited := false, stat := [], scale := [],
    load := [], groups := 0, lost := [], pool := [], error := none, foreign := false, place := none, stayed := none, wrote := [] }

/-- The end of a card word that passed its checks: the region end for its footprint, then the queue (11 R263). -/
def placeCard (s : State) (c : Ctx) (_act : List Nat) (card : Card) : Body :=
  let lines := cardLines s card
  let vl := lines.filterMap fun l => match l.at_ with | .virt va => some va | _ => none
  let pl := lines.filterMap fun l => match footOf s c.grid.ctx l.at_ with | some (.line pa) => some pa | _ => none
  match endRegionLines s c.r vl pl with
  | (s, false) => .hold s .migration
  | (s, true) =>
    if hasRoom s card then .done (enqueue s card) [] []
    else .done (waitRoom s card) [] [{ mask := c.ent.mask, pc := c.ent.pc, st := .waiting (.cardRoom s.nextCard) }]

/-- A card word: it acts once, for the lowest lane of Active (11 R256-R263). A lane of Active that traps at its guard spoils the ticket's s-register, as
any scalar destination (07 R169). -/
def cardBody (o : CardWord) (g : Guard) (s : State) (c : Ctx) (act _hl : List Nat) : Body :=
  match act with
  | [] => .done s [] []
  | i :: _ =>
    let v := c.kern.view o.v
    let (cs, pois) := c.wp.coords o.b v i
    if pois then .done s (poisonAll c act) []
    else match readRecord s c v cs 256 256 with
      | .trap code sub addr aux => .done s (act.map fun i => mkTrap i code sub addr aux) []
      | .ok blk off rb =>
        match readDesc s c o.op rb with
        | .trap code sub addr aux => .done s (act.map fun i => mkTrap i code sub addr aux) []
        | .ok _ _ db =>
          let flag := flagOf c
          match recordFail c.kern o.op rb db flag.isSome (o.dest != 256) with
          | some (sub, off) => .done s (engineTrap act o.eng sub off) []
          | none => placeCard s c act (newCard c { o with dest := if o.op < 0xC0 && c.spoiled g then 256 else o.dest } flag blk off rb db)

/-- The operands of a Halyard word. -/
def cpyWord (op : Nat) (o : CpyOp) : CardWord :=
  { op := op, eng := o.eng.toNat, v := o.v, b := o.b, gm := o.gm, dest := (o.t.map (·.toNat)).getD 256 }
/-- The operands of a card word of an engine. -/
def engWord (op eng : Nat) (o : CardOp) : CardWord := { op := op, eng := eng, v := o.v, b := o.b, gm := o.gm, dest := 256 }

def execCpy (o : CpyOp) (s : State) : Out := issueWord 0xB0 (.cpy o) o.g (cardBody (cpyWord 0xB0 o) o.g) s
def execCpyf (o : CpyOp) (s : State) : Out := issueWord 0xB1 (.cpyf o) o.g (cardBody (cpyWord 0xB1 o) o.g) s
def execCpyp (o : CpyOp) (s : State) : Out := issueWord 0xB2 (.cpyp o) o.g (cardBody (cpyWord 0xB2 o) o.g) s
def execCpyq (o : CpyOp) (s : State) : Out := issueWord 0xB3 (.cpyq o) o.g (cardBody (cpyWord 0xB3 o) o.g) s
def execMma (o : CardOp) (s : State) : Out := issueWord 0xB8 (.mma o) o.g (cardBody (engWord 0xB8 4 o) o.g) s
def execMmadrain (o : CardOp) (s : State) : Out := issueWord 0xBA (.mmadrain o) o.g (cardBody (engWord 0xBA 4 o) o.g) s

/-- MMAZERO: a card without a record (11 R278). -/
def execMmazero (o : MmazeroOp) (s : State) : Out :=
  issueWord 0xBB (.mmazero o) o.g (fun s c act _ =>
    let w : CardWord := { op := 0xBB, eng := 4, v := 0, b := { s := false, n := 0 }, gm := o.gm, dest := 256 }
    placeCard s c act { newCard c w (flagOf c) 0 0 (List.replicate 256 0) [] with tile := o.acc.toNat }) s

/-! ## GSET, ENGWAIT, MMALEASE -/

/-- A guard slot of a block. -/
def Block.slot (k : Block) (n : Nat) : GuardState := nth .unset k.guards n
def Block.setSlot (k : Block) (n : Nat) (x : GuardState) : Block := { k with guards := k.guards.set n x }

/-- GSET (11 R268). -/
def execGset (o : GsetOp) (s : State) : Out :=
  issueWord 0xB4 (.gset o) o.g (fun s c act _ =>
    let b := c.wp.src o.b (act.headD 0)
    if b.poison then .done s (poisonAll c act) []
    else if c.blk.slot o.slot.toNat != .unset then .done s (allTrap act 0x14 0 (o.slot.setWidth 32)) []
    else .done (s.modBlock c.r.b fun k => k.setSlot o.slot.toNat (if b.val = 0 then .isFalse else .isTrue)) [] []) s

/-- A block obtained a ticket before it was moved, and has not obtained it again since. -/
def Block.past (k : Block) (e : Nat) (b : W32) : Bool := k.tickets.any fun t => t.eng == e && t.num == b && t.past

/-- A ticket is done on an engine: (SEQ - b) mod 2^32 < 2^31 (11 R269). For a ticket obtained before a move, the block waits for its own cards of
that time (11 R265, log 20). -/
def ticketDone (s : State) (blk e : Nat) (b : W32) : Bool :=
  match s.blocks[blk]? with
  | none => true
  | some k =>
    if k.past e b then
      !s.cards.any fun c => c.queued && c.foreign && c.blk == blk && c.eng == e &&
        (match c.ticket with | some t => !(b - t).getLsbD 31 | none => false)
    else
      let seq := ((s.cores[k.core]?).map fun x => nth 0 x.seq e).getD 0
      !(seq - b).getLsbD 31

/-- ENGWAIT (11 R269). -/
def execEngwait (o : EngwaitOp) (s : State) : Out :=
  issueWord 0xB5 (.engwait o) o.g (fun s c act _ =>
    let b := c.wp.src o.b (act.headD 0)
    if b.poison then .done s (poisonAll c act) []
    else if ticketDone s c.r.b o.e.toNat b.val then afterRegion s c fun s => .done s [] []
    else .done s [] [{ mask := maskOf act, pc := c.ent.pc, st := .waiting (.engwait o.e.toNat b.val) }]) s

/-- A request of a block other than `blk` waits for the array. -/
def Core.contested (c : Core) (blk : Nat) : Bool := c.reqs.any fun x => x.1 != blk

/-- MMALEASE (11 R274). -/
def execMmalease (o : MmaleaseOp) (s : State) : Out :=
  issueWord 0xB9 (.mmalease o) o.g (fun s c act _ =>
    let holds := ((s.cores[c.blk.core]?).map fun k => k.holder == some c.r.b).getD false
    let n := o.n.toNat
    if holds then
      .done (s.modCore c.blk.core fun k => { k with lease := if k.contested c.r.b then min n k.lease else n }) [] []
    else if n = 0 then .done s [] []
    else .done (s.modCore c.blk.core (·.ask c.r.b n)) []
      [{ mask := maskOf act, pc := c.ent.pc, st := .waiting .mmaLease }]) s

/-- The empty tile stands for zeros. -/
def latchTile (l : Latch) : Latch := if l.tile.isEmpty then { l with tile := List.replicate (16384 * etypeSize l.fmt) 0 } else l

/-- Bytes in a FIFO. -/
def fifoLen (l : List Beat) : Nat := l.foldl (fun n b => n + b.bytes.length) 0

/-- The bytes of a part whose inner layout the manual does not give (log 23). -/
def freeBytes (n a len : Nat) : List Byte := (List.range len).map fun k => Config.saveByte n (a + k)

/-- Bytes brought to a length with free bytes. -/
def padFree (n a len : Nat) (bs : List Byte) : List Byte := bs ++ freeBytes n (a + bs.length) (len - bs.length)

/-- The Mainsail part of a save record (21 Table 21.10): weights, FIFO bytes, then format, sw and the FIFO byte counts, in words in this order
(log 23). -/
def Block.mainsailBytes (k : Block) (n a : Nat) : List Byte :=
  padFree n a 32768 (latchTile k.latch).tile ++ padFree n (a + 32768) 65536 ((k.aFifo ++ k.wFifo).flatMap (·.bytes)) ++
  padFree n (a + 98304) 256 (natLE 4 k.latch.fmt.toNat ++ natLE 4 k.latch.sw.toNat ++ natLE 4 (fifoLen k.aFifo) ++ natLE 4 (fifoLen k.wFifo))

/-- The Mainsail part of a resident block's record: behind the header, the barriers and a guard part without cards (log 23). -/
def mainsailAt : Nat := 768

/-- The state a block leaves in the array, written to its save area (11 R274). A block of the system context has no record (log 23). -/
def saveMainsail (s : State) (b : Nat) : State :=
  match s.blocks[b]? with
  | some k =>
    if s.ctxOf b = sysCtx then s
    else { s.putBytes (k.savedAt + mainsailAt) (k.mainsailBytes s.saves mainsailAt) with saves := s.saves + 1 }
  | none => s

/-! ## Payload access -/

/-- What a payload leaves: a value and the state, the error that stops the card, or a hold (migration, or operands not yet there). -/
inductive Pay (α : Type) where
  | ok (x : α) (s : State)
  | stop (t : LaneTrap) (s : State)
  | held
  deriving DecidableEq, Repr

/-- A payload after another. -/
def Pay.andThen {α β : Type} (x : Pay α) (f : α → State → Pay β) : Pay β :=
  match x with
  | .ok a s => f a s
  | .stop t s => .stop t s
  | .held => .held

/-- A payload over a list, in order. -/
def Pay.each {α : Type} (f : State → α → Pay Unit) : List α → State → Pay Unit
  | [], s => .ok () s
  | a :: l, s => (f s a).andThen fun _ s => Pay.each f l s

/-- Results of a payload over a list, in order. -/
def Pay.collect {α β : Type} (f : State → α → Pay β) : List α → State → Pay (List β)
  | [], s => .ok [] s
  | a :: l, s => (f s a).andThen fun x s => (Pay.collect f l s).andThen fun xs s => .ok (x :: xs) s

/-- ENGINE_ERROR during a payload (11 Table 11.5). Sorrel has no SUB 4: a home that it cannot reach is a failed access (12 Table 12.9, log 85). -/
def payError (c : Card) (sub : Nat) (va : VAddr) (n k : Nat) : LaneTrap :=
  mkTrap 0 0x0E (if c.eng = 6 && sub = 4 then 2 else sub) va (BitVec.ofNat 32 (k % 2 ^ 16 + n * 2 ^ 16 + c.eng * 2 ^ 24))

/-- Box and element of an access that lies in no box: a free value (log 85). -/
def noBox (va : VAddr) : Nat := Config.noBox va.toNat % 2 ^ 18

/-- ENGINE_ERROR SUB 1 found at the card's start: the record offset. -/
def startError (c : Card) (off : Nat) : LaneTrap := mkTrap 0 0x0E 1 0 (BitVec.ofNat 32 (off + c.eng * 2 ^ 24))

/-- A payload address translated at the time of the access (19 R350-R352). -/
def payHome (s : State) (c : Card) (n k : Nat) (va : VAddr) (acc : Access) : Pay PAddr :=
  let ctx := s.ctxOf c.blk
  match translate s { core := c.core, lane := none } ctx va acc with
  | (.migrating, _) => .held
  | (.fail, s) => .stop (payError c 2 va n k) s
  | (.ok pa, s) => if s.unreachable ctx pa then .stop (payError c 4 va n k) s else .ok pa s

/-- Reading n bytes at a virtual address on behalf of element k of box `bx`. -/
def readVirt (s : State) (c : Card) (bx k : Nat) (va : VAddr) (n : Nat) : Pay (List Byte) :=
  (payHome s c bx k va .read).andThen fun pa s =>
    if s.badRange pa n then .stop (payError c 6 va bx k) s else .ok (s.bytes pa n) s

/-- The bytes of the sector at b that a write of n bytes at pa covers. -/
def sectorPart (b pa n : Nat) : BitVec 32 :=
  BitVec.ofNat 32 (boolsNat ((List.range 32).map fun j => pa ≤ b + j && b + j < pa + n))

/-- The bytes of the sector at b that card `id` has written. -/
def State.wroteOf (s : State) (id b : Nat) : BitVec 32 := ((s.cards.find? (·.id == id)).map fun c => assocGet 0 c.wrote b).getD 0

/-- A card's write to a marked sector noted; once the card's writes cover the sector whole, the mark is gone (21 R395). -/
def noteCover (c : Card) (pa n : Nat) (s : State) (b : Nat) : State :=
  let m := s.wroteOf c.id b ||| sectorPart b pa n
  let s := { s with cards := s.cards.map fun x => if x.id == c.id then { x with wrote := assocSet x.wrote b m } else x }
  if m = BitVec.allOnes 32 then { s with bad := s.bad.filter (· != b) } else s

/-- Bytes a card writes at a physical address: element by element its writes may cover a marked sector whole (21 R395). -/
def cardPut (s : State) (c : Card) (pa : Nat) (bs : List Byte) : State :=
  (s.bad.filter fun b => pa < b + 32 && b < pa + bs.length).foldl (noteCover c pa bs.length) (s.putBytes pa bs)

/-- Writing bytes at a virtual address. -/
def writeVirt (s : State) (c : Card) (bx k : Nat) (va : VAddr) (bs : List Byte) : Pay Unit :=
  (payHome s c bx k va .write).andThen fun pa s => .ok () (cardPut s c pa bs)

/-- The element size of a box. -/
def cardSize (s : State) (c : Card) (n : Nat) : Nat := (boxView (cardKernel s c) c.record n).size

/-- Element k of box n read; outside its view it reads as zero (11 R270). -/
def cardRead (s : State) (c : Card) (n k : Nat) : Pay (List Byte) :=
  let sz := cardSize s c n
  match cardLoc s c n k with
  | .outside => .ok (List.replicate sz 0) s
  | .scratch b o => .ok (s.scratchBytes b o sz) s
  | .virt va => readVirt s c n k va sz

/-- Element k of box n written. -/
def cardWrite (s : State) (c : Card) (n k : Nat) (bs : List Byte) : Pay Unit :=
  match cardLoc s c n k with
  | .outside => .ok () s
  | .scratch b o => .ok () (s.putScratch b o bs)
  | .virt va => writeVirt s c n k va bs

/-- Every element of a box read, as numbers. -/
def readBox (s : State) (c : Card) (n : Nat) : Pay (List Nat) :=
  Pay.collect (fun s k => (cardRead s c n k).andThen fun bs s => .ok (leNat bs) s) (List.range (cardCount s c n)) s

/-- Numbers written to a box, element by element. -/
def writeBox (s : State) (c : Card) (n : Nat) (xs : List Nat) : Pay Unit :=
  let sz := cardSize s c n
  Pay.each (fun s (x, k) => cardWrite s c n k (natLE sz x)) xs.zipIdx s

/-! ## Completion -/

/-- A card removed. -/
def dropCard (s : State) (id : Nat) : State := { s with cards := s.cards.filter (·.id != id) }

/-- SEQ of an engine: the ticket before the earliest outstanding one, else ISS (11 R265). -/
def seqOf (s : State) (core e : Nat) : W32 :=
  match (s.cards.filter fun c => c.queued && !c.foreign && c.core == core && c.eng == e).findSome? (·.ticket) with
  | some t => t - 1
  | none => ((s.cores[core]?).map fun k => nth 0 k.iss e).getD 0

/-- SEQ brought up to date. -/
def updateSeq (s : State) (core e : Nat) : State :=
  if e < 4 then s.modCore core fun k => { k with seq := k.seq.set e (seqOf s core e) } else s

/-- Where a completion word or a barrier of a card lies. -/
def spotAt (s : State) (c : Card) (x : Spot) : Option (Nat × Nat) :=
  let kern := cardKernel s c
  match spaceLoc s c.blk (nth noView kern.views x.view) kern.gang (x.elem kern) with
  | .scratch b o => some (b, o)
  | _ => none

/-- Bytes delivered to the card's byte barrier (05 R120). -/
def deliverBytes (s : State) (c : Card) (n : Nat) : State :=
  if n = 0 || !recB c.record 0 1 then s
  else match spotAt s c (bbSpot c.record) with
    | some (b, o) => s.putBarb b o ((s.barb b o).deliver n)
    | none => s

/-- STATUS written into the record when SWV is set. -/
def writeStatus (s : State) (c : Card) (x : Nat) : State :=
  if recB c.record 0 2 then s.putScratch c.recBlk (c.recOff + 0x14) (natLE 4 x) else s

/-- The completion word written when CWV is set. -/
def writeWord (s : State) (c : Card) : State :=
  if recB c.record 0 0 then
    match spotAt s c (cwSpot c.record) with
    | some (b, o) => s.putScratch b o (natLE 4 (recW c.record 4))
    | none => s
  else s

/-- Waits of a warp that a completion may end: WAITF, ENGWAIT (10 R248, 11 R269). The ends are region ends. A halted block's entries keep their
states (21 R385). -/
def testEngine (s : State) (r : WarpRef) (k : Nat) : State :=
  if s.still r.b then s else
  match (s.warp? r).bind (·.entries[k]?), s.warp? r with
  | some e, some w =>
    match e.st with
    | .waiting (.waitf m) => if flagsClear w m then s.wakeRegion r k id else s
    | .waiting (.engwait x t) => if ticketDone s r.b x t then s.wakeRegion r k id else s
    | .waiting (.cardRoom _) => resumeRoom s r k
    | .waiting .mmaLease =>
      if ((s.cores[s.coreOf r.b]?).map fun c => c.holder == some r.b).getD false then
        s.modWarp r fun w => { w with entries := w.entries.modify k Entry.wakeNext }
      else s
    | _ => s
  | _, _ => s

/-- Every wait on engines tested. -/
def wakeEngine (s : State) : State :=
  s.refs.foldl (fun s r =>
    match s.warp? r with
    | some w => (List.range w.entries.length).foldl (fun s k => testEngine s r k) s
    | none => s) s

/-- The guard slot of a card that has started or been discarded returns to Unset when no queued card names it (11 R268). -/
def releaseSlot (s : State) (c : Card) : State :=
  match c.guard with
  | none => s
  | some g =>
    if s.cards.any fun x => x.id != c.id && x.queued && !x.started && x.blk == c.blk && x.guard == some g then s
    else s.modBlock c.blk fun k => k.setSlot g .unset

/-- The completion writes of a card, in the order of 11 R266; `due` is what is still to be delivered to its barrier. A fire-and-forget
card makes none. -/
def completeCard (s : State) (c : Card) (status due : Nat) : State :=
  let s := if c.ff then s else writeWord (writeStatus (deliverBytes s c due) c status) c
  let s := updateSeq (dropCard s c.id) c.core c.eng
  let s := match c.flag with | some f => s.modWarp { b := c.blk, w := c.warp } (·.modFlag f (· - 1)) | none => s
  (wakeEngine s).settleBlock c.blk

/-- An error found after the card started: STATUS 3, the completion writes, and ENGINE_ERROR for the issuing warp (11 R267). -/
def failCard (s : State) (c : Card) (due : Nat) (t : LaneTrap) : State :=
  let r : WarpRef := { b := c.blk, w := c.warp }
  completeCard (s.modWarp r fun w => { w with errs := w.errs ++ [{ trap := t, pc := some c.pc }] }) c 3 due

/-- A discarded card (11 R266, R268). A request of it for the array stays in its queue (log 83). -/
def discardCard (s : State) (c : Card) : State := completeCard (releaseSlot s c) c 2 0

end Sys2Proof.Machine
end

