-- ==== Sys2Proof/Machine/Int.lean ====
section
/-! DEFINITION. The integer and bit words, opcodes 0x00-0x27 and 0x2C-0x2E (08 R179-R183). -/

namespace Sys2Proof.Machine

open Sys2Proof

/-- A value of an integer type of n bits, signed or unsigned (04 Table 4.1). -/
def intMin (u : Bool) (n : Nat) : Int := if u then 0 else -(2 ^ (n - 1) : Int)
def intMax (u : Bool) (n : Nat) : Int := if u then 2 ^ n - 1 else 2 ^ (n - 1) - 1
/-- Narrowing of an exact value: Sat to the type, else modulo 2^n (08 R180). -/
def narrow (u sat : Bool) (n : Nat) (x : Int) : BitVec n :=
  BitVec.ofInt n (if sat then max (intMin u n) (min (intMax u n) x) else x)
/-- A pattern read as the signed or unsigned type. -/
def readInt {n : Nat} (u : Bool) (x : BitVec n) : Int := if u then (x.toNat : Int) else x.toInt

/-- A two-source 32-bit word. -/
def ibinWord (op : Nat) (i : Instr) (o : IBin) (h : W32 → W32 → W32) (s : State) : Out :=
  computeWord op i o.g false (some o.d) (fun c l =>
    res32 (h (c.wp.reg o.a l).val (c.wp.src o.b l).val) ((c.wp.reg o.a l).poison || (c.wp.src o.b l).poison)) s

/-- A two-source 64-bit word. -/
def ibinWord64 (op : Nat) (i : Instr) (o : IBin) (h : W64 → W64 → W64) (s : State) : Out :=
  computeWord op i o.g false (some o.d) (fun c l =>
    res64 (h (c.wp.pair o.a l).val (c.wp.src64 o.b l).val) ((c.wp.pair o.a l).poison || (c.wp.src64 o.b l).poison)) s

/-- A one-source 32-bit word. -/
def iunWord (op : Nat) (i : Instr) (o : IUn) (h : W32 → W32) (s : State) : Out :=
  computeWord op i o.g false (some o.d) (fun c l => res32 (h (c.wp.reg o.a l).val) (c.wp.reg o.a l).poison) s

/-- A three-source 32-bit word. -/
def iterWord (op : Nat) (i : Instr) (o : ITer) (h : W32 → W32 → W32 → W32) (s : State) : Out :=
  computeWord op i o.g false (some o.d) (fun c l =>
    res32 (h (c.wp.reg o.a l).val (c.wp.reg o.b l).val (c.wp.reg o.c l).val)
      ((c.wp.reg o.a l).poison || (c.wp.reg o.b l).poison || (c.wp.reg o.c l).poison)) s

/-- Byte k and half k of a word (04 R75). -/
def byteOf (x : W32) (k : Nat) : BitVec 8 := x.extractLsb' (8 * k) 8
def halfOf (x : W32) (k : Nat) : BitVec 16 := x.extractLsb' (16 * k) 16

/-- Exact values and results of 08 Table 8.2 and R180. -/
def aluIadd (u sat : Bool) (a b : W32) : W32 := narrow u sat 32 (readInt u a + readInt u b)
def aluIsub (u sat : Bool) (a b : W32) : W32 := narrow u sat 32 (readInt u a - readInt u b)
def aluImul (a b : W32) : W32 := a * b
def aluImulh (a b : W32) : W32 := BitVec.ofInt 32 ((a.toInt * b.toInt).ediv (2 ^ 32))
def aluImulhn (a b : W32) : W32 := BitVec.ofNat 32 (a.toNat * b.toNat / 2 ^ 32)
def aluImad (u sat : Bool) (a b c : W32) : W32 := narrow u sat 32 (readInt u a * readInt u b + readInt u c)
def aluIadd3 (u sat : Bool) (a b c : W32) : W32 := narrow u sat 32 (readInt u a + readInt u b + readInt u c)
def aluMin (u : Bool) (a b : W32) : W32 := if readInt u a ≤ readInt u b then a else b
def aluMax (u : Bool) (a b : W32) : W32 := if readInt u a ≤ readInt u b then b else a
def aluIabs (sat : Bool) (a : W32) : W32 := narrow false sat 32 (a.toInt.natAbs : Int)
def aluIneg (sat : Bool) (a : W32) : W32 := narrow false sat 32 (-a.toInt)
def aluIsad (u sat : Bool) (a b c : W32) : W32 :=
  narrow u sat 32 (((readInt u a - readInt u b).natAbs : Int) + readInt u c)
def aluIdot4 (ua ub sat : Bool) (a b c : W32) : W32 :=
  let u := ua && ub
  narrow u sat 32 (readInt u c + ((List.range 4).map fun k => readInt ua (byteOf a k) * readInt ub (byteOf b k)).sum)
def aluIdot2 (ua ub sat : Bool) (a b c : W32) : W32 :=
  let u := ua && ub
  narrow u sat 32 (readInt u c + ((List.range 2).map fun k => readInt ua (halfOf a k) * readInt ub (halfOf b k)).sum)
def aluIadd64 (u sat : Bool) (a b : W64) : W64 := narrow u sat 64 (readInt u a + readInt u b)
def aluIsub64 (u sat : Bool) (a b : W64) : W64 := narrow u sat 64 (readInt u a - readInt u b)

/-- Truncated division and its remainder (08 R182). -/
def aluIdiv (a b : W32) : W32 := if b = 0 then 0xFFFFFFFF else BitVec.ofInt 32 (a.toInt.tdiv b.toInt)
def aluIrem (a b : W32) : W32 := if b = 0 then a else BitVec.ofInt 32 (a.toInt.tmod b.toInt)
def aluNdiv (a b : W32) : W32 := if b = 0 then 0xFFFFFFFF else BitVec.ofNat 32 (a.toNat / b.toNat)
def aluNrem (a b : W32) : W32 := if b = 0 then a else BitVec.ofNat 32 (a.toNat % b.toNat)

/-- Bit instructions (08 Table 8.4). -/
def lutBit (lut : BitVec 8) (a b c : Bool) : Bool := lut.getLsbD ((if a then 1 else 0) + (if b then 2 else 0) + (if c then 4 else 0))
/-- A word from its bits. -/
def wordOfBits (f : Nat → Bool) : W32 := BitVec.ofNat 32 (boolsNat ((List.range 32).map f))
def aluLop3 (lut : BitVec 8) (a b c : W32) : W32 := wordOfBits fun j => lutBit lut (a.getLsbD j) (b.getLsbD j) (c.getLsbD j)
def aluShl (a b : W32) : W32 := if 32 ≤ b.toNat then 0 else a <<< b.toNat
def aluShr (a b : W32) : W32 := if 32 ≤ b.toNat then 0 else a >>> b.toNat
def aluSar (a b : W32) : W32 := a.sshiftRight (min b.toNat 32)
def aluRotl (a b : W32) : W32 := a.rotateLeft (b.toNat % 32)
def aluFunnel (l : Bool) (a b c : W32) : W32 :=
  let s := c.toNat % 32
  let y : W64 := b ++ a
  if l then (y <<< s).extractLsb' 32 32 else (y >>> s).extractLsb' 0 32
def aluPopc (a : W32) : W32 := BitVec.ofNat 32 ((List.range 32).filter fun j => a.getLsbD j).length
def aluClz (a : W32) : W32 := BitVec.ofNat 32 (((List.range 32).find? fun j => a.getLsbD (31 - j)).getD 32)
def aluCtz (a : W32) : W32 := BitVec.ofNat 32 (((List.range 32).find? fun j => a.getLsbD j).getD 32)
def aluBrev (a : W32) : W32 := wordOfBits fun j => a.getLsbD (31 - j)
def aluBfx (u : Bool) (a b c : W32) : W32 :=
  let pos := min b.toNat 32
  let len := min c.toNat 32
  let f : Int := ((readInt u a).fdiv (2 ^ pos)).emod (2 ^ len)
  BitVec.ofInt 32 (if !u && 0 < len && 2 ^ (len - 1) ≤ f then f - 2 ^ len else f)
def aluBfi (a b c : W32) : W32 :=
  let pos := min (c.toNat % 256) 32
  let len := min (c.toNat / 256 % 256) 32
  let mask : W32 := BitVec.ofNat 32 ((2 ^ len - 1) * 2 ^ pos)
  (b &&& ~~~ mask) ||| (BitVec.ofNat 32 (a.toNat * 2 ^ pos) &&& mask)
/-- Byte k of PRMT. -/
def prmtByte (y : W64) (nib : BitVec 4) : BitVec 8 :=
  let b := y.extractLsb' (8 * (nib.toNat % 8)) 8
  if nib.getLsbD 3 then (if b.getLsbD 7 then 0xFF else 0) else b
def aluPrmt (a b c : W32) : W32 :=
  let y : W64 := b ++ a
  prmtByte y (c.extractLsb' 12 4) ++ prmtByte y (c.extractLsb' 8 4) ++ prmtByte y (c.extractLsb' 4 4) ++ prmtByte y (c.extractLsb' 0 4)

/-- NOP changes nothing (08 Table 8.1). -/
def execNop (o : BareOp) (s : State) : Out := issueWord 0x00 (.nop o) o.g (fun s _ _ _ => .done s [] []) s
def execIadd (o : IBin) (s : State) : Out := ibinWord 0x01 (.iadd o) o (aluIadd o.u o.sat) s
def execIsub (o : IBin) (s : State) : Out := ibinWord 0x02 (.isub o) o (aluIsub o.u o.sat) s
def execImul (o : IBin) (s : State) : Out := ibinWord 0x03 (.imul o) o aluImul s
def execImulh (o : IBin) (s : State) : Out := ibinWord 0x04 (.imulh o) o aluImulh s
def execImulhn (o : IBin) (s : State) : Out := ibinWord 0x05 (.imulhn o) o aluImulhn s
def execImad (o : ITer) (s : State) : Out := iterWord 0x06 (.imad o) o (aluImad o.u o.sat) s
def execIadd3 (o : ITer) (s : State) : Out := iterWord 0x07 (.iadd3 o) o (aluIadd3 o.u o.sat) s
def execImin (o : IBin) (s : State) : Out := ibinWord 0x08 (.imin o) o (aluMin false) s
def execImax (o : IBin) (s : State) : Out := ibinWord 0x09 (.imax o) o (aluMax false) s
def execNmin (o : IBin) (s : State) : Out := ibinWord 0x0A (.nmin o) o (aluMin true) s
def execNmax (o : IBin) (s : State) : Out := ibinWord 0x0B (.nmax o) o (aluMax true) s
def execIabs (o : IUn) (s : State) : Out := iunWord 0x0C (.iabs o) o (aluIabs o.sat) s
def execIneg (o : IUn) (s : State) : Out := iunWord 0x0D (.ineg o) o (aluIneg o.sat) s

/-- IADDC: a + b + pin, the carry into pout; a poisoned source or pin poisons both (08 R181). -/
def execIaddc (o : Carry) (s : State) : Out :=
  computeWord 0x0E (.iaddc o) o.g false (some o.d) (fun c l =>
    let a := c.wp.reg o.a l
    let b := c.wp.reg o.b l
    let p := (c.wp.lane l).pred o.pin
    let x := a.val.toNat + b.val.toNat + (if p.val then 1 else 0)
    let q := a.poison || b.poison || p.poison
    { res32 (BitVec.ofNat 32 x) q with preds := [(o.pout, { val := 2 ^ 32 ≤ x, poison := q })] }) s

/-- ISUBB: a - b - (1 - pin), pout true when no borrow occurs (08 R181). -/
def execIsubb (o : Carry) (s : State) : Out :=
  computeWord 0x0F (.isubb o) o.g false (some o.d) (fun c l =>
    let a := c.wp.reg o.a l
    let b := c.wp.reg o.b l
    let p := (c.wp.lane l).pred o.pin
    let x : Int := (a.val.toNat : Int) - b.val.toNat - (if p.val then 0 else 1)
    let q := a.poison || b.poison || p.poison
    { res32 (BitVec.ofInt 32 x) q with preds := [(o.pout, { val := 0 ≤ x, poison := q })] }) s

def execAndw (o : IBin) (s : State) : Out := ibinWord 0x10 (.andw o) o (· &&& ·) s
def execOrw (o : IBin) (s : State) : Out := ibinWord 0x11 (.orw o) o (· ||| ·) s
def execXorw (o : IBin) (s : State) : Out := ibinWord 0x12 (.xorw o) o (· ^^^ ·) s
def execNotw (o : IUn) (s : State) : Out := iunWord 0x13 (.notw o) o (~~~ ·) s
def execLop3 (o : Lop3Op) (s : State) : Out :=
  computeWord 0x14 (.lop3 o) o.g false (some o.d) (fun c l =>
    let a := c.wp.reg o.a l
    let b := c.wp.reg o.b l
    let x := c.wp.reg o.c l
    res32 (aluLop3 o.lut a.val b.val x.val) (a.poison || b.poison || x.poison)) s
def execShl (o : IBin) (s : State) : Out := ibinWord 0x15 (.shl o) o aluShl s
def execShr (o : IBin) (s : State) : Out := ibinWord 0x16 (.shr o) o aluShr s
def execSar (o : IBin) (s : State) : Out := ibinWord 0x17 (.sar o) o aluSar s
def execRotl (o : IBin) (s : State) : Out := ibinWord 0x18 (.rotl o) o aluRotl s
def execFunnel (o : ITer) (s : State) : Out := iterWord 0x19 (.funnel o) o (aluFunnel o.u) s
def execPopc (o : IUn) (s : State) : Out := iunWord 0x1A (.popc o) o aluPopc s
def execClz (o : IUn) (s : State) : Out := iunWord 0x1B (.clz o) o aluClz s
def execCtz (o : IUn) (s : State) : Out := iunWord 0x1C (.ctz o) o aluCtz s
def execBrev (o : IUn) (s : State) : Out := iunWord 0x1D (.brev o) o aluBrev s
def execBfx (o : ITer) (s : State) : Out := iterWord 0x1E (.bfx o) o (aluBfx o.u) s
def execBfi (o : ITer) (s : State) : Out := iterWord 0x1F (.bfi o) o aluBfi s
def execIdiv (o : IBin) (s : State) : Out := ibinWord 0x20 (.idiv o) o aluIdiv s
def execNdiv (o : IBin) (s : State) : Out := ibinWord 0x21 (.ndiv o) o aluNdiv s
def execIrem (o : IBin) (s : State) : Out := ibinWord 0x22 (.irem o) o aluIrem s
def execNrem (o : IBin) (s : State) : Out := ibinWord 0x23 (.nrem o) o aluNrem s
def execIsad (o : ITer) (s : State) : Out := iterWord 0x24 (.isad o) o (aluIsad o.u o.sat) s
def execIdot4 (o : ITer) (s : State) : Out := iterWord 0x25 (.idot4 o) o (aluIdot4 o.u o.u1 o.sat) s
def execIdot2 (o : ITer) (s : State) : Out := iterWord 0x26 (.idot2 o) o (aluIdot2 o.u o.u1 o.sat) s
def execPrmt (o : ITer) (s : State) : Out := iterWord 0x27 (.prmt o) o aluPrmt s
def execIadd64 (o : IBin) (s : State) : Out := ibinWord64 0x2C (.iadd64 o) o (aluIadd64 o.u o.sat) s
def execIsub64 (o : IBin) (s : State) : Out := ibinWord64 0x2D (.isub64 o) o (aluIsub64 o.u o.sat) s
def execImul64 (o : IBin) (s : State) : Out := ibinWord64 0x2E (.imul64 o) o (· * ·) s

end Sys2Proof.Machine
end

