-- ==== Sys2Proof/Machine/Fp.lean ====
section
/-! DEFINITION. The FP32 words, opcodes 0x30-0x46 (08 R185-R189). -/

namespace Sys2Proof.Machine

open Sys2Proof

/-- A two-source FP32 word. -/
def fbinWord (op : Nat) (i : Instr) (o : FBin) (h : W32 → W32 → FRes) (s : State) : Out :=
  computeWord op i o.g o.nf (some o.d) (fun c l =>
    resF (h (c.wp.reg o.a l).val (c.wp.src o.b l).val) ((c.wp.reg o.a l).poison || (c.wp.src o.b l).poison)) s

/-- A one-source FP32 word. -/
def funWord (op : Nat) (i : Instr) (o : FUn) (h : W32 → FRes) (s : State) : Out :=
  computeWord op i o.g o.nf (some o.d) (fun c l => resF (h (c.wp.reg o.a l).val) (c.wp.reg o.a l).poison) s

/-- The value of an FP32 register. -/
def f32 (x : W32) : FVal := fval .f32 x.toNat
/-- A bit-pattern result, which raises nothing (04 R73). -/
def bitRes (x : W32) : FRes := { bits := x.toNat, fl := 0 }

def execFadd (o : FBin) (s : State) : Out := fbinWord 0x30 (.fadd o) o (fun a b => faddV .f32 o.rm o.sat (f32 a) (f32 b)) s
def execFsub (o : FBin) (s : State) : Out := fbinWord 0x31 (.fsub o) o (fun a b => faddV .f32 o.rm o.sat (f32 a) (f32 b).flip) s
def execFmul (o : FBin) (s : State) : Out := fbinWord 0x32 (.fmul o) o (fun a b => fmulV .f32 o.rm o.sat (f32 a) (f32 b)) s
def execFfma (o : FTer) (s : State) : Out :=
  computeWord 0x33 (.ffma o) o.g o.nf (some o.d) (fun c l =>
    let a := c.wp.reg o.a l
    let b := c.wp.reg o.b l
    let x := c.wp.reg o.c l
    resF (ffmaV .f32 o.rm o.sat (f32 a.val) (f32 b.val) (f32 x.val)) (a.poison || b.poison || x.poison)) s
def execFmin (o : FBin) (s : State) : Out := fbinWord 0x34 (.fmin o) o (fun a b => fminmax .f32 false a.toNat b.toNat) s
def execFmax (o : FBin) (s : State) : Out := fbinWord 0x35 (.fmax o) o (fun a b => fminmax .f32 true a.toNat b.toNat) s
def execFabs (o : FUn) (s : State) : Out := funWord 0x36 (.fabs o) o (fun a => bitRes (a &&& 0x7FFFFFFF)) s
def execFneg (o : FUn) (s : State) : Out := funWord 0x37 (.fneg o) o (fun a => bitRes (a ^^^ 0x80000000)) s
def execFdiv (o : FBin) (s : State) : Out := fbinWord 0x38 (.fdiv o) o (fun a b => fdivV .f32 o.rm o.sat (f32 a) (f32 b)) s
def execFsqrt (o : FUn) (s : State) : Out := funWord 0x39 (.fsqrt o) o (fun a => fsqrtV .f32 o.rm (f32 a)) s
def execFrcp (o : FUn) (s : State) : Out := funWord 0x3A (.frcp o) o frcpV s
def execFrsq (o : FUn) (s : State) : Out := funWord 0x3B (.frsq o) o frsqV s
def execFexp2 (o : FUn) (s : State) : Out := funWord 0x3C (.fexp2 o) o fexp2V s
def execFlog2 (o : FUn) (s : State) : Out := funWord 0x3D (.flog2 o) o flog2V s
def execFsin (o : FUn) (s : State) : Out := funWord 0x3E (.fsin o) o fsinV s
def execFcos (o : FUn) (s : State) : Out := funWord 0x3F (.fcos o) o fcosV s
def execFtanh (o : FUn) (s : State) : Out := funWord 0x40 (.ftanh o) o ftanhV s
/-- FCLASS sets one bit and raises no flag (08 R188). -/
def execFclass (o : FUn) (s : State) : Out := funWord 0x41 (.fclass o) o (fun a => { bits := 2 ^ fclassBit a.toNat, fl := 0 }) s
def execFcopysign (o : FBin) (s : State) : Out :=
  fbinWord 0x42 (.fcopysign o) o (fun a b => bitRes ((a &&& 0x7FFFFFFF) ||| (b &&& 0x80000000))) s
def execFfract (o : FUn) (s : State) : Out := funWord 0x43 (.ffract o) o (fun a => ffractV (f32 a)) s
def execFround (o : FUn) (s : State) : Out := funWord 0x44 (.fround o) o (fun a => froundV o.rm o.x (f32 a)) s
/-- FSCALE: b is INT32, IMM32 included (08 R187). -/
def execFscale (o : FBin) (s : State) : Out := fbinWord 0x45 (.fscale o) o (fun a b => fscaleV o.rm o.sat (f32 a) b.toInt) s
def execFgetexp (o : FUn) (s : State) : Out := funWord 0x46 (.fgetexp o) o (fun a => fgetexpV (f32 a)) s

end Sys2Proof.Machine
end

