-- ==== Sys2Proof/Machine/Packed.lean ====
section
/-! DEFINITION. The packed 16-bit and FP8 dot words, opcodes 0x48-0x4E (08 R190, R191). -/

namespace Sys2Proof.Machine

open Sys2Proof

/-- The element type of a packed word: .f16 or .bf16. -/
def fmt16 (bf : Bool) : Fmt := if bf then .bf16 else .f16

/-- Two 16-bit element results in one word, their flags ORed (04 R75). -/
def pack2 (f : Nat → FRes) : FRes := { bits := (f 0).bits + 65536 * (f 1).bits, fl := (f 0).fl ||| (f 1).fl }

/-- Element k of a packed word. -/
def elem16 (x : W32) (k : Nat) : Nat := (halfOf x k).toNat
def elem8 (x : W32) (k : Nat) : Nat := (byteOf x k).toNat

def execHadd2 (o : FBin) (s : State) : Out :=
  fbinWord 0x48 (.hadd2 o) o (fun a b => pack2 fun k =>
    faddV (fmt16 o.bf) o.rm o.sat (fval (fmt16 o.bf) (elem16 a k)) (fval (fmt16 o.bf) (elem16 b k))) s
def execHmul2 (o : FBin) (s : State) : Out :=
  fbinWord 0x49 (.hmul2 o) o (fun a b => pack2 fun k =>
    fmulV (fmt16 o.bf) o.rm o.sat (fval (fmt16 o.bf) (elem16 a k)) (fval (fmt16 o.bf) (elem16 b k))) s

/-- A three-source floating word. -/
def fterWord (op : Nat) (i : Instr) (o : FTer) (h : W32 → W32 → W32 → FRes) (s : State) : Out :=
  computeWord op i o.g o.nf (some o.d) (fun c l =>
    resF (h (c.wp.reg o.a l).val (c.wp.reg o.b l).val (c.wp.reg o.c l).val)
      ((c.wp.reg o.a l).poison || (c.wp.reg o.b l).poison || (c.wp.reg o.c l).poison)) s

def execHfma2 (o : FTer) (s : State) : Out :=
  let t := fmt16 (o.sz == 1)
  fterWord 0x4A (.hfma2 o) o (fun a b c => pack2 fun k =>
    ffmaV t o.rm o.sat (fval t (elem16 a k)) (fval t (elem16 b k)) (fval t (elem16 c k))) s
def execHmin2 (o : FBin) (s : State) : Out :=
  fbinWord 0x4B (.hmin2 o) o (fun a b => pack2 fun k => fminmax (fmt16 o.bf) false (elem16 a k) (elem16 b k)) s
def execHmax2 (o : FBin) (s : State) : Out :=
  fbinWord 0x4C (.hmax2 o) o (fun a b => pack2 fun k => fminmax (fmt16 o.bf) true (elem16 a k) (elem16 b k)) s

/-- The dot product of element pairs and an FP32 addend with one rounding (08 R191). -/
def dotRes (rm : RMode) (sat : Bool) (ps : List (FVal × FVal)) (c : FVal) : FRes :=
  let terms := ps.map (fun p => fprod p.1 p.2) ++ [c]
  let nan := ps.any (fun p => p.1.isNaN || p.2.isNaN) || c.isNaN
  let iz := ps.any fun p => infZero p.1 p.2
  let sig := ps.any (fun p => p.1.isSig || p.2.isSig) || c.isSig
  fsumV .f32 rm sat (iz || sig || !nan) terms

def execHdot2 (o : FTer) (s : State) : Out :=
  let t := fmt16 (o.sz == 1)
  fterWord 0x4D (.hdot2 o) o (fun a b c =>
    dotRes o.rm o.sat ((List.range 2).map fun k => (fval t (elem16 a k), fval t (elem16 b k))) (f32 c)) s

/-- QDOT4: SZ gives the A and B types (08 Table 8.9). -/
def execQdot4 (o : FTer) (s : State) : Out :=
  let ta := fp8 (o.sz == 1 || o.sz == 3)
  let tb := fp8 (o.sz == 1 || o.sz == 2)
  fterWord 0x4E (.qdot4 o) o (fun a b c =>
    dotRes o.rm o.sat ((List.range 4).map fun k => (fval ta (elem8 a k), fval tb (elem8 b k))) (f32 c)) s

end Sys2Proof.Machine
end

