-- ==== Sys2Proof/Machine/Convert.lean ====
section
/-! DEFINITION. Conversion, PACK, UNPACK and quantisation, opcodes 0x50-0x57 (04 R84-R87, R92, R93, 08 R192-R194). -/

namespace Sys2Proof.Machine

open Sys2Proof

/-- Bits of an element type. -/
def typeBits (t : Nat) : Nat := 8 * etypeSize (BitVec.ofNat 4 t)
/-- An integer ETYPE is unsigned (05 Table 5.3). -/
def typeUnsigned (t : Nat) : Bool := t % 2 == 1

/-- The source of a conversion: a pair for a 64-bit type, else the element SZ picks (08 R192); with its poison. -/
def cvtSource (wp : Warp) (o : CvtOp) (l : Nat) : Nat × Bool :=
  let n := typeBits o.src.toNat
  if n = 64 then ((wp.pair o.a l).val.toNat, (wp.pair o.a l).poison)
  else ((wp.reg o.a l).val.toNat / 2 ^ (n * o.sz.toNat) % 2 ^ n, (wp.reg o.a l).poison)

/-- An integer pattern of a type as its value. -/
def intOf (t x : Nat) : Int := if typeUnsigned t then (x : Int) else (BitVec.ofNat (typeBits t) x).toInt

/-- An integer result written: 32 bits, extended from its type, or a pair (08 R192). -/
def intWords (t : Nat) (x : Int) (poison : Bool) : List PW :=
  if typeBits t = 64 then pairWords (BitVec.ofInt 64 x) poison
  else [{ val := BitVec.ofInt 32 (intOf t (BitVec.ofInt (typeBits t) x).toNat), poison := poison }]

def execCvtf2i (o : CvtOp) (s : State) : Out :=
  computeWord 0x50 (.cvtf2i o) o.g o.nf (some o.d) (fun c l =>
    let (x, q) := cvtSource c.wp o l
    let (y, fl) := ftoi o.rm (!typeUnsigned o.dst.toNat) (typeBits o.dst.toNat) (fval (fmtOf o.src.toNat) x)
    { words := intWords o.dst.toNat y q, preds := [], fl := fl }) s

def execCvti2f (o : CvtOp) (s : State) : Out :=
  computeWord 0x51 (.cvti2f o) o.g o.nf (some o.d) (fun c l =>
    let (x, q) := cvtSource c.wp o l
    resF (roundInt (fmtOf o.dst.toNat) o.rm o.sat (intOf o.src.toNat x) 0 false) q) s

/-- CVTF2F (08 R192). Between equal types the rounding is exact, so that the source is delivered with its NaNs canonical; SAT and the flags act on it as
on any conversion (04 R79, R80, log 75). -/
def execCvtf2f (o : CvtOp) (s : State) : Out :=
  computeWord 0x52 (.cvtf2f o) o.g o.nf (some o.d) (fun c l =>
    let (x, q) := cvtSource c.wp o l
    resF (cvtff (fmtOf o.dst.toNat) o.rm o.sat (fval (fmtOf o.src.toNat) x)) q) s

/-- CVTI2I keeps the low bits, or delivers Sat of the source (04 R87). -/
def execCvti2i (o : CvtOp) (s : State) : Out :=
  computeWord 0x53 (.cvti2i o) o.g false (some o.d) (fun c l =>
    let (x, q) := cvtSource c.wp o l
    let t := o.dst.toNat
    let v := intOf o.src.toNat x
    let y := if o.sat then max (intMin (typeUnsigned t) (typeBits t)) (min (intMax (typeUnsigned t) (typeBits t)) v) else v
    { words := intWords t y q, preds := [], fl := 0 }) s

/-- One element of PACK, as CVTF2F or CVTI2I would convert it (08 R193). -/
def packElem (t : Nat) (rm : RMode) (sat : Bool) (x : W32) : Nat :=
  if 8 ≤ t then (cvtff (fmtOf t) rm sat (f32 x)).bits
  else
    let v := x.toInt
    let y := if sat then max (intMin (typeUnsigned t) (typeBits t)) (min (intMax (typeUnsigned t) (typeBits t)) v) else v
    (BitVec.ofInt (typeBits t) y).toNat

/-- PACK: a the lower element and b the upper; an 8-bit type keeps the other two elements of the old d, which is then a source. -/
def execPack (o : PackOp) (s : State) : Out :=
  computeWord 0x54 (.pack o) o.g false (some o.d) (fun c l =>
    let a := c.wp.reg o.a l
    let b := c.wp.reg o.b l
    let d := c.wp.reg o.d l
    let lo := packElem o.t.toNat o.rm o.sat a.val
    let hi := packElem o.t.toNat o.rm o.sat b.val
    if typeBits o.t.toNat = 16 then res32 (BitVec.ofNat 32 (lo + 65536 * hi)) (a.poison || b.poison)
    else
      let two := lo + 256 * hi
      let x := if o.sz = 0 then d.val.toNat / 65536 * 65536 + two else d.val.toNat % 65536 + 65536 * two
      res32 (BitVec.ofNat 32 x) (a.poison || b.poison || d.poison)) s

/-- One element of UNPACK, extended to 32 bits: a float exactly to FP32, a NaN to 0x7FC00000 (08 R193). -/
def unpackElem (t x : Nat) : W32 :=
  if 8 ≤ t then BitVec.ofNat 32 (ftof .f32 .rne false (fval (fmtOf t) x)).bits else BitVec.ofInt 32 (intOf t x)

def execUnpack (o : UnpackOp) (s : State) : Out :=
  computeWord 0x55 (.unpack o) o.g false (some o.d) (fun c l =>
    let a := c.wp.reg o.a l
    let n := typeBits o.t.toNat
    let e (k : Nat) : Nat := a.val.toNat / 2 ^ (n * (2 * o.sz.toNat + k)) % 2 ^ n
    { words := [{ val := unpackElem o.t.toNat (e 0), poison := a.poison }, { val := unpackElem o.t.toNat (e 1), poison := a.poison }],
      preds := [], fl := 0 }) s

/-- The scale of QNT8.scale for amax a (08 R194). -/
def qntScale (e5 : Bool) (a : W32) : FRes :=
  match f32 a with
  | .nan sig => { bits := 0x3F800000, fl := if sig then flNV else 0 }
  | .inf _ => bitRes 0x3F800000
  | .fin _ m e =>
    if m = 0 then bitRes 0x3F800000
    else { bits := pow2f32 (quantExp m e (fp8Max e5).1 (fp8Max e5).2), fl := 0 }

/-- One element of QNT8: x / q to the FP8 target, saturated (08 R194). A NaN result raises NV unless x or q was a quiet NaN, and a signalling
operand raises it beside a quiet one too (04 R73, R80; log 76). -/
def qntElem (e5 : Bool) (x q : FVal) : FRes :=
  let t := fp8 e5
  let quiet (v : FVal) : Bool := v.isNaN && !v.isSig
  if x.isNaN || q.isNaN || (x.isZero && q.isZero) || (x.isInf && q.isInf) then nanRes t (x.isSig || q.isSig || !(quiet x || quiet q))
  else fdivV t .rne true x q

def execQnt8Scale (o : QScaleOp) (s : State) : Out :=
  computeWord 0x56 (.qnt8Scale o) o.g o.nf (some o.d) (fun c l =>
    resF (qntScale o.e5 (c.wp.reg o.a l).val) (c.wp.reg o.a l).poison) s

def execQnt8 (o : QntOp) (s : State) : Out :=
  computeWord 0x56 (.qnt8 o) o.g o.nf (some o.d) (fun c l =>
    let q := c.wp.reg o.b l
    let x (j : Nat) : PW := c.wp.reg (regPlus o.a j) l
    let y (j : Nat) : FRes := qntElem o.e5 (f32 (x j).val) (f32 q.val)
    resF { bits := (y 0).bits + 256 * (y 1).bits + 65536 * (y 2).bits + 16777216 * (y 3).bits,
           fl := (y 0).fl ||| (y 1).fl ||| (y 2).fl ||| (y 3).fl }
      (q.poison || (x 0).poison || (x 1).poison || (x 2).poison || (x 3).poison)) s

def execDqnt8 (o : QntOp) (s : State) : Out :=
  computeWord 0x57 (.dqnt8 o) o.g o.nf (some o.d) (fun c l =>
    let a := c.wp.reg o.a l
    let q := c.wp.reg o.b l
    let y (j : Nat) : FRes := fmulV .f32 .rne false (fval (fp8 o.e5) (elem8 a.val j)) (f32 q.val)
    { words := (List.range 4).map fun j => { val := BitVec.ofNat 32 (y j).bits, poison := a.poison || q.poison },
      preds := [], fl := (y 0).fl ||| (y 1).fl ||| (y 2).fl ||| (y 3).fl }) s

end Sys2Proof.Machine
end

