-- ==== Sys2Proof/Machine/Copy.lean ====
section
/-! DEFINITION. The payload of the Halyard cards: CPY, CPYF, CPYP element by element, the beats of CPYQ, and the arbiter of the array (11 R270-R274). -/

namespace Sys2Proof.Machine

open Sys2Proof

/-- The conversion of an element by CPYF (04 R84-R87, 11 R270); between equal floating types too an infinity is clamped under SAT (04 R79). -/
def convElem (src dst : Nat) (sat : Bool) (x : Nat) : Nat :=
  if 8 ≤ src then
    if 8 ≤ dst then (cvtff (fmtOf dst) .rne sat (fval (fmtOf src) x)).bits
    else (BitVec.ofInt (typeBits dst) (ftoi .rne (!typeUnsigned dst) (typeBits dst) (fval (fmtOf src) x)).1).toNat
  else
    let v := intOf src x
    if 8 ≤ dst then (roundInt (fmtOf dst) .rne sat v 0 false).bits
    else
      let y := if sat then max (intMin (typeUnsigned dst) (typeBits dst)) (min (intMax (typeUnsigned dst) (typeBits dst)) v) else v
      (BitVec.ofInt (typeBits dst) y).toNat

/-- One element copied (11 R270). -/
def copyElem (c : Card) (s : State) (k : Nat) : Pay Unit :=
  (cardRead s c 0 k).andThen fun bs s =>
    if c.op = 0xB1 then
      let kern := cardKernel s c
      let src := (boxView kern c.record 0).etype.toNat
      let dst := (boxView kern c.record 1).etype.toNat
      cardWrite s c 1 k (natLE (cardSize s c 1) (convElem src dst (recB c.record 0 6) (leNat bs)))
    else cardWrite s c 1 k bs

/-- Elements from `prog` to the end copied in ascending order. -/
def copyPayload (s : State) (c : Card) : Pay Unit :=
  Pay.each (copyElem c) ((List.range (cardCount s c 1)).drop c.prog) s

/-- The bytes of a copy still to be delivered to its barrier. -/
def copyDue (s : State) (c : Card) : Nat := (cardCount s c 1 - c.prog) * cardSize s c 1

/-- A card replaced by its number; what it has written of marked sectors stays noted (21 R395). -/
def putCard (s : State) (c : Card) : State :=
  { s with cards := s.cards.map fun x => if x.id == c.id then { c with wrote := x.wrote } else x }

/-- A card's progress. -/
def setProg (s : State) (id n : Nat) : State :=
  { s with cards := s.cards.map fun c => if c.id == id then { c with prog := n } else c }

/-- A started card by its number. -/
def State.startedCard? (s : State) (id : Nat) : Option Card := s.cards.find? fun c => c.id == id && c.started

/-- BYTE_BARRIER_DELIVERY: a portion of a copy's payload performed, and its bytes delivered (05 R120, 06 R146). -/
def execByteBarrierDelivery (id n : Nat) (s : State) : Out :=
  match s.startedCard? id with
  | none => .next s
  | some c =>
    if !recB c.record 0 1 || 0xB2 < c.op then .next s
    else
      let m := min (n / cardSize s c 1) (cardCount s c 1 - c.prog)
      match Pay.each (copyElem c) ((List.range (c.prog + m)).drop c.prog) s with
      | .held => .next s
      | .ok _ s => .next (deliverBytes (setProg s id (c.prog + m)) c (m * cardSize s c 1))
      | .stop t s => .next (failCard s c (copyDue s c) t)

/-! ## CPYQ -/

/-- The bytes a CPYQ card pushes. -/
def cpyqTotal (s : State) (c : Card) : Nat := cardCount s c 0 * cardSize s c 0

/-- The FIFO a CPYQ card names: W-FIFO when true. -/
def Card.wFifo (c : Card) : Bool := recB c.record 0 5

def Block.fifo (k : Block) (w : Bool) : List Beat := if w then k.wFifo else k.aFifo
def Block.push (k : Block) (w : Bool) (b : Beat) : Block :=
  if w then { k with wFifo := k.wFifo ++ [b] } else { k with aFifo := k.aFifo ++ [b] }

/-- The address of a source element on a line that had no translation when the card was registered (11 R272). -/
def lostAt (s : State) (c : Card) (k : Nat) : Option VAddr :=
  match cardLoc s c 0 k with
  | .virt va => if c.lost.contains (vlineOf va) then some va else none
  | _ => none

/-- One source element of CPYQ: its bytes, with the address of a byte that faulted (11 R272). -/
def cpyqElem (c : Card) (s : State) (k : Nat) : Pay (List Byte × Option VAddr) :=
  match lostAt s c k with
  | some va => .ok (List.replicate (cardSize s c 0) 0, some va) s
  | none =>
  match cardRead s c 0 k with
  | .ok bs s => .ok (bs, none) s
  | .held => .held
  | .stop t s => if t.sub = 4 then .stop t s else .ok (List.replicate (cardSize s c 0) 0, some t.addr) s

/-- The first address among poisoned elements. -/
def firstPoison (l : List (List Byte × Option VAddr)) : Option VAddr := l.findSome? (·.2)

/-- A CPYQ card that could push a beat if its block held the array: started, with bytes left, no earlier card of the core that names the FIFO has any, and the beat
fits (11 R272, R274). -/
def readyPush (s : State) (c : Card) : Bool :=
  let left := cpyqTotal s c - c.prog
  c.op == 0xB3 && c.queued && c.started && left != 0 &&
  !(s.cards.any fun x => x.queued && x.id < c.id && x.core == c.core && x.op == 0xB3 && x.wFifo == c.wFifo && x.prog < cpyqTotal s x) &&
  fifoLen (((s.blocks[c.blk]?).map (·.fifo c.wFifo)).getD []) + min 32 left ≤ Config.fifoBytes

/-- A block holds the array of a core. -/
def State.holds (s : State) (core blk : Nat) : Bool := ((s.cores[core]?).map fun k => k.holder == some blk).getD false

/-- A CPYQ card may push: it is ready to, and its block holds the array. -/
def mayPush (s : State) (c : Card) : Bool := s.holds c.core c.blk && readyPush s c

/-- A CPYQ card waits for FIFO space (11 R264, R272). -/
def waitsSpace (s : State) (c : Card) : Bool :=
  c.op == 0xB3 && c.prog < cpyqTotal s c &&
  Config.fifoBytes < fifoLen (((s.blocks[c.blk]?).map (·.fifo c.wFifo)).getD []) + min 32 (cpyqTotal s c - c.prog)

/-! ## The array -/

/-- A CPYQ card of a core is ready to push, and its block has no place in the queue for the array. -/
def wantsPush (s : State) (core : Nat) (c : Card) : Bool :=
  c.core == core && readyPush s c && !s.holds core c.blk && !((s.cores[core]?).any fun k => k.reqs.any fun x => x.1 == c.blk)

/-- The requests of the CPYQ cards of a core that have become ready to push (11 R274). -/
def askPush (s : State) (core : Nat) : State :=
  s.cards.foldl (fun s c => if wantsPush s core c then s.modCore core (·.ask c.blk 0) else s) s

/-- Whether a block still asks for the array: a Mainsail card of its own, or a CPYQ card that is ready to push. -/
def stillAsks (s : State) (blk : Nat) : Option Nat :=
  if !(mainsailCards s blk).isEmpty then some 1
  else if s.cards.any fun c => c.blk == blk && readyPush s c then some 0
  else none

/-- The array granted to the oldest place in the queue (11 R274): when it is free, or at an operation boundary with the lease at 0. The
state of the block that loses it goes to its save area; with work still pending it takes a new place, at the end of the queue (log 82). Entries that
wait for the lease go on. DESIGN CHOICE (log 103): while a Mainsail card of the holder is started the array does not pass at the beat boundary of a push, but at
the boundary of that card's operation. -/
def grantArray (s0 : State) (core : Nat) : State :=
  let s := askPush s0 core
  match s.cores[core]? with
  | none => s
  | some k =>
    let others := k.reqs.filter fun x => some x.1 != k.holder
    let busy := s.cards.any fun c => c.started && c.eng == 4 && c.core == core
    let may := k.holder.isNone || (k.lease = 0 && !busy)
    match others with
    | [] => s
    | (b, _) :: _ =>
      if !may then s
      else
        let again := match k.holder with
          | some h => (match stillAsks s h with | some n => [(h, n)] | none => [])
          | none => []
        let lease := (others.filter fun x => x.1 == b).foldl (fun m x => max m x.2) 0
        let s := match k.holder with | some h => saveMainsail s h | none => s
        let s := s.modCore core fun k =>
          { k with holder := some b, lease := lease, reqs := (others.filter fun x => x.1 != b) ++ again }
        s.modBlock b fun x => x.wake .mmaLease

def execMainsailGrant (core : Nat) (s : State) : Out := .next (grantArray s core)

/-- CPYQ_BEAT_PUSH: the next beat of 32 bytes, or what is left, pushed (11 R272); at the beat's boundary the array passes to a block that waits, when the
lease is 0 (11 R274). -/
def execCpyqBeatPush (id : Nat) (s : State) : Out :=
  match s.startedCard? id with
  | none => .next s
  | some c =>
    let n := min 32 (cpyqTotal s c - c.prog)
    if c.op != 0xB3 || n = 0 || !mayPush s c then .next s
    else
      let sz := cardSize s c 0
      match Pay.collect (cpyqElem c) ((List.range ((c.prog + n) / sz)).drop (c.prog / sz)) s with
      | .held => .next s
      | .stop t s => .next (failCard s c (cpyqTotal s c - c.prog) t)
      | .ok xs s =>
        let s := s.modBlock c.blk fun k => k.push c.wFifo { bytes := xs.flatMap (·.1), poison := firstPoison xs }
        .next (grantArray (deliverBytes (setProg s id (c.prog + n)) c n) c.core)

end Sys2Proof.Machine
end

