-- ==== Sys2Proof/Machine/Mainsail.lean ====
section
/-! DEFINITION. The payload of the Mainsail cards: MMA, MMADRAIN, MMAZERO (04 R89-R93, 11 R273-R278). -/

namespace Sys2Proof

/-- What a drain delivers for an element beyond the rows of a tile, by its place (11 R277 states none). Free value, log 81. -/
opaque Config.pastTile : Nat → W32

end Sys2Proof

namespace Sys2Proof.Machine

open Sys2Proof

/-! ## Tiles -/

/-- The 128 rows of a tile (03 R52). -/
def tileRows : Nat := 128

/-- An element of an accumulator tile, +0.0 when unlisted; beyond the tile's rows a free value (log 81). -/
def Block.acc (k : Block) (t r n : Nat) : W32 := if r < tileRows then assocGet 0 (nth [] k.tiles t) (128 * r + n) else Config.pastTile (128 * r + n)

/-- Rows lo to hi - 1 of a tile replaced; the tile keeps its elements in rising order and lists no +0.0. Rows above 127 are none of the tile (log 81). -/
def Block.setSpan (k : Block) (t lo hi : Nat) (f : Nat → Nat → W32) : Block :=
  let a := 128 * min lo tileRows
  let b := 128 * min hi tileRows
  let fresh := (List.range (b - a)).filterMap fun i =>
    let x := f ((a + i) / 128) ((a + i) % 128)
    if x = 0 then none else some (a + i, x)
  { k with tiles := k.tiles.modify t fun old => (old.filter fun p => p.1 < a) ++ fresh ++ old.filter fun p => b ≤ p.1 }

/-- Rows 0 to rows - 1 of a tile replaced. -/
def Block.setRows (k : Block) (t rows : Nat) (f : Nat → Nat → W32) : Block := k.setSpan t 0 rows f

/-! ## FIFOs -/

/-- A byte of a FIFO with the poison origin of its beat. -/
abbrev FByte := Byte × Option VAddr

/-- The bytes of a FIFO in order. -/
def fifoBytes (l : List Beat) : List FByte := l.flatMap fun b => b.bytes.map fun x => (x, b.poison)

/-- A FIFO after its first n bytes have been consumed. -/
def fifoDrop : List Beat → Nat → List Beat
  | [], _ => []
  | b :: l, n =>
    if b.bytes.length ≤ n then fifoDrop l (n - b.bytes.length)
    else { b with bytes := b.bytes.drop n } :: l

/-- The first n bytes of a FIFO, in its beats. -/
def fifoTake : List Beat → Nat → List Beat
  | [], _ => []
  | b :: l, n =>
    if n = 0 then []
    else if b.bytes.length ≤ n then b :: fifoTake l (n - b.bytes.length)
    else [{ b with bytes := b.bytes.take n }]

/-- The poison origin of the first poisoned byte. -/
def poisonOf (l : List FByte) : Option VAddr := l.findSome? (·.2)

/-- n codes of `size` bytes. -/
def codesOf (size : Nat) (l : List Byte) : Nat → List Nat
  | 0 => []
  | n + 1 => leNat (l.take size) :: codesOf size (l.drop size) n

/-! ## Arithmetic -/

/-- The partial sum of a group: exact products, one rounding (04 R90). INT8 groups are exact integers. -/
def groupPart (af wf : Nat) (a w : List Nat) : Nat :=
  if af = 0 then
    let x := (a.zip w).foldl (fun (n : Int) p => n + (BitVec.ofNat 8 p.1).toInt * (BitVec.ofNat 8 p.2).toInt) 0
    (roundInt .f32 .rne false x 0 false).bits
  else (fsumV .f32 .rne false false ((a.zip w).map fun p => fprod (fval (fmtOf af) p.1) (fval (fmtOf wf) p.2))).bits

/-- A value by its FP32 code. -/
def v32 (x : Nat) : FVal := fval .f32 x
/-- RNE(a * b, f32). -/
def mul32 (a b : Nat) : Nat := (fmulV .f32 .rne false (v32 a) (v32 b)).bits
/-- RNE(a + b, f32). -/
def add32 (a b : Nat) : Nat := (faddV .f32 .rne false (v32 a) (v32 b)).bits

/-- Column n of a weight tile: 128 codes, k ascending. -/
def tileCol (size : Nat) (tile : List Byte) (n : Nat) : List Nat :=
  (List.range 128).map fun k => leNat ((tile.drop ((128 * k + n) * size)).take size)

/-- The new accumulator element of a row and column after a group (04 R90, 11 R276). -/
def groupElem (af : Nat) (l : Latch) (fresh poison : Bool) (sa : Nat) (a : List Nat) (old : W32) (n : Nat) : W32 :=
  let part := if poison || l.mark.isSome then Fmt.f32.nan
              else groupPart af l.fmt.toNat a (tileCol (etypeSize l.fmt) l.tile n)
  let t := mul32 part (mul32 sa l.sw.toNat)
  BitVec.ofNat 32 (if fresh then t else add32 old.toNat t)

/-- The first poisoned row and group of an MMA: TFAUX bits [15:0] and the origin. -/
abbrev PoisonMet := Option (Nat × VAddr)

/-- Parameters of an MMA. -/
structure MmaArgs where
  acc   : Nat
  rows  : Nat
  af    : Nat
  wf    : Nat
  wload : Bool
  ovw   : Bool
  gs    : Nat
  scale : List Nat
  deriving DecidableEq, Repr

/-- Where an MMA stands: its block, the bytes of the weight tile in hand, the tiles latched, the A-stream rows taken and the first poison met
(11 R273-R276). -/
structure MmaState where
  blk    : Block
  load   : List Beat
  groups : Nat
  rows   : Nat
  met    : PoisonMet
  deriving DecidableEq, Repr

/-- Bytes of a weight tile and of an A-stream row. -/
def MmaArgs.tileBytes (x : MmaArgs) : Nat := 16384 * etypeSize (BitVec.ofNat 4 x.wf)
def MmaArgs.rowBytes (x : MmaArgs) : Nat := 128 * etypeSize (BitVec.ofNat 4 x.af)

/-- The group of the next A-stream row. -/
def MmaState.group (st : MmaState) (x : MmaArgs) : Nat := st.rows / x.rows

/-- The group in hand still needs its tile from the W-FIFO. -/
def MmaState.needsTile (st : MmaState) (x : MmaArgs) : Bool := x.wload && st.groups ≤ st.group x

/-- The weight tile of the group in hand: its bytes are taken as they come, and latched when all are there (11 R273, R275). -/
def mmaLoad (x : MmaArgs) (st : MmaState) : MmaState :=
  if !st.needsTile x then st
  else
    let need := x.tileBytes - fifoLen st.load
    let load := st.load ++ fifoTake st.blk.wFifo need
    let k := { st.blk with wFifo := fifoDrop st.blk.wFifo need }
    if fifoLen load < x.tileBytes then { st with blk := k, load := load }
    else
      let wb := fifoBytes load
      { st with
        blk := { k with latch := { fmt := BitVec.ofNat 4 x.wf, sw := BitVec.ofNat 32 (nth 0 x.scale (st.group x)), tile := wb.map (·.1),
                                   mark := poisonOf wb } },
        load := [], groups := st.group x + 1 }

/-- The next row can be taken: its group has its tile, and the A-FIFO holds its bytes. -/
def mmaReady (x : MmaArgs) (st : MmaState) : Bool := !st.needsTile x && x.rowBytes ≤ fifoLen st.blk.aFifo

/-- One A-stream row of one group (04 R90, 11 R275, R276). DESIGN CHOICE (log 91): the poison reported is the one met first, of an A-stream row or of a
weight tile. -/
def mmaRow (x : MmaArgs) (st : MmaState) : MmaState :=
  let k := st.blk
  let g := st.group x
  let r := st.rows % x.rows
  let latch := latchTile k.latch
  let ab := (fifoBytes k.aFifo).take x.rowBytes
  let pois := poisonOf ab
  let met := match st.met with
    | some m => some m
    | none =>
      match latch.mark with
      | some o => some (g * 256 + 0xFF, o)
      | none => pois.map fun o => (g * 256 + r, o)
  let codes := codesOf (etypeSize (BitVec.ofNat 4 x.af)) (ab.map (·.1)) 128
  let k2 := k.setSpan x.acc r (r + 1) fun r n =>
    groupElem x.af latch (g = 0 && x.ovw) pois.isSome (nth 0 x.scale (x.gs + g * x.rows + r)) codes (k.acc x.acc r n) n
  { st with blk := { k2 with aFifo := fifoDrop k.aFifo x.rowBytes }, rows := st.rows + 1, met := met }

/-- The parameters of an MMA card, with its scales read. -/
def mmaArgs (r : List Byte) (scale : List Nat) : MmaArgs :=
  { acc := recF r 0x18 5 3, rows := recF r 0x18 23 16 + 1, af := recF r 0x18 11 8, wf := recF r 0x18 15 12,
    wload := recB r 0x18 0, ovw := recB r 0x18 1, gs := recW r 0x1C, scale := scale }

/-- Rows taken in order while their bytes are there; the list bounds their number. -/
def mmaRun (x : MmaArgs) : List Nat → MmaState → MmaState
  | [], st => st
  | _ :: l, st =>
    let st := mmaLoad x st
    if mmaReady x st then mmaRun x l (mmaRow x st) else st

/-- The A-stream rows of an MMA: its groups' rows. -/
def MmaArgs.total (x : MmaArgs) : Nat := x.gs * x.rows

/-! ## Drains -/

/-- Quantisation of a vector to FP8 (04 R92): the scale and the elements. -/
def quantVec (e5 : Bool) (xs : List Nat) : Nat × List Nat :=
  let mags := xs.filterMap fun x => match v32 x with | .fin _ _ _ => some (x % 2 ^ 31) | _ => none
  let amax := mags.foldl max 0
  let q := if amax = 0 then 0x3F800000 else
    match v32 amax with
    | .fin _ m e => pow2f32 (quantExp m e (fp8Max e5).1 (fp8Max e5).2)
    | _ => 0x3F800000
  (q, xs.map fun x => if (v32 x).isNaN then (fp8 e5).nan else (fdivV (fp8 e5) .rne true (v32 x) (v32 q)).bits)

/-- One drained copy: its rows to a box's codes, with the scales of an FP8 box (11 R277). -/
def drainCopy (t : Nat) (rows : List (List Nat)) : List Nat × List (List Nat) :=
  match t with
  | 8 => ([], rows)
  | 10 => ([], rows.map fun r => r.map fun x => (ftof .bf16 .rne false (v32 x)).bits)
  | _ =>
    let qs := rows.map fun r => quantVec (t == 12) r
    (qs.map (·.1), qs.map (·.2))

/-- The drain of a Mainsail card (11 R277): both copies are read before ZERO acts. -/
def drainPayload (s : State) (c : Card) : Pay Unit :=
  let r := c.record
  let kern := cardKernel s c
  let d := recF r 0x20 23 16 + 1
  let acc := recF r 0x20 10 8
  let tile (i j : Nat) : Nat := (((s.blocks[c.blk]?).map (fun (k : Block) => k.acc acc i j)).getD 0).toNat
  let nrows := (List.range d).map fun i => (List.range 128).map fun j => tile i j
  let trows := (List.range 128).map fun j => (List.range d).map fun i => tile i j
  let (q1, y1) := drainCopy (boxView kern r 1).etype.toNat nrows
  let (q2, y2) := drainCopy (boxView kern r 2).etype.toNat trows
  let on (n : Nat) : Bool := (boxOf r n).valid
  let put (n : Nat) (xs : List Nat) (s : State) : Pay Unit := if on n then writeBox s c n xs else .ok () s
  (put 1 y1.flatten s).andThen fun _ s => (put 2 y2.flatten s).andThen fun _ s =>
    (put 3 ((if on 1 then q1 else []) ++ (if on 2 then q2 else [])) s).andThen fun _ s =>
      .ok () (if recB r 0x20 2 then s.modBlock c.blk fun k => k.setRows acc d fun _ _ => 0 else s)

/-- Bytes a Mainsail card writes to boxes 1 to 3. -/
def drainBytes (s : State) (c : Card) : Nat :=
  [1, 2, 3].foldl (fun n b => if (boxOf c.record b).valid then n + cardCount s c b * cardSize s c b else n) 0

/-- ENGINE_ERROR SUB 3: poison that Mainsail consumed (11 R276). -/
def poisonError (m : Nat × VAddr) : LaneTrap := mkTrap 0 0x0E 3 m.2 (BitVec.ofNat 32 (m.1 + 4 * 2 ^ 24))

/-- MMA: the rows whose bytes have arrived, in order. The card that is left counts them and keeps the first poison met, which is reported after
the rest has proceeded (11 R273, R276). -/
def mmaAdvance (s : State) (c : Card) : Card × State :=
  let x := mmaArgs c.record c.scale
  match s.blocks[c.blk]? with
  | none => ({ c with prog := x.total }, s)
  | some k =>
    let st := mmaRun x ((List.range x.total).drop c.prog) { blk := k, load := c.load, groups := c.groups, rows := c.prog, met := none }
    ({ c with prog := st.rows, load := st.load, groups := st.groups,
              error := match c.error with | some t => some t | none => st.met.map poisonError },
     s.modBlock c.blk fun _ => st.blk)

/-- Every row of an MMA has been taken. -/
def mmaDone (c : Card) : Bool := (mmaArgs c.record c.scale).total ≤ c.prog

/-- The scales of an MMA, read at its start (11 R273). -/
def mmaScales (s : State) (c : Card) : Pay Unit := (readBox s c 0).andThen fun xs s => .ok () (putCard s { c with scale := xs })

/-- The format pairing an MMA without WLOAD finds when it starts (11 R275). -/
def mmaStartFail (s : State) (c : Card) : Bool :=
  let r := c.record
  !recB r 0x18 0 && c.op == 0xB8 &&
  (match s.blocks[c.blk]? with
   | some k => (recF r 0x18 11 8 == 0) != (k.latch.fmt == 0)
   | none => false)

end Sys2Proof.Machine
end

