-- ==== Sys2Proof/Machine/Topsail.lean ====
section
/-! DEFINITION. Topsail: the words ATTN, KVAPPEND, KVMAP, KVROT and the payloads of their cards (12 R279-R293). -/

namespace Sys2Proof.Machine

open Sys2Proof

/-! ## Issue -/

def execAttn (o : AttnOp) (s : State) : Out :=
  issueWord 0xC0 (.attn o) o.g
    (cardBody { op := 0xC0, eng := 5, v := o.v, b := o.b, gm := o.gm, dest := o.d.toNat } o.g) s
def execKvappend (o : CardOp) (s : State) : Out := issueWord 0xC1 (.kvappend o) o.g (cardBody (engWord 0xC1 5 o) o.g) s
def execKvmap (o : CardOp) (s : State) : Out := issueWord 0xC2 (.kvmap o) o.g (cardBody (engWord 0xC2 5 o) o.g) s
def execKvrot (o : CardOp) (s : State) : Out := issueWord 0xC3 (.kvrot o) o.g (cardBody (engWord 0xC3 5 o) o.g) s

/-! ## The residency map -/

/-- A residency map entry (12 Table 12.3). -/
structure KvEntry where
  low : Nat
  st  : Nat
  pg  : Nat
  ksc : Nat
  vsc : Nat
  rdr : Nat
  deriving DecidableEq, Repr

/-- The index of the entry of page j of a card's sequence and head (12 R283). -/
def kvIndex (c : Card) (j : Nat) : Nat :=
  let x := kvDesc c.desc
  (recW c.record 0x1C * x.nhead + recF c.record 0x20 15 0) * x.npage + j

/-- The map view of a card. -/
def kvMapView (s : State) (c : Card) : View := nth noView (cardKernel s c).views (kvDesc c.desc).mview

/-- The address of word w of an entry; outside the map view there is no entry, which stops the card as a PG outside the pool does
(12 R290). -/
def kvWordAt (s : State) (c : Card) (j w : Nat) : VAddr × Bool :=
  let e := (kvMapView s c).locate 1 [((4 * kvIndex c j + w : Nat) : Int)]
  (BitVec.ofNat 57 e.addr.toNat, e.outside.isSome)

/-- ENGINE_ERROR of an access that lies in no box of the card (log 85). -/
def kvError (c : Card) (sub : Nat) (va : VAddr) : LaneTrap := payError c sub va (noBox va / 2 ^ 16) (noBox va)

/-- One word of an entry read. -/
def kvWord (s : State) (c : Card) (j w : Nat) : Pay Nat :=
  let (va, out) := kvWordAt s c j w
  if out then .stop (kvError c 2 va) s
  else (readVirt s c (noBox va / 2 ^ 16) (noBox va) va 4).andThen fun bs s => .ok (leNat bs) s

/-- An entry read. Scales of a 16-bit pool are 1.0 (12 Table 12.3). -/
def kvEntry (s : State) (c : Card) (j : Nat) : Pay KvEntry :=
  (Pay.collect (fun s w => kvWord s c j w) [0, 1, 2, 3] s).andThen fun ws s =>
    let half := (kvDesc c.desc).fmt < 11
    let w := nth 0 ws 0
    .ok { low := field w 29 0, st := field w 31 30, pg := field w 23 0, ksc := if half then 0x3F800000 else nth 0 ws 1,
          vsc := if half then 0x3F800000 else nth 0 ws 2, rdr := nth 0 ws 3 } s

/-- One word of an entry written. -/
def kvPut (s : State) (c : Card) (j w x : Nat) : Pay Unit :=
  let (va, _) := kvWordAt s c j w
  writeVirt s c (noBox va / 2 ^ 16) (noBox va) va (natLE 4 (x % 2 ^ 32))

/-- ST of an entry written (12 R284). -/
def kvState (s : State) (c : Card) (j : Nat) (e : KvEntry) (st : Nat) : Pay Unit := kvPut s c j 0 (e.low + st * 2 ^ 30)

/-! ## Pool rows -/

/-- A pool row: its address, and whether it lies in the pool and its box (12 R283, R287, R290). -/
def poolRow (s : State) (c : Card) (view box row : Nat) : VAddr × Bool :=
  let kern := cardKernel s c
  let b := boxOf c.record box
  let hd := (kvDesc c.desc).hd
  let e := (nth noView kern.views view).locate kern.gang [0, (row : Int)]
  let inBox := nth 0 b.org 1 ≤ (row : Int) && (row : Int) < nth 0 b.org 1 + (nth 0 b.cnt 1 : Nat) &&
    nth 0 b.org 0 ≤ 0 && (hd : Int) ≤ nth 0 b.org 0 + (nth 0 b.cnt 0 : Nat)
  (BitVec.ofNat 57 e.addr.toNat, e.outside.isNone && inBox)

/-- The address of an element of a pool row. -/
def poolElem (s : State) (c : Card) (view row d : Nat) : VAddr :=
  let kern := cardKernel s c
  BitVec.ofNat 57 ((nth noView kern.views view).locate kern.gang [(d : Int), (row : Int)]).addr.toNat

/-- The index in its box of an element of a pool row (11 Table 11.5). -/
def poolIndex (c : Card) (box row d : Nat) : Nat :=
  let b := boxOf c.record box
  ((d : Int) - nth 0 b.org 0 + ((row : Int) - nth 0 b.org 1) * (nth 0 b.cnt 0 : Nat)).toNat

/-- The error of a pool row outside its box: no element of the box is read (log 85). -/
def rowError (c : Card) (box : Nat) (va : VAddr) : LaneTrap := payError c 2 va box (noBox va)

/-- The codes of a pool row. -/
def readRow (s : State) (c : Card) (view box row : Nat) : Pay (List Nat) :=
  let (va, ok) := poolRow s c view box row
  let x := kvDesc c.desc
  if !ok then .stop (rowError c box va) s
  else Pay.collect (fun s d =>
    (readVirt s c box (poolIndex c box row d) (poolElem s c view row d) (etypeSize (BitVec.ofNat 4 x.fmt))).andThen fun bs s =>
      .ok (leNat bs) s)
    (List.range x.hd) s

/-- Codes written to a pool row. -/
def writeRow (s : State) (c : Card) (view box row : Nat) (xs : List Nat) : Pay Unit :=
  let (va, ok) := poolRow s c view box row
  let sz := etypeSize (BitVec.ofNat 4 (kvDesc c.desc).fmt)
  if !ok then .stop (rowError c box va) s
  else Pay.each (fun s (v, d) => writeVirt s c box (poolIndex c box row d) (poolElem s c view row d) (natLE sz v)) xs.zipIdx s

/-- The exact values of a row's codes under a scale (12 R283; log 77). -/
def scaledRow (fmt scale : Nat) (xs : List Nat) : List FVal := xs.map fun x => fprod (fval (fmtOf fmt) x) (v32 scale)

/-- Sat(RNE(x / scale, KVFMT), KVFMT) (12 R291). -/
def storeCode (fmt scale : Nat) (x : FVal) : Nat := (fdivV (fmtOf fmt) .rne true x (v32 scale)).bits

/-- An integer as an exact value. -/
def intVal (p : Int) : FVal := .fin (p < 0) p.natAbs 0

/-- The rotation of a row by a position (12 R285). -/
def rotateRow (desc : List Byte) (p : Int) (xs : List FVal) : List FVal :=
  let rotp := (kvDesc desc).rotp
  xs.zipIdx.map fun (x, k) =>
    if k < 2 * rotp then
      let phi := fprod (intVal p) (v32 (recW desc (0x40 + 4 * (k / 2))))
      let c := v32 (sinCosRound true phi)
      let sn := v32 (sinCosRound false phi)
      let x0 := nth (.nan false) xs (k / 2 * 2)
      let x1 := nth (.nan false) xs (k / 2 * 2 + 1)
      if k % 2 = 0 then v32 (fsumV .f32 .rne false false [fprod x0 c, (fprod x1 sn).flip]).bits
      else v32 (fsumV .f32 .rne false false [fprod x0 sn, fprod x1 c]).bits
    else x

/-! ## ATTN -/

/-- The state of one query row (12 R288). -/
structure AttnRow where
  o : List Nat
  m : Nat
  l : Nat
  deriving DecidableEq, Repr

/-- maximum, NaN propagating, canonical (12 R288). -/
def maxNan (a b : Nat) : Nat :=
  if (v32 a).isNaN || (v32 b).isNaN then Fmt.f32.nan
  else if fkey .f32 false a < fkey .f32 false b then b else a

/-- The exact difference of two FP32 values. -/
def exactDiff (a b : Nat) : FVal :=
  match v32 a, v32 b with
  | .nan _, _ => .nan false
  | _, .nan _ => .nan false
  | .inf n, .inf k => if n == k then .nan false else .inf n
  | .inf n, _ => .inf n
  | _, .inf n => .inf (!n)
  | .fin n1 m1 e1, .fin n2 m2 e2 =>
    let e := min e1 e2
    let x := finAt n1 m1 e1 e - finAt n2 m2 e2 e
    .fin (x < 0) x.natAbs e

/-- One tile taken into a row: `ks` and `vs` are the page's rows at the positions of U. -/
def attnStep (scale : Nat) (q : List FVal) (ks vs : List (List FVal)) (row : AttnRow) : AttnRow :=
  let score (k : List FVal) : Nat :=
    mul32 (fsumV .f32 .rne false false ((q.zip k).map fun x => fprod x.1 x.2)).bits scale
  let ss := ks.map score
  let m := ss.foldl maxNan row.m
  let a := expRound (exactDiff row.m m)
  let ps := ss.map fun x => v32 (expRound (exactDiff x m))
  let o := row.o.zipIdx.map fun (x, d) =>
    (fsumV .f32 .rne false false
      (fprod (v32 x) (v32 a) :: (ps.zip vs).map fun y => fprod y.1 (nth (.fin false 0 0) y.2 d))).bits
  { o := o, m := m, l := (fsumV .f32 .rne false false (fprod (v32 row.l) (v32 a) :: ps)).bits }

/-- Row r of a block's attention state. -/
def attnRow (k : Block) (acc hd r : Nat) : AttnRow :=
  { o := (List.range hd).map fun d => (k.acc acc r d).toNat, m := (k.acc (acc + 1) r 0).toNat, l := (k.acc (acc + 1) r 1).toNat }

/-- A row started afresh. -/
def freshRow (hd : Nat) : AttnRow := { o := List.replicate hd 0, m := 0xFF800000, l := 0 }

/-- The rows of a page that a query row attends to: p < LEN, and p ≤ QPOS0 + r under CAUSAL. -/
def attends (rec : List Byte) (r p : Nat) : Bool :=
  p < recW rec 0x2C && (!recB rec 0x18 29 || p ≤ recW rec 0x28 + r)

/-- The tiles left in the block's accumulators: o in tile ACC, m and l in columns 0 and 1 of tile ACC + 1. -/
def Block.setAttn (k : Block) (acc hd : Nat) (rows : List AttnRow) : Block :=
  let row (r : Nat) : AttnRow := nth { o := [], m := 0, l := 0 } rows r
  let k2 := k.setRows acc rows.length fun r n => if n < hd then BitVec.ofNat 32 (nth 0 (row r).o n) else k.acc acc r n
  k2.setRows (acc + 1) rows.length fun r n =>
    if n = 0 then BitVec.ofNat 32 (row r).m else if n = 1 then BitVec.ofNat 32 (row r).l else k2.acc (acc + 1) r n

/-- Fields of an ATTN card: its accumulator, its query rows, its tiles, and the page of the tile in hand. -/
def attnAcc (c : Card) : Nat := recF c.record 0x18 26 24
def attnRows (c : Card) : Nat := recF c.record 0x18 15 8 + 1
def attnCount (c : Card) : Nat := recF c.record 0x18 4 0 + 1
def attnPage (c : Card) : Nat := recW c.record 0x24 + c.prog / 2

/-- The rows started afresh under INIT, before the first tile (12 R288). -/
def attnInit (s : State) (c : Card) : State :=
  let hd := (kvDesc c.desc).hd
  if c.prog = 0 && recB c.record 0x18 27 then
    s.modBlock c.blk fun k => k.setAttn (attnAcc c) hd ((List.range (attnRows c)).map fun _ => freshRow hd)
  else s

/-- A tile whose page the card does not read, with its status. -/
def Card.passTile (c : Card) (st : Nat) : Card := { c with prog := c.prog + 2, stat := c.stat ++ [st], waited := false }

/-- The reader's entry into a tile (12 R284, R288): RDR is raised with the read of a resident page; a page being rewritten holds the card. -/
def attnEnter (s : State) (c : Card) : Pay Card :=
  (kvEntry s c (attnPage c)).andThen fun e s =>
    if e.st = 2 then .held
    else if e.st = 1 then (kvPut s c (attnPage c) 3 (e.rdr + 1)).andThen fun _ s => .ok { c with prog := c.prog + 1 } (attnInit s c)
    else .ok (c.passTile (if e.st = 0 then 1 else 3)) (attnInit s c)

/-- A tile read and taken into every query row, and the reader's leave (12 R284, R288). -/
def attnTile (s : State) (c : Card) : Pay Card :=
  let x := kvDesc c.desc
  let j := attnPage c
  (readBox s c 0).andThen fun q s => (kvEntry s c j).andThen fun e s =>
    (Pay.collect (fun s n => readRow s c x.kview 2 (64 * e.pg + n)) (List.range 64) s).andThen fun kc s =>
      (Pay.collect (fun s n => readRow s c x.vview 3 (64 * e.pg + n)) (List.range 64) s).andThen fun vc s =>
        let query (r : Nat) : List FVal := ((q.drop (r * x.hd)).take x.hd).map (fval (fmtOf (recF c.record 0x18 19 16)))
        let key (n : Nat) (xs : List Nat) : List FVal :=
          let y := scaledRow x.fmt e.ksc xs
          if x.rope = 2 then rotateRow c.desc ((64 * j + n : Nat) : Int) y else y
        let ks := kc.zipIdx.map fun (xs, n) => key n xs
        let vs := vc.map (scaledRow x.fmt e.vsc)
        let inU (r : Nat) : List Nat := (List.range 64).filter fun n => attends c.record r (64 * j + n)
        let step (k : Block) (r : Nat) : AttnRow :=
          let row := attnRow k (attnAcc c) x.hd r
          let u := inU r
          if u.isEmpty then row else attnStep (recW c.record 0x30) (query r) (u.map (nth [] ks)) (u.map (nth [] vs)) row
        let used := (List.range (attnRows c)).any fun r => !(inU r).isEmpty
        (kvPut s c j 3 (e.rdr + 2 ^ 32 - 1)).andThen fun _ s =>
          .ok { c with prog := c.prog + 1, stat := c.stat ++ [if c.waited then 2 else if used then 0 else 1], waited := false }
            (s.modBlock c.blk fun k => k.setAttn (attnAcc c) x.hd ((List.range (attnRows c)).map (step k)))

/-- The next step of an ATTN card with a tile left. -/
def attnAdvance (s : State) (c : Card) : Pay Card := if c.prog % 2 = 0 then attnEnter s c else attnTile s c

/-- The final output of a row. -/
def attnOut (ofmt : Nat) (row : AttnRow) : List Nat :=
  row.o.map fun x => if (v32 row.l).isZero then 0 else (fdivV (fmtOf ofmt) .rne false (v32 x) (v32 row.l)).bits

/-- The output of an ATTN card under FIN (12 R288). -/
def attnFinish (s : State) (c : Card) : Pay Unit :=
  match recB c.record 0x18 28, s.blocks[c.blk]? with
  | true, some k =>
    writeBox s c 1 ((List.range (attnRows c)).flatMap fun r =>
      attnOut (recF c.record 0x18 23 20) (attnRow k (attnAcc c) (kvDesc c.desc).hd r))
  | _, _ => .ok () s

/-- Bytes an ATTN card writes to box 1. -/
def attnBytes (s : State) (c : Card) : Nat := if (boxOf c.record 1).valid then cardCount s c 1 * cardSize s c 1 else 0

/-- The read of the tile in hand noted as waiting, when its page is being rewritten (12 R284, R288). -/
def noteWait (s : State) (c : Card) : State :=
  match kvEntry s c (attnPage c) with
  | .ok e _ => if c.prog % 2 = 0 && e.st = 2 then putCard s { c with waited := true } else s
  | _ => s

/-- The statuses written to lane i of the issuing warp for every lane that has not retired (12 R289). -/
def writeStatuses (s : State) (c : Card) (st : List Nat) : State :=
  s.modWarp { b := c.blk, w := c.warp } fun w =>
    w.mapLanes (List.range w.lanes.length) fun i l =>
      if l.retired then l else l.setV c.dest { val := BitVec.ofNat 32 (nth 0xFFFFFFFF st i), poison := false }

/-! ## KVAPPEND, KVMAP, KVROT -/

/-- The pages that a KVAPPEND touches. -/
def appendPages (c : Card) : List Nat :=
  let p0 := recW c.record 0x24
  let p1 := p0 + recF c.record 0x18 10 0
  (List.range (p1 / 64 - p0 / 64 + 1)).map (· + p0 / 64)

/-- The writer's entry into a page: ST 1 becomes 2 (12 R284). -/
def pageEnter (s : State) (c : Card) (j : Nat) : Pay Card :=
  (kvEntry s c j).andThen fun e s =>
    if e.st != 1 then .held else (kvState s c j e 2).andThen fun _ s => .ok { c with prog := c.prog + 1 } s

/-- The writer's work on a page once no reader is left, and ST 1 again (12 R284). -/
def pageWrite (s : State) (c : Card) (j : Nat) (work : KvEntry → State → Pay Unit) : Pay Card :=
  (kvEntry s c j).andThen fun e s =>
    if e.rdr != 0 then .held
    else (work e s).andThen fun _ s => (kvState s c j e 1).andThen fun _ s => .ok { c with prog := c.prog + 1 } s

/-- The rows that a KVAPPEND writes in a page (12 R291). -/
def appendRows (c : Card) (j : Nat) (ks vs : List Nat) (e : KvEntry) (s : State) : Pay Unit :=
  let x := kvDesc c.desc
  let p0 := recW c.record 0x24
  let n := recF c.record 0x18 10 0 + 1
  Pay.each (fun s p =>
    let src (b : Nat) (xs : List Nat) : List FVal :=
      ((xs.drop ((p - p0) * x.hd)).take x.hd).map (fval (fmtOf (boxView (cardKernel s c) c.record b).etype.toNat))
    let key := if x.rope = 1 then rotateRow c.desc (p : Int) (src 0 ks) else src 0 ks
    (writeRow s c x.kview 2 (64 * e.pg + p % 64) (key.map (storeCode x.fmt e.ksc))).andThen fun _ s =>
      writeRow s c x.vview 3 (64 * e.pg + p % 64) ((src 1 vs).map (storeCode x.fmt e.vsc)))
    ((List.range 64).map (· + 64 * j) |>.filter fun p => p0 ≤ p && p < p0 + n) s

/-- The page in hand of a list. -/
def pageAt (c : Card) (ps : List Nat) : Nat := nth 0 ps (c.prog / 2)

/-- The next step of a KVAPPEND (12 R291). -/
def appendAdvance (s : State) (c : Card) : Pay Card :=
  let j := pageAt c (appendPages c)
  if c.prog % 2 = 0 then pageEnter s c j
  else (readBox s c 0).andThen fun ks s => (readBox s c 1).andThen fun vs s => pageWrite s c j (appendRows c j ks vs)

/-- KVAPPEND when it starts: a page that is not resident stops it before it writes (12 R291). DESIGN CHOICE (log 105): one being rewritten, with ST 2, holds it as 12 R284
holds a reader, where 12 R291 names ST 1 alone. -/
def appendStart (s : State) (c : Card) : Pay Unit :=
  Pay.each (fun s j => (kvEntry s c j).andThen fun e s =>
    if e.st = 1 then .ok () s else if e.st = 2 then .held else .stop (startError c 0x24) s) (appendPages c) s

/-- The entries of KVMAP and KVROT. -/
def mapPages (c : Card) : List Nat := (List.range (recF c.record 0x18 11 0 + 1)).map (· + recW c.record 0x24)

/-- KVMAP when it starts: a source entry with ST 2, a reserved field or a nonzero fourth word (12 R292). -/
def mapStart (s : State) (c : Card) : Pay Unit :=
  (readBox s c 0).andThen fun xs s =>
    let bad (n : Nat) : Bool :=
      let w := nth 0 xs (4 * n)
      field w 31 30 == 2 || field w 29 24 != 0 || nth 0 xs (4 * n + 3) != 0
    if (List.range (recF c.record 0x18 11 0 + 1)).any bad then .stop (startError c 0x40) s else .ok () s

/-- The next step of a KVMAP: one entry, when it is free (12 R284, R292). -/
def mapAdvance (s : State) (c : Card) : Pay Card :=
  let j := nth 0 (mapPages c) c.prog
  (readBox s c 0).andThen fun xs s => (kvEntry s c j).andThen fun e s =>
    if e.st = 2 || e.rdr != 0 then .held
    else (Pay.each (fun s w => kvPut s c j w (nth 0 xs (4 * c.prog + w))) [0, 1, 2] s).andThen fun _ s =>
      .ok { c with prog := c.prog + 1 } s

/-- The rows of a page rotated by a KVROT and stored back (12 R293). -/
def rotRows (c : Card) (e : KvEntry) (s : State) : Pay Unit :=
  let x := kvDesc c.desc
  Pay.each (fun s n => (readRow s c x.kview 0 (64 * e.pg + n)).andThen fun xs s =>
    let y := rotateRow c.desc (recI c.record 0x28) (scaledRow x.fmt e.ksc xs)
    writeRow s c x.kview 0 (64 * e.pg + n) (y.map (storeCode x.fmt e.ksc))) (List.range 64) s

/-- The next step of a KVROT: a page that is not resident is passed over (12 R293). -/
def rotAdvance (s : State) (c : Card) : Pay Card :=
  let j := pageAt c (mapPages c)
  if c.prog % 2 = 0 then
    (kvEntry s c j).andThen fun e s => if e.st = 0 || e.st = 3 then .ok (c.passTile e.st) s else pageEnter s c j
  else pageWrite s c j (rotRows c)

/-- The steps of a Topsail card: two for each tile or page, one for each entry of a KVMAP. -/
def kvSteps (c : Card) : Nat :=
  match c.op with
  | 0xC0 => 2 * attnCount c
  | 0xC1 => 2 * (appendPages c).length
  | 0xC2 => (mapPages c).length
  | _ => 2 * (mapPages c).length

/-- The next step of a Topsail card that has one left. -/
def kvAdvance (s : State) (c : Card) : Pay Card :=
  match c.op with
  | 0xC0 => attnAdvance s c
  | 0xC1 => appendAdvance s c
  | 0xC2 => mapAdvance s c
  | _ => rotAdvance s c

/-- What a payload leaves of the state, whatever its end. -/
def Pay.stateOr {α : Type} (s : State) (p : Pay α) : State :=
  match p with
  | .ok _ t => t
  | .stop _ t => t
  | .held => s

/-- A Topsail card that stops within a page lets it go: its count leaves RDR, or ST is 1 again (log 84). -/
def kvLetGo (s : State) (c : Card) : State :=
  if c.op = 0xC2 || c.prog % 2 = 0 then s
  else
    let j := if c.op = 0xC0 then attnPage c else pageAt c (if c.op = 0xC1 then appendPages c else mapPages c)
    ((kvEntry s c j).andThen fun e s => if c.op = 0xC0 then kvPut s c j 3 (e.rdr + 2 ^ 32 - 1) else kvState s c j e 1).stateOr s

/-- Bytes a KVROT writes: every page that is not passed over. -/
def rotBytes (c : Card) : Nat :=
  ((mapPages c).length - c.stat.length) * 64 * (kvDesc c.desc).hd * etypeSize (BitVec.ofNat 4 (kvDesc c.desc).fmt)

/-- The lines of a card's boxes on the pools (12 R284). -/
def poolBox (op n : Nat) : Bool := ((op == 0xC0 || op == 0xC1) && (n == 2 || n == 3)) || (op == 0xC3 && n == 0)

end Sys2Proof.Machine
end

