-- ==== Sys2Proof/Machine/Sorrel.lean ====
section
/-! DEFINITION. Sorrel: the words EMBG, EMBU, EMBSWAP, the registry of embedding tables, the payloads of Sorrel cards, and the hot rows
(12 R294-R299). -/

namespace Sys2Proof.Machine

open Sys2Proof

def execEmbg (o : CardOp) (s : State) : Out := issueWord 0xC4 (.embg o) o.g (cardBody (engWord 0xC4 6 o) o.g) s
def execEmbu (o : CardOp) (s : State) : Out := issueWord 0xC5 (.embu o) o.g (cardBody (engWord 0xC5 6 o) o.g) s
def execEmbswap (o : CardOp) (s : State) : Out := issueWord 0xC6 (.embswap o) o.g (cardBody (engWord 0xC6 6 o) o.g) s

/-! ## The registry -/

/-- The table a card names. -/
def cardTid (c : Card) : Nat := recF c.record 0x18 7 0

/-- A registered table of a context. -/
def State.table? (s : State) (ctx tid : Nat) : Option Table := s.tables.find? fun t => t.ctx == ctx && t.tid == tid

/-- A table of the registry changed. -/
def State.modTable (s : State) (ctx tid : Nat) (f : Table → Table) : State :=
  { s with tables := s.tables.map fun t => if t.ctx == ctx && t.tid == tid then f t else t }

/-- The current version of a card's table. -/
def currentOf (s : State) (c : Card) : Option Version :=
  (s.table? (s.ctxOf c.blk) (cardTid c)).bind fun t => t.vers.find? (·.current)

/-- A version by its serial. -/
def versionOf (s : State) (c : Card) : Option Version :=
  (s.table? (s.ctxOf c.blk) (cardTid c)).bind fun t => t.vers.find? (·.serial == c.version)

/-- A version's pin count changed. -/
def Table.pin (t : Table) (serial : Nat) (f : Nat → Nat) : Table :=
  { t with vers := t.vers.map fun v => if v.serial == serial then { v with pins := f v.pins } else v }

/-- A card with the version it works on. -/
def setVersion (s : State) (id serial : Nat) : State :=
  { s with cards := s.cards.map fun c => if c.id == id then { c with version := serial } else c }

/-- A card pins the current version of its table (12 R296). -/
def pinCurrent (s : State) (c : Card) (v : Version) : State :=
  setVersion (s.modTable (s.ctxOf c.blk) (cardTid c) (·.pin v.serial (· + 1))) c.id v.serial

/-- A card lets go of the version it pinned. -/
def unpin (s : State) (c : Card) : State := s.modTable (s.ctxOf c.blk) (cardTid c) (·.pin c.version (· - 1))

/-- No version of the table is current. -/
def Table.retire (t : Table) : Table := { t with vers := t.vers.map fun v => { v with current := false } }

/-- The version that an EMBSWAP installs: none when it removes the table (12 R295). -/
def swapVersion (s : State) (c : Card) : List Version :=
  let kern := cardKernel s c
  if recB c.record 0x18 8 then [] else
    [{ serial := c.id, table := nth noView kern.views (recF c.record 0x18 21 16),
       state := if recB c.record 0x1C 0 then some (nth noView kern.views (recF c.record 0x18 29 24)) else none,
       pins := 0, current := true }]

/-- EMBSWAP makes its version current, or the table without one, in one step; `version` becomes the serial of the old version, or the card's
own (12 R295). Serials are card numbers. -/
def swapStart (s : State) (c : Card) : State :=
  let ctx := s.ctxOf c.blk
  let tid := cardTid c
  let old := currentOf s c
  let s := if (s.table? ctx tid).isSome then s else { s with tables := s.tables ++ [{ ctx := ctx, tid := tid, vers := [], hot := [] }] }
  setVersion (s.modTable ctx tid fun t => { t.retire with vers := t.retire.vers ++ swapVersion s c }) c.id
    (match old with | some v => v.serial | none => c.id)

/-- EMBSWAP may complete: the old version's pin count is zero. -/
def swapDone (s : State) (c : Card) : Bool :=
  match versionOf s c with
  | some v => v.serial == c.id || v.pins == 0
  | none => true

/-- The old version leaves the registry, and a table without versions with it. -/
def swapEnd (s : State) (c : Card) : State :=
  let s := s.modTable (s.ctxOf c.blk) (cardTid c) fun t =>
    { t with vers := t.vers.filter fun v => v.serial != c.version || v.serial == c.id }
  { s with tables := s.tables.filter fun t => !t.vers.isEmpty }

/-! ## Indices -/

/-- Rows and columns of a version's table. -/
def Version.rows (v : Version) : Nat := (nth 0 v.table.ext 1).toNat
def Version.cols (v : Version) : Nat := (nth 0 v.table.ext 0).toNat

/-- An index as an integer: .i32 is signed. -/
def indexVal (s : State) (c : Card) (x : Nat) : Int :=
  if (boxView (cardKernel s c) c.record 0).etype = 4 then (BitVec.ofNat 32 x).toInt else x

/-- The indices of a card lie in the table. -/
def indicesOk (s : State) (c : Card) (v : Version) (xs : List Nat) : Bool :=
  xs.all fun x => 0 ≤ indexVal s c x && indexVal s c x < (v.rows : Int)

/-- A list does not decrease. -/
def rising : List Nat → Bool
  | a :: b :: l => a ≤ b && rising (b :: l)
  | _ => true

/-- The checks of EMBG at its start (12 R296), by record offset. -/
def embgFail (s : State) (c : Card) (v : Version) (idx off : List Nat) : Option Nat :=
  firstSome [
    failIf (!indicesOk s c v idx) 0x40,
    failIf (!rising off || off.headD 0 != 0 || off.getLastD 0 != idx.length) 0x70,
    failIf (cardCount s c 2 != recW c.record 0x1C * v.cols) 0xB8]

/-- The checks of EMBU at its start (12 R297). -/
def embuFail (s : State) (c : Card) (v : Version) (idx : List Nat) : Option Nat :=
  firstSome [
    failIf (recB c.record 0x18 8 && v.state.isNone) 0x19,
    failIf (!indicesOk s c v idx) 0x40,
    failIf (cardCount s c 1 != idx.length * v.cols) 0x88]

/-- The start of EMBG and EMBU: the current version pinned, and the checks. -/
def embStart (s : State) (c : Card) : Pay Unit :=
  match currentOf s c with
  | none => .stop (startError c 0x18) s
  | some v =>
    (readBox s c 0).andThen fun idx s =>
      let done (f : Option Nat) (s : State) : Pay Unit :=
        match f with
        | some o => .stop (startError c o) s
        | none => .ok () (pinCurrent s c v)
      if c.op = 0xC4 then (readBox s c 1).andThen fun off s => done (embgFail s c v idx off) s
      else done (embuFail s c v idx) s

/-! ## Rows -/

/-- The address of an element of a table or state view. -/
def viewAddr (v : View) (cs : List Int) : VAddr := BitVec.ofNat 57 (v.locate 1 cs).addr.toNat

/-- An FP32 code with its NaNs canonical (04 R72). -/
def canon32 (x : Nat) : Nat := if (v32 x).isNaN then Fmt.f32.nan else x

/-- A table's code converted to FP32: exact, its NaNs canonical (04 R72, R84). -/
def widen32 (bytes x : Nat) : Nat := canon32 (if bytes = 2 then x * 65536 else x)

/-- A table's or a state's element read and written: it lies in no box of the card (log 85). -/
def readTable (s : State) (c : Card) (va : VAddr) (n : Nat) : Pay (List Byte) := readVirt s c (noBox va / 2 ^ 16) (noBox va) va n
def writeTable (s : State) (c : Card) (va : VAddr) (bs : List Byte) : Pay Unit := writeVirt s c (noBox va / 2 ^ 16) (noBox va) va bs

/-- One element of a table, as an FP32 code. -/
def tableElem (c : Card) (v : Version) (r : Nat) (s : State) (d : Nat) : Pay Nat :=
  let n := v.table.size
  (readTable s c (viewAddr v.table [(d : Int), (r : Int)]) n).andThen fun bs s =>
    .ok (widen32 n (leNat bs)) s

/-- A row of a table. -/
def tableRow (c : Card) (v : Version) (s : State) (r : Nat) : Pay (List Nat) :=
  Pay.collect (tableElem c v r) (List.range v.cols) s

/-- A row of a table written from codes of its type. -/
def putTableRow (c : Card) (v : Version) (r : Nat) (xs : List Nat) (s : State) : Pay Unit :=
  Pay.each (fun s (x, d) => writeTable s c (viewAddr v.table [(d : Int), (r : Int)]) (natLE v.table.size x)) xs.zipIdx s

/-- RNE(y / n, f32). -/
def divNat32 (y n : Nat) : Nat := (fdivV .f32 .rne false (v32 y) (.fin false n 0)).bits

/-- The pooling of a bag's rows in one column (12 R296). -/
def poolCol (pool : Nat) (xs : List Nat) : Nat :=
  match xs with
  | [] => 0
  | x :: l =>
    let y := l.foldl (fun y x => if pool = 2 then (fminmax .f32 true y x).bits else add32 y x) x
    if pool = 1 then divNat32 y xs.length else y

/-- The payload of EMBG (12 R296). -/
def embgPayload (s : State) (c : Card) : Pay Unit :=
  match versionOf s c with
  | none => .stop (startError c 0x18) s
  | some v =>
    (readBox s c 0).andThen fun idx s => (readBox s c 1).andThen fun off s =>
      (Pay.collect (tableRow c v) (idx.map fun x => (indexVal s c x).toNat) s).andThen fun rows s =>
        let bag (b : Nat) : List (List Nat) := (rows.drop (nth 0 off b)).take (nth 0 off (b + 1) - nth 0 off b)
        let out := (List.range (recW c.record 0x1C)).flatMap fun b =>
          (List.range v.cols).map fun d => poolCol (recF c.record 0x18 9 8) ((bag b).map fun r => nth 0 r d)
        (writeBox s c 2 out).andThen fun _ s => .ok () (unpin s c)

/-- The exact sum of values with IEEE specials. -/
def sumVal (l : List FVal) : FVal :=
  if l.any FVal.isNaN || (l.contains (.inf true) && l.contains (.inf false)) then .nan false
  else if l.contains (.inf true) then .inf true
  else if l.contains (.inf false) then .inf false
  else
    let (x, e) := exactSum l
    .fin (x < 0) x.natAbs e

/-- w - rate * g rounded once to the table's type (12 R297). -/
def stepElem (t : Fmt) (w rate g : Nat) : Nat :=
  (fsumV t .rne false false [v32 w, (fprod (v32 rate) (v32 g)).flip]).bits

/-- The row-wise AdaGrad state and rate: st and q (12 R297). -/
def adaGrad (st eps lr : Nat) (g : List Nat) : Nat × Nat :=
  let sq := sumVal (g.map fun x => fprod (v32 x) (v32 x))
  let mean := (fdivV .f32 .rne false sq (.fin false g.length 0)).bits
  let st2 := add32 st mean
  let den := (fsqrtV .f32 .rne (sumVal [v32 st2, v32 eps])).bits
  (st2, (fdivV .f32 .rne false (v32 lr) (v32 den)).bits)

/-- The distinct indices in order of first appearance. -/
def distinct (l : List Nat) : List Nat := l.foldl (fun acc x => if acc.contains x then acc else acc ++ [x]) []

/-- The gradient of an index: its first appearance, then each later one added (12 R297). -/
def gradOf (idx : List Nat) (grads : List Nat) (cols r : Nat) : List Nat :=
  let at_ (n : Nat) : List Nat := (grads.drop (n * cols)).take cols
  match (List.range idx.length).filter fun n => nth 0 idx n == r with
  | [] => []
  | n :: l => l.foldl (fun g n => (g.zip (at_ n)).map fun x => add32 x.1 x.2) (at_ n)

/-- The update of one row. -/
def updateRow (c : Card) (v : Version) (idx grads : List Nat) (s : State) (r : Nat) : Pay Unit :=
  let g := gradOf idx grads v.cols r
  let t := fmtOf v.table.etype.toNat
  let lr := recW c.record 0x1C
  (tableRow c v s r).andThen fun w s =>
    let put (q : Nat) (s : State) : Pay Unit := putTableRow c v r ((w.zip g).map fun x => stepElem t x.1 q x.2) s
    match recB c.record 0x18 8, v.state with
    | true, some sv =>
      let va := viewAddr sv [(r : Int)]
      (readTable s c va 4).andThen fun bs s =>
        let (st, q) := adaGrad (leNat bs) (recW c.record 0x20) lr g
        (writeTable s c va (natLE 4 st)).andThen fun _ s => put q s
    | _, _ => put lr s

/-- The payload of EMBU (12 R297): every copy of a row holds the update when the card completes (R298). -/
def embuPayload (s : State) (c : Card) : Pay Unit :=
  match versionOf s c with
  | none => .stop (startError c 0x18) s
  | some v =>
    (readBox s c 0).andThen fun idx s => (readBox s c 1).andThen fun grads s =>
      let rows := idx.map fun x => (indexVal s c x).toNat
      (Pay.each (updateRow c v rows grads) (distinct rows) s).andThen fun _ s => .ok () (unpin s c)

/-- Bytes an EMBU writes: each distinct row of its indices once, and under AdaGrad its state word; replicas are not counted (log 86). -/
def embuBytes (s : State) (c : Card) : Nat :=
  match (versionOf s c).or (currentOf s c), readBox s c 0 with
  | some v, .ok idx _ => (distinct idx).length * (v.cols * v.table.size + if recB c.record 0x18 8 then 4 else 0)
  | _, _ => 0

/-- SORREL_HOT_MIGRATE: a row enters or leaves the hot set of a table, at most 4096 rows; its copies hold one value, so results do not
change (12 R298). -/
def execSorrelHotMigrate (ctx tid row : Nat) (into : Bool) (s : State) : Out :=
  .next (s.modTable ctx tid fun t =>
    if into then (if t.hot.contains row || 4096 ≤ t.hot.length then t else { t with hot := t.hot ++ [row] })
    else { t with hot := t.hot.filter (· != row) })

end Sys2Proof.Machine
end

