-- ==== Sys2Proof/Machine/Engines.lean ====
section
/-! DEFINITION. The start and the completion of a job card, and the results a word waits for (06 R143-R146, 11 R264-R268,
12 R281, R289, 22 R400). -/

namespace Sys2Proof.Machine

open Sys2Proof

/-! ## Order -/

/-- Cards in the same queue as a card, issued before it. -/
def earlierInQueue (s : State) (c : Card) : List Card :=
  s.cards.filter fun x => x.queued && x.id < c.id && x.core == c.core && x.eng == c.eng

/-- Two Sorrel cards name the same table. -/
def sameTable (s : State) (a b : Card) : Bool := s.ctxOf a.blk == s.ctxOf b.blk && cardTid a == cardTid b

/-- The order a card's queue keeps (11 R264, 12 R281). Mainsail keeps it within the block; a CPYQ that waits for FIFO space holds the cards behind it. -/
def inOrder (s : State) (c : Card) : Bool :=
  let xs := earlierInQueue s c
  if c.eng < 4 then xs.all fun x => x.started && !waitsSpace s x
  else if c.eng = 4 then xs.all fun x => x.blk != c.blk
  else if c.eng = 5 then xs.isEmpty
  else xs.all fun x => x.started && !sameTable s x c

/-- Every earlier card of the core whose footprint overlaps has completed (06 R144). -/
def clearOfEarlier (s : State) (c : Card) : Bool :=
  let f := cardFoot s c
  s.cards.all fun x => !(x.queued && x.id < c.id && x.core == c.core) || !footsOverlap f (cardFoot s x)

/-- The block of a Mainsail card holds the array (11 R264), and no lease at 0 passes it to a block that waits (11 R274, 20 R362). -/
def holdsArray (s : State) (c : Card) : Bool :=
  c.eng != 4 || ((s.cores[c.core]?).map fun k => k.holder == some c.blk && !(k.lease == 0 && k.contested c.blk)).getD false

/-! ## Registration -/

/-- Another started card's registration holds the card's (06 R145). Between two Topsail cards a pool line is not registered (12 R284). -/
def cardBusy (s : State) (c : Card) (f : Foot) (w : Bool) : Bool :=
  s.cards.any fun x => x.started && x.id != c.id && x.foot.any (fun y => y.1 == f && (w || y.2)) && !(c.pool.contains f && x.pool.contains f)

/-- Whether another agent's registration holds the card's (06 R145, 12 R294). DESIGN CHOICE (log 106): the storage of a current or pinned table holds the cards of
other engines; 12 R294 speaks of Halyard cards, and a Sorrel card whose own box lies there goes on. -/
def lineBusy (s : State) (c : Card) (f : Foot) (w : Bool) : Bool :=
  cardBusy s c f w ||
  (match f with
   | .line pa => (s.warpConflict none pa w).isSome || !(s.peerHits none pa w).isEmpty || (c.eng != 6 && s.sorrelHolds f)
   | .scratch _ _ => false)

/-- A place comes before another; a card or an access that has none arrives last. -/
def placeBefore (a b : Option Nat) : Bool := match a, b with | some x, some y => x < y | _, _ => true

/-- A card, or an access from outside, held earlier for the same line (06 R145, 24 R413). -/
def behindHeld (s : State) (c : Card) (f : Foot) : Bool :=
  match f with
  | .line pa =>
    ((s.heldAt pa).any fun x => x.id != c.id && !(c.pool.contains f && x.pool.contains f) && placeBefore x.place c.place) ||
    (s.inboxAt pa).any fun h => placeBefore (some h.place) c.place
  | .scratch _ _ => false

/-- One line of the footprint registered. A source line of CPYQ without a translation stays unregistered (11 R272); any other stops the
card with SUB 2 (22 R400). -/
def registerFoot (s : State) (c : Card) (l : FootLine) : Pay (List (Foot × Bool)) :=
  let claim (f : Foot) (s : State) : Pay (List (Foot × Bool)) :=
    if lineBusy s c f l.w || behindHeld s c f then .held
    else .ok [(f, l.w)] (match f with | .line pa => s.performLine pa | .scratch _ _ => s)
  match l.at_ with
  | .outside => .ok [] s
  | .scratch b o => claim (.scratch b (o / 128)) s
  | .virt va =>
    let at_ : VAddr := match cardLoc s c l.box l.k with | .virt x => x | _ => va
    let ctx := s.ctxOf c.blk
    match translate s { core := c.core, lane := none } ctx va (if l.w then .write else .read) with
    | (.migrating, _) => .held
    | (.fail, s) => if c.op = 0xB3 && l.box = 0 then .ok [] s else .stop (payError c 2 at_ l.box l.k) s
    | (.ok pa, s) => if s.unreachable ctx pa then .stop (payError c 4 at_ l.box l.k) s else claim (.line (lineOf pa)) s

/-- A card with the pool lines among its boxes' lines (12 R284). -/
def withPool (s : State) (c : Card) : Card :=
  { c with pool := ((cardLines s c).filter fun l => poolBox c.op l.box).filterMap fun l => footOf s (s.ctxOf c.blk) l.at_ }

/-- The source line of a CPYQ that was left unregistered (11 R272). -/
def FootLine.lost? (l : FootLine) (claims : List (Foot × Bool)) : Option VAddr :=
  match l.at_, claims with
  | .virt va, [] => some va
  | _, _ => none

/-- The whole footprint registered (06 R145): the card as it starts. -/
def registerFoots (s : State) (c : Card) : Pay Card :=
  let ls := cardLines s c
  (Pay.collect (fun s l => registerFoot s c l) ls s).andThen fun xs s =>
    .ok { c with started := true, foot := xs.flatten, place := none, lost := (ls.zip xs).filterMap fun y => y.1.lost? y.2 } s

/-! ## Start -/

/-- The bytes a card's payload writes to memory or FIFO that are still to be delivered to its byte barrier (05 R120). -/
def outstanding (s : State) (c : Card) : Nat :=
  if c.op ≤ 0xB2 then copyDue s c
  else match c.op with
    | 0xB3 => cpyqTotal s c - c.prog
    | 0xB8 => drainBytes s c
    | 0xBA => drainBytes s c
    | 0xC0 => attnBytes s c
    | 0xC1 => 2 * (recF c.record 0x18 10 0 + 1) * (kvDesc c.desc).hd * etypeSize (BitVec.ofNat 4 (kvDesc c.desc).fmt)
    | 0xC2 => 12 * (recF c.record 0x18 11 0 + 1)
    | 0xC3 => rotBytes c
    | 0xC4 => cardCount s c 2 * 4
    | 0xC5 => embuBytes s c
    | _ => 0

/-- What each kind does when it starts: the checks left for the start (11 R275, 12 R291, R292, R296, R297), the lease (11 R274), the scales of an MMA
(11 R273), the request of a CPYQ card, the swap of a table's version (12 R295). -/
def kindStart (s : State) (c : Card) : Pay Unit :=
  if c.op = 0xB3 then .ok () (askPush s c.core)
  else if c.eng = 4 then
    let s := s.modCore c.core fun k => { k with lease := k.lease - 1 }
    if mmaStartFail s c then .stop (startError c 0x19) s
    else if c.op = 0xB8 then mmaScales s c
    else .ok () s
  else match c.op with
    | 0xC1 => appendStart s c
    | 0xC2 => mapStart s c
    | 0xC4 => embStart s c
    | 0xC5 => embStart s c
    | 0xC6 => .ok () (swapStart s c)
    | _ => .ok () s

/-- The place behind every held card and access. -/
def nextPlace (s : State) : Nat :=
  s.inbox.foldl (fun n h => max n (h.place + 1)) (s.cards.foldl (fun n c => match c.place with | some p => max n (p + 1) | none => n) 0)

/-- A card held for its registration: it keeps the place it arrived at (06 R145). -/
def Card.hold (c : Card) (n : Nat) (foot : List (Foot × Bool)) : Card := { c with place := some (c.place.getD n), foot := foot }

/-- The storage that an EMBSWAP makes part of Sorrel's footprint: the lines of its version's table and state views (12 R294). -/
def swapFoot (s : State) (c : Card) : List (Foot × Bool) :=
  if c.op != 0xC6 then []
  else (swapVersion s c).flatMap fun v => (viewLines s (s.ctxOf c.blk) v.table ++ (v.state.elim [] (viewLines s (s.ctxOf c.blk)))).map fun pa => (.line pa, true)

/-- A line of a card's footprint that another agent's registration, or an agent held earlier, keeps from it. -/
def footBusy (s : State) (c : Card) (x : Foot × Bool) : Bool := lineBusy s c x.1 x.2 || behindHeld s c x.1

/-- A card that cannot register takes a place when another agent's registration is the cause. -/
def holdCard (s : State) (c0 : Card) : State :=
  let c := withPool s c0
  let f := cardFoot s c ++ swapFoot s c
  if f.any fun x => footBusy s c x then putCard s (c.hold (nextPlace s) f) else s

/-- A card registers its footprint and starts, or stays. The storage of the version that an EMBSWAP makes current is registered with it (12 R294, 06 R145). -/
def beginCard (s0 : State) (c : Card) : State :=
  let new := swapFoot s0 c
  let s := new.foldl (fun s x => match x.1 with | .line pa => s.performLine pa | .scratch _ _ => s) s0
  if new.any fun x => footBusy s c x then holdCard s0 c
  else match registerFoots s (withPool s c) with
  | .held => holdCard s0 c
  | .stop t s2 => failCard (releaseSlot s2 { c with started := true }) c (outstanding s2 c) t
  | .ok c2 s2 =>
    let s3 := releaseSlot (putCard s2 c2) c2
    match kindStart s3 c2 with
    | .held => s0
    | .stop t s4 => failCard s4 c2 (outstanding s4 c2) t
    | .ok _ s4 => s4

/-- The card with a number that is queued and has not started. -/
def State.queuedCard? (s : State) (id : Nat) : Option Card := s.cards.find? fun c => c.id == id && c.queued && !c.started

/-- CARD_START (11 R264, R268). -/
def execCardStart (id : Nat) (s : State) : Out :=
  match s.queuedCard? id with
  | none => .next s
  | some c =>
    if !inOrder s c then .next s
    else
      let g := match c.guard, s.blocks[c.blk]? with
        | some n, some k => k.slot n
        | _, _ => .isTrue
      match g with
      | .unset => .next s
      | .isFalse => .next (discardCard s c)
      | .isTrue => .next (if clearOfEarlier s c && holdsArray s c then beginCard s c else s)

/-! ## Completion -/

/-- What a started card holds besides its footprint let go: a page of the KV cache, the pinned version of a table (12 R284, R296). -/
def letGo (s : State) (c : Card) : State := if c.eng = 5 then kvLetGo s c else if c.op = 0xC4 || c.op = 0xC5 then unpin s c else s

/-- A started card that an error stops (11 R267). -/
def stopCard (s : State) (c : Card) (due : Nat) (t : LaneTrap) : State := failCard (letGo s c) c due t

/-- A payload's end: completion, or the error that stopped it. -/
def endPay {α : Type} (s : State) (c : Card) (due : Nat) (p : Pay α) (ok : α → State → State) : State :=
  match p with
  | .held => s
  | .stop t s => stopCard s c due t
  | .ok x s => ok x s

/-- A card that completed with STATUS 1. -/
def finished (c : Card) (due : Nat) {α : Type} (_ : α) (s : State) : State := completeCard s c 1 due

/-- The end of an MMA whose groups are done: its drain, then STATUS 3 with SUB 3 when poison was met (11 R275, R276). DESIGN CHOICE (log 91): of a drain
that stops with an error and the poison met, the drain's error is the one that is raised. -/
def mmaEnd (s : State) (c : Card) (due : Nat) : State :=
  let ok (_ : Unit) (s : State) : State :=
    match c.error with
    | none => completeCard s c 1 due
    | some t => failCard s c due t
  if recB c.record 0x18 2 then endPay s c due (drainPayload s c) ok else ok () s

/-- MMA: the rows whose bytes have arrived, then the end (11 R273-R277). -/
def mmaFinish (s : State) (c : Card) (due : Nat) : State :=
  let x := mmaAdvance s c
  let s := putCard x.2 x.1
  if mmaDone x.1 then mmaEnd s x.1 due else s

/-- A Topsail card: its next step, or its end (12 R284, R288-R293). DESIGN CHOICE (log 94): the statuses of ATTN are written at its completion alone, so
that d keeps its value under a card that is discarded or stops with an error. -/
def kvFinish (s : State) (c : Card) (due : Nat) : State :=
  if c.prog < kvSteps c then
    match kvAdvance s c with
    | .held => if c.op = 0xC0 then noteWait s c else s
    | .stop t s => stopCard s c due t
    | .ok c2 s => putCard s c2
  else if c.op = 0xC0 then
    match attnFinish s c with
    | .held => s
    | .stop t s => stopCard s c due t
    | .ok _ s => completeCard (writeStatuses s c c.stat) c 1 due
  else completeCard s c 1 due

/-- CARD_COMPLETE: what is left of the payload, then the completion writes (11 R266); a payload that must still wait leaves the card as it
is. -/
def finishCard (s : State) (c : Card) : State :=
  let due := outstanding s c
  if c.op ≤ 0xB2 then endPay s c due (copyPayload s c) (finished c due)
  else match c.op with
    | 0xB3 => if c.prog = cpyqTotal s c then completeCard s c 1 0 else s
    | 0xB8 => mmaFinish s c due
    | 0xBA => endPay s c due (drainPayload s c) (finished c due)
    | 0xBB => completeCard (s.modBlock c.blk fun k => k.setRows c.tile 128 fun _ _ => 0) c 1 0
    | 0xC0 => kvFinish s c due
    | 0xC1 => kvFinish s c due
    | 0xC2 => kvFinish s c due
    | 0xC3 => kvFinish s c due
    | 0xC4 => endPay s c due (embgPayload s c) (finished c due)
    | 0xC5 => endPay s c due (embuPayload s c) (finished c due)
    | _ => if swapDone s c then completeCard (swapEnd s c) c 1 0 else s

def execCardComplete (id : Nat) (s : State) : Out :=
  match s.startedCard? id with
  | none => .next s
  | some c => .next (finishCard s c)

end Sys2Proof.Machine
end

