-- ==== Sys2Proof/Machine/Sched.lean ====
section
/-! DEFINITION. The queue scheduler's placement: resources of a core, spreading over issue slots, creation of blocks, order of service, gang
reservations and lending (02 R27-R31, 03 R50, 20 R359-R361, 21 R390). -/

namespace Sys2Proof.Machine

open Sys2Proof

/-! ## Resources of a core -/

/-- What one issue slot holds: the numbers of its native contexts in use, and the register bytes (01 R20). -/
structure SlotUse where
  used  : List Nat
  bytes : Nat
  deriving DecidableEq, Repr

/-- The blocks resident on a core. -/
def State.resident (s : State) (core : Nat) : List Block := s.blocks.filter fun k => k.place == .resident && k.core == core

/-- The kernel of a block. -/
def State.kernelIn (s : State) (k : Block) : Option Kernel := (s.grids[k.grid]?).map (·.kernel)

/-- The use of one slot of a core, its contexts numbered within the slot. -/
def slotUse (s : State) (core slot : Nat) : SlotUse :=
  (s.resident core).foldl (fun u k =>
    let nv := ((s.kernelIn k).map (·.nv)).getD 0
    (k.warps.filter (·.slot == slot)).foldl (fun u w =>
      let c := if w.ctxIdx = w.ctxIdx2 then [w.ctxIdx % Config.slotContexts] else [w.ctxIdx % Config.slotContexts, w.ctxIdx2 % Config.slotContexts]
      { used := u.used ++ c, bytes := u.bytes + c.length * nv * 128 }) u) { used := [], bytes := 0 }

/-- The free contexts of a slot, lowest first. -/
def SlotUse.free (u : SlotUse) : List Nat := (List.range Config.slotContexts).filter fun k => !u.used.contains k

/-- The slot that takes n contexts of nv registers: the most free contexts, the lowest number winning ties (02 R30, 01 R20). -/
def pickSlot (us : List SlotUse) (n nv : Nat) : Option Nat :=
  (us.zipIdx.foldl (fun (b : Option (Nat × Nat)) (u, k) =>
    let f := u.free.length
    if f < n || Config.slotRegBytes < u.bytes + n * nv * 128 then b
    else match b with
      | some (x, _) => if x < f then some (f, k) else b
      | none => some (f, k)) none).map (·.2)

/-- The native contexts of w warps: slot, first and second context of each. Context indexes are slot * 24 + k (21 R384). -/
def spread (wide : Bool) (nv : Nat) : Nat → List SlotUse → Option (List (Nat × Nat × Nat))
  | 0, _ => some []
  | w + 1, us =>
    let n := if wide then 2 else 1
    match pickSlot us n nv with
    | none => none
    | some k =>
      let u := nth { used := [], bytes := 0 } us k
      let c := u.free.take n
      let a := c.headD 0
      let b := c.getLastD 0
      (spread wide nv w (us.set k { used := u.used ++ c, bytes := u.bytes + n * nv * 128 })).map fun l => (k, a, b) :: l

/-- Whether a block of a kernel fits on a core, and its contexts (20 R359). -/
def fitsOn (s : State) (k : Kernel) (threads core : Nat) : Option (List (Nat × Nat × Nat)) :=
  let bs := s.resident core
  let kern (b : Block) : Nat := ((s.kernelIn b).map (·.nacc)).getD 0
  let tiles := bs.foldl (fun n b => n + kern b) 0
  let lines := bs.foldl (fun n b => n + b.warps.foldl (fun n w => n + w.quota) 0) 0
  let bytes := bs.foldl (fun n b => n + b.region) 0
  if 8 < tiles + k.nacc || Config.lineStoreLines < lines + k.warps threads * k.quota ||
     Config.scratchBytes < bytes + k.regionSize threads then none
  else spread k.wide k.nv (k.warps threads) ((List.range 4).map (slotUse s core))

/-- A core that a pre-emption has chosen: nothing new is placed on it (20 R365 step 1). -/
def State.givenUp (s : State) (core : Nat) : Bool := s.preempts.any fun x => x.cores.contains core

/-- The cores of a partition that a block may be placed on, ascending. -/
def partCores (s : State) (p : Nat) : List Nat :=
  match s.parts[p]? with
  | some x => (List.range Config.numCores).filter fun c => x.a.cores.getLsbD c && !s.givenUp c
  | none => []

/-- The cores of a partition on a die. -/
def dieCores (s : State) (p d : Nat) : List Nat := (partCores s p).filter fun c => dieOf c = d

/-! ## Creation -/

/-- A lane at its warp's creation (03 R50, R57; 09 R204). -/
def newLane (nv : Nat) (retired : Bool) : Lane :=
  { v := List.replicate nv zeroPW, p := List.replicate 7 { val := false, poison := false }, flags := 0, fpctl := 0, cycleH := 0,
    tf := { pc := 0, code := 0, word := 0, addr := 0, mask := 0, aux := 0 }, origin := none, spilled := 0, stack := [],
    binds := List.replicate 8 .unbound, retired := retired, handler := false, lastPage := none }

/-- The 64 scalars of a warp: the argument words, then zeros (03 R50). -/
def argScalars (args : List W32) : List PW := (List.range 64).map fun i => { val := nth 0 args i, poison := false }

/-- The arguments a grid's warps start with: NARG words, or every word the scheduler gives a node's block or the dump routine. -/
def Grid.scalars (g : Grid) : List PW := argScalars g.args

/-- A warp at its creation (02 R27, R28; 03 R50), pending in its slot until its first turn (02 R46): one entry at the kernel's entry. An entry address that is no clause header traps the
lanes with BAD_TARGET (07 R173). -/
def newWarp (s : State) (g : Grid) (core w slot c1 c2 : Nat) : Warp :=
  let k := g.kernel
  let lanes := (List.range k.width).map fun i => newLane k.nv (g.threads ≤ w * k.width + i)
  let mask := maskOf ((List.range k.width).filter fun i => w * k.width + i < g.threads)
  let st : EState := match s.badTarget core g k.entry with
    | none => .runnable
    | some sub => .trapParked ((lanesOf mask).map fun i => mkTrap i 4 sub (BitVec.ofNat 57 k.entry.toNat) 0) 0
  { slot := slot, ctxIdx := slot * 24 + c1, ctxIdx2 := slot * 24 + c2, active := false, ready := none, lanes := lanes, s := g.scalars,
    flags := List.replicate 12 0,
    entries := [{ pc := k.entry, prio := s.prioAt core g k.entry 0, mask := mask, st := st, age := 0, promoted := none,
                  overflow := false, handler := false, retry := false, woken := false, since := s.cycle, begun := none, stay := none }],
    predCnt := 0, mispCnt := 0, replCnt := 0, fuseCnt := 0, splitCnt := 0, parkCnt := 0, scont := 0, snest := 0,
    quota := k.quota, loaned := 0, held := [], region := [], ending := false, stores := [], records := [], hist := [], pred := none, cur := none,
    lastIssue := s.cycle, issued := none, promotions := 0, errs := [] }

/-- The Mainsail latch of a new block: zeros in E4M3 with scale 1.0 (11 R274). -/
def newLatch : Latch := { fmt := 11, sw := 0x3F800000, tile := [], mark := none }

/-- A block at its placement (03 R50, 10 R247, 11 R268, R274). -/
def newBlock (s : State) (gi : Nat) (g : Grid) (lin core : Nat) (ctxs : List (Nat × Nat × Nat)) (saved : PAddr) (redone : Nat) : Block :=
  let k := g.kernel
  { grid := gi, lin := lin, core := core, place := .resident, halted := false, haltAt := 0, tickets := [], relaunched := redone, ending := false,
    warps := ctxs.zipIdx.map fun (c, w) => newWarp s g core w c.1 c.2.1 c.2.2,
    bytes := g.fill, region := k.regionSize g.threads, frames := k.framesAt,
    bars := List.replicate 8 noBarrier, gbars := List.replicate 4 noBarrier, guards := List.replicate 16 .unset,
    tiles := List.replicate k.nacc [], latch := newLatch, aFifo := [], wFifo := [], savedAt := saved, recorded := false, cards := [] }

/-- The traps that the lanes of a block are parked with. -/
def Block.traps (k : Block) : List LaneTrap :=
  k.warps.flatMap fun w => w.entries.flatMap fun e => match e.st with | .trapParked ts _ => ts | _ => []

/-- A queue whose block is resident on the core in this window (20 R370). -/
def Core.serve (q : Nat) (c : Core) : Core := { c with served := if c.served.contains q then c.served else c.served ++ [q] }

/-- One block placed on a core, if it fits there and its record fits the pool (20 R359, 21 R390). Chervil's own block takes no record. -/
def placeOn (s : State) (gi lin core redone : Nat) : Option State :=
  match s.grids[gi]? with
  | none => none
  | some g =>
    let spot := if g.sysCtx then some 0 else
      s.poolSpot g.part (roundUp (g.kernel.recordSize g.threads (7 * Config.queueDepth)) 256)
    match fitsOn s g.kernel g.threads core, spot with
    | some cs, some a =>
      let k := newBlock s gi g lin core cs a redone
      some (({ s with blocks := s.blocks ++ [k] }.modCore core (Core.serve g.queue)).freezeOn k.traps)
    | _, _ => none

/-- n blocks from a linear index on, each on the lowest of the cores that can hold it. -/
def placeRun (cores : List Nat) (gi redone : Nat) : Nat → Nat → State → Option State
  | 0, _, s => some s
  | n + 1, lin, s =>
    match cores.findSome? fun c => placeOn s gi lin c redone with
    | some s => placeRun cores gi redone n (lin + 1) s
    | none => none

/-! ## Reservations -/

/-- Arithmetic-clock cycles of n microseconds. -/
def State.micros (s : State) (n : Nat) : Nat := n * s.mstat.fclk.toNat

/-- The reservation on a die: at most one gang holds one (20 R361). -/
def State.resvOn (s : State) (d : Nat) : Option Reservation := s.resv.find? (·.die == d)

/-- A reservation lends while its gang has waited less than 64 microseconds (20 R361). -/
def Reservation.lends (s : State) (r : Reservation) : Bool := !r.noLend && s.cycle - r.since < s.micros 64

/-- A gang of a grid may use a die of its partition: no other grid reserves there, or the reservation lends to a smaller gang (20 R361). -/
def mayUse (s : State) (gi gang p d : Nat) : Bool :=
  match s.resvOn d with
  | none => true
  | some r => r.grid == gi || r.part != p || (r.lends s && gang < ((s.grids[r.grid]?).map (·.kernel.gang)).getD 1)

/-- The blocks of a grid. -/
def Grid.total (g : Grid) : Nat := g.gx * g.gy * g.gz

/-- The pending-launch entries that a placement of a grid's blocks frees: a LAUNCH's when its last block is placed, a record's when the
block that receives it starts (12 R300). -/
def freePending (s : State) (gi : Nat) : State :=
  match s.grids[gi]? with
  | none => s
  | some g =>
    let s := g.pends.foldl (fun s d => s.modDie d fun x => { x with pending := x.pending - 1 }) s
    let done := decide (g.total ≤ g.next)
    let s := match g.die with
      | some d => if done then s.modDie d fun x => { x with pending := x.pending - 1 } else s
      | none => s
    s.modGrid gi fun g => { g with pends := [], die := if done then none else g.die }

/-- The numbers of a grid's blocks joined to the lent list of a die's reservation. -/
def noteLent (s : State) (gi p d : Nat) (bs : List Nat) : State :=
  { s with resv := s.resv.map fun r =>
      if r.part == p && r.die == d && r.grid != gi then { r with lent := r.lent ++ bs } else r }

/-- The dies that a gang of a grid may use, ascending. -/
def usableDies (s : State) (gi gang p : Nat) : List Nat := (List.range Config.numDies).filter (mayUse s gi gang p)

/-- The next gang of a grid placed: one block on the lowest core of the partition that can hold it, a larger gang on the lowest die where all
of it fits; a grid with a reservation, on its die (20 R360, R361). -/
def gangFits (s : State) (gi : Nat) (g : Grid) : Option State :=
  let n := g.kernel.gang
  let dies := match s.resv.find? (·.grid == gi) with
    | some r => [r.die]
    | none => usableDies s gi n g.part
  let runs : List (List Nat) := dies.map (dieCores s g.part)
  (if n = 1 then [runs.flatten] else runs).findSome? fun cs => placeRun cs gi 0 n g.next s

/-- A core stands in an idle state, which it leaves before a launch that needs it begins (20 R371). -/
def State.rests (s : State) (core : Nat) : Bool := ((s.cores[core]?).map fun c => c.idle != 0).getD false

/-- A grid whose next gang has been placed: it waits no more and holds no reservation. -/
def Grid.placed (n : Nat) (g : Grid) : Grid := { g with next := g.next + n, waitAt := none }

/-- The queue served last among those of a PRIO (20 R360). -/
def Part.turnTo (prio q : Nat) (x : Part) : Part := { x with rr := x.rr.set prio q }

/-- The next gang of a grid made resident, when it fits and no core it takes has to leave an idle state first. -/
def placeGang (s : State) (gi : Nat) : Option State :=
  match s.grids[gi]? with
  | none => none
  | some g =>
    match gangFits s gi g with
    | none => none
    | some s2 =>
      let fresh := s2.blocks.drop s.blocks.length
      if fresh.any fun k => s.rests k.core then none
      else
        let d := ((fresh.map fun k => dieOf k.core).head?).getD 0
        let s3 := s2.modGrid gi (Grid.placed g.kernel.gang)
        let s4 := noteLent { s3 with resv := s3.resv.filter (·.grid != gi) } gi g.part d ((List.range s3.blocks.length).drop s.blocks.length)
        let prio := (assocGet Queue.fresh s.queues g.queue).prio.toNat
        some (freePending { s4 with parts := s4.parts.modify g.part (Part.turnTo prio g.queue) } gi)

/-! ## Order of service -/

/-- A context in which blocks may be placed. -/
def State.ctxPlaces (s : State) (ctx : Nat) : Bool :=
  match (s.ctxs.find? (·.1 == ctx)).map (·.2) with
  | some c => c.life == .live && !c.noPlace
  | none => true

/-- A grid that has blocks to place in a partition. -/
def wantsPlace (s : State) (p gi : Nat) : Bool :=
  match s.grids[gi]? with
  | some g => g.status == .running && g.next < g.total && g.part == p && !g.sysCtx && s.ctxPlaces g.ctx
  | none => false

/-- The rank of a grid: its queue's priority, then its queue's turn, then its age (20 R360). Lower is first. -/
def serveKey (s : State) (p gi : Nat) : Nat :=
  match s.grids[gi]? with
  | some g =>
    let q := assocGet Queue.fresh s.queues g.queue
    let rr := nth 0 (((s.parts[p]?).map (·.rr)).getD []) q.prio.toNat
    ((7 - q.prio.toNat) * 4096 + (g.queue + 4095 - rr) % 4096) * 2 ^ 64 + gi
  | none => 0

/-- Insertion by a key. -/
def insertBy (key : Nat → Nat) (x : Nat) : List Nat → List Nat
  | [] => [x]
  | a :: l => if key x ≤ key a then x :: a :: l else a :: insertBy key x l

/-- A list sorted by a key. -/
def sortBy (key : Nat → Nat) (l : List Nat) : List Nat := l.foldr (insertBy key) []

/-- The grids of a partition in the order they are served; those that hold a reservation first. -/
def serveOrder (s : State) (p : Nat) : List Nat :=
  let l := sortBy (serveKey s p) ((List.range s.grids.length).filter (wantsPlace s p))
  let held (g : Nat) : Bool := s.resv.any (·.grid == g)
  l.filter held ++ l.filter fun g => !held g

/-- A warp on other native contexts, pending there. -/
def Warp.onto (w : Warp) (c : Nat × Nat × Nat) : Warp :=
  { w with active := false, ready := none, slot := c.1, ctxIdx := c.1 * 24 + c.2.1, ctxIdx2 := c.1 * 24 + c.2.2 }

/-- A saved block put back on a core. -/
def Block.seat (k : Block) (core : Nat) (cs : List (Nat × Nat × Nat)) : Block :=
  { k with core := core, place := .resident, warps := (k.warps.zip cs).map fun x => x.1.onto x.2 }

/-- Saved blocks seated one after another, each on the lowest of the cores that can hold it. -/
def seatRun (g : Grid) (cores : List Nat) : List Nat → State → Option State
  | [], s => some s
  | b :: bs, s =>
    match cores.findSome? fun c => (fitsOn s g.kernel g.threads c).map fun cs => (c, cs) with
    | some x => seatRun g cores bs ((s.modBlock b fun k => k.seat x.1 x.2).modCore x.1 (Core.serve g.queue))
    | none => none

/-- A saved block's gang seated again: a block of its own on any core of its partition, a larger gang on its die (20 R365). What another grid's gang has
reserved it takes only by lending (20 R360, R361). -/
def reseat (s : State) (b : Nat) : Option State :=
  match s.blocks[b]? with
  | none => none
  | some k =>
    match s.grids[k.grid]? with
    | none => none
    | some g =>
      let bs := gangOf s b
      let p := g.part
      let ds := usableDies s k.grid g.kernel.gang p
      if k.place != .saved then none
      else
        (seatRun g (if g.kernel.gang ≤ 1 then (ds.map (dieCores s p)).flatten
          else if ds.contains (dieOf k.core) then dieCores s p (dieOf k.core) else []) bs s).map fun t => noteLent t k.grid p (dieOf (t.coreOf b)) bs

/-- Every saved block of its grid with a lower linear index, outside its gang, has returned (20 R365). -/
def firstBack (s : State) (b : Nat) : Bool :=
  match s.blocks[b]? with
  | some k => s.blocks.zipIdx.all fun (x, i) => x.place != .saved || x.grid != k.grid || k.lin ≤ x.lin || (gangOf s b).contains i
  | none => false

/-- A saved block of a partition is ready to return. -/
def restoreReady (s : State) (p : Nat) : Bool :=
  s.blocks.zipIdx.any fun (k, b) =>
    k.place == .saved && ((s.grids[k.grid]?).map (·.part)).getD 8 == p &&
    s.ctxPlaces (s.ctxOf b) && firstBack s b && (reseat s b).isSome

/-- The next gang of a grid of the partition cannot be placed as things stand. -/
def waitsPlace (s : State) (p gi : Nat) : Bool :=
  wantsPlace s p gi && ((s.grids[gi]?).map fun g => (gangFits s gi g).isNone).getD false

/-- A grid whose gang waits, from the first cycle on. -/
def Grid.waits1 (now : Nat) (g : Grid) : Grid := { g with waitAt := some (g.waitAt.getD now) }

/-- The gangs of a partition that cannot be placed wait from now on (20 R361). -/
def noteWaits (p : Nat) (s : State) : State :=
  ((List.range s.grids.length).filter (waitsPlace s p)).foldl (fun t gi => t.modGrid gi (Grid.waits1 s.cycle)) s

/-- BLOCK_PLACE: the first grid in order whose next gang fits; saved blocks go before (20 R360). -/
def execBlockPlace (p : Nat) (s : State) : Out :=
  if restoreReady s p then .next (noteWaits p s)
  else match (serveOrder s p).findSome? (placeGang s) with
    | some s => .next (noteWaits p s)
    | none => .next (noteWaits p s)

/-- The cores that a placement of a partition takes as things stand: of a saved block that may return, and of the next gang of each grid (20 R371). -/
def neededBy (s : State) (p : Nat) : List Nat :=
  let old := (List.range s.blocks.length).flatMap fun b =>
    if ((s.blocks[b]?).bind fun k => s.grids[k.grid]?).any (fun g => g.part == p) && s.ctxPlaces (s.ctxOf b) && firstBack s b then
      (match reseat s b with | some t => (gangOf s b).map t.coreOf | none => [])
    else []
  let new := (List.range s.grids.length).flatMap fun gi =>
    if wantsPlace s p gi then
      (match (s.grids[gi]?).bind (gangFits s gi) with | some t => (t.blocks.drop s.blocks.length).map (·.core) | none => [])
    else []
  old ++ new

/-- The free native contexts of a die's cores in a partition. -/
def freeContexts (s : State) (p d : Nat) : Nat :=
  (dieCores s p d).foldl (fun n c => (List.range 4).foldl (fun n k => n + (slotUse s c k).free.length) n) 0

/-- The die of a partition with the most free contexts, the lowest winning ties. -/
def roomiest (s : State) (p : Nat) : Nat :=
  ((List.range Config.numDies).foldl (fun (b : Nat × Nat) d =>
    if (dieCores s p d).isEmpty then b
    else if freeContexts s p d + 1 > b.1 then (freeContexts s p d + 1, d) else b) (0, 0)).2

/-- The gangs without a reservation that wait: partition, grid and the cycle since which they wait, the longest wait first (20 R361). -/
def waitingGangs (s : State) : List (Nat × Nat × Nat) :=
  let l := (List.range 8).flatMap fun p => (List.range s.grids.length).filterMap fun gi =>
    match (s.grids[gi]?).bind (·.waitAt) with
    | some t => if waitsPlace s p gi && !s.resv.any (·.grid == gi) then some (p, gi, t) else none
    | none => none
  (sortBy (fun k => (nth (0, 0, 0) l k).2.2) (List.range l.length)).map (nth (0, 0, 0) l)

/-- GANG_RESERVE: of the gangs that wait for a die, the one that has waited longest reserves it, if it is of this partition and the die is not
reserved (20 R361). -/
def execGangReserve (p : Nat) (s : State) : Out :=
  let s := noteWaits p s
  let l := waitingGangs s
  match l.find? (·.1 == p) with
  | none => .next s
  | some (_, gi, t) =>
    let d := roomiest s p
    let first := l.find? fun x => roomiest s x.1 == d
    if (s.resvOn d).isSome || first.map (·.2.1) != some gi then .next s
    else .next { s with resv := s.resv ++ [{ grid := gi, part := p, die := d, since := t, lent := [], noLend := false }] }

/-- GANG_LEND_CUTOFF: from 64 microseconds on nothing is lent (20 R361). -/
def execGangLendCutoff (p : Nat) (s : State) : Out :=
  .next { s with resv := s.resv.map fun r =>
    if r.part == p && s.micros 64 ≤ s.cycle - r.since then { r with noLend := true } else r }

/-- A launch is unplaceable when one gang does not fit an empty die of its partition, or its records the empty pool (20 R359). -/
def unplaceable (s : State) (g : Grid) : Bool :=
  let p := g.part
  let empty : State := { s with blocks := [], grids := [g], preempts := [] }
  let n := g.kernel.gang
  (List.range Config.numDies).all fun d => (placeRun (dieCores s p d) 0 0 n 0 empty).isNone

end Sys2Proof.Machine
end

