-- ==== Sys2Proof/Machine/Launch.lean ====
section
/-! DEFINITION. Launches: the ring entries a queue's scheduler takes, completion records, the words LAUNCH and EMIT, and graph nodes
(12 R300-R303, 20 R356-R358, R363, R364, 18 R334). -/

namespace Sys2Proof.Machine

open Sys2Proof

/-! ## Ring entries -/

/-- A 64-bit word of a byte list. -/
def recQ (r : List Byte) (o : Nat) : Nat := leNat ((r.drop o).take 8)

/-- A kernel for an entry that names none. -/
def noKernel : Kernel :=
  { obj := { va := 0, codeOff := 0, codeLen := 0, khOff := 0, nkern := 0, secver := 0, stepping := 0, signed := false },
    kidx := 0, nv := 8, wide := false, quad := false, gang := 1, nacc := 0, narg := 0, quota := 1, exact := false, views := [],
    csview := none, handler := none, idemp := false, entry := 0, priv := false }

/-- Where host software's addresses lie: local, or in host memory. -/
def hostAddr (host : Bool) (pa : Nat) : PAddr := if host then hostBase + pa else pa

/-- A queue's descriptor. -/
def State.queue (s : State) (q : Nat) : Queue := assocGet Queue.fresh s.queues q
def State.modQueue (s : State) (q : Nat) (f : Queue → Queue) : State := { s with queues := assocSet s.queues q (f (s.queue q)) }

/-- The bytes of the entry at the head of a ring (20 R356). -/
def headEntry (s : State) (q : Queue) : List Byte :=
  s.bytes (hostAddr q.rhost (q.ring.toNat + 128 * (q.head.toNat % 2 ^ q.logn.toNat))) 128

/-- A malformed ring entry (20 R357 step 1). -/
def ringReject (r : List Byte) : Option Reject :=
  firstReject ([
    rejectIf (field (recQ r 0) 63 57 != 0) 9 7, rejectIf (recF r 8 31 16 != 0) 9 0x0A,
    rejectIf (recF r 0x10 10 0 < 1 || 1024 < recF r 0x10 10 0) 9 0x10, rejectIf (recF r 0x10 31 11 != 0) 9 0x11,
    rejectIf (field (recQ r 0x20) 2 1 != 0) 9 0x20, rejectIf (field (recQ r 0x20) 63 52 != 0) 9 0x26] ++
    [rejectIf ([0x28, 0x2C, 0x30, 0x34, 0x38, 0x3C].any fun o => recW r o != 0) 9 0x28])

/-- A context's table entry has V set; and SIGREQ (19 R345). -/
def State.ctxValid (s : State) (ctx : Nat) : Bool := (s.word64 (s.ctxEntry ctx)).getLsbD 0
def State.sigReq (s : State) (ctx : Nat) : Bool := ctx != sysCtx && (s.word64 (s.ctxEntry ctx)).getLsbD 1

/-- SECFUSE, which all dies hold alike (18 R336). -/
def State.secfuse (s : State) : Nat := ((s.dies[0]?).map (·.secfuse.toNat)).getD 0

/-- The registry of a context's signed objects. -/
def State.registry (s : State) (ctx : Nat) : List (VAddr × List (BitVec 256)) :=
  (((s.ctxs.find? (·.1 == ctx)).map (·.2)).map (·.signed)).getD []

/-- A name of an object's string table: its bytes up to the zero byte that ends it, and at most 64 of them (log 16). -/
def nameBytes (s : State) (ctx va : Nat) : List Byte := (s.vbytes ctx va 64).takeWhile (· != 0)

/-- What the loader added to a field (13 R309, R313): the address of the data section or of the named symbol, and the addend (log 16). -/
def relocAmount (s : State) (ctx va e : Nat) : Int :=
  let w (o : Nat) : Nat := s.vword ctx (va + o)
  let sym : Nat := if w (e + 8) = 0xFFFFFFFF then va + w 0x20 else Config.symbolVa ctx (nameBytes s ctx (va + w 0x30 + w (e + 8)))
  sym + (BitVec.ofNat 32 (w (e + 12))).toInt

/-- Eight bytes of an object before a relocation of kind 1 or 2. -/
def unrelocated (kind : Nat) (x : Int) (bs : List Byte) : List Byte :=
  let old := BitVec.ofNat 64 (leNat bs)
  natLE 8 (if kind = 1 then (old.extractLsb' 57 7 ++ (old.extractLsb' 0 57 - BitVec.ofInt 57 x)).toNat else (old - BitVec.ofInt 64 x).toNat)

/-- The first n bytes of an object as submitted: the loader's relocations taken back (18 R334). -/
def submittedBytes (s : State) (ctx va n : Nat) : List Byte :=
  (List.range (s.vword ctx (va + 0x2C))).foldl (fun bs k =>
    let e := s.vword ctx (va + 0x28) + 16 * k
    let o := s.vword ctx (va + e)
    if n < o + 8 then bs
    else bs.take o ++ unrelocated (s.vword ctx (va + e + 4)) (relocAmount s ctx va e) ((bs.drop o).take 8) ++ bs.drop (o + 8))
    (s.vbytes ctx va n)

/-- The signature check of a launch (18 R334), over the object as submitted. Hash and verification are uninterpreted (log 16). -/
def signReject (s : State) (ctx : Nat) (obj : CodeObj) : Option Reject :=
  let va := obj.va.toNat
  if !obj.signed then rejectIf (s.sigReq ctx) 3 0
  else
    let off := s.vword ctx (va + 0x38)
    let sig := s.vbytes ctx (va + off) (s.vword ctx (va + 0x3C))
    firstReject [
      rejectIf (!Config.verifies (Config.sha3 (submittedBytes s ctx va off)) sig) 3 0,
      rejectIf (obj.secver.toNat < s.secfuse) 3 0,
      rejectIf (64 ≤ (s.registry ctx).length && !(s.registry ctx).any (·.1 == obj.va)) 8 0]

/-- A migration holds the reading of a kernel's header or of its view table (19 R351). -/
def kernStays (s : State) (ctx : Nat) (obj : CodeObj) (kidx : Nat) : Bool :=
  let va := obj.va.toNat
  let kh := obj.khOff + 64 * kidx
  kidx < obj.nkern && (s.rangeStays ctx (va + kh) 64 ||
    s.rangeStays ctx (va + s.vword ctx (va + kh + 0x28)) (64 * s.vfield ctx (va + kh + 8) 15 8))

/-- A migration holds the reading of a signed object for its signature and its digests. -/
def signStays (s : State) (ctx : Nat) (obj : CodeObj) : Bool :=
  let va := obj.va.toNat
  let off := s.vword ctx (va + 0x38)
  obj.signed && (s.rangeStays ctx va off || s.rangeStays ctx (va + off) (s.vword ctx (va + 0x3C)) || s.rangeStays ctx (va + obj.codeOff) obj.codeLen)

/-- A migration holds the launch of a kernel of an object: a page that the launch reads is in migration (19 R351). -/
def objStays (s : State) (ctx va kidx : Nat) : Bool :=
  s.rangeStays ctx va 64 ||
  ((objReject s ctx va).isNone && (signStays s ctx (readObj s ctx va) || kernStays s ctx (readObj s ctx va) kidx))

/-- The digests of an object's code pages. -/
def pageDigests (s : State) (ctx : Nat) (obj : CodeObj) : List (BitVec 256) :=
  (List.range (obj.codeLen / 4096)).map fun k => Config.sha3 (s.vbytes ctx (obj.va.toNat + obj.codeOff + 4096 * k) 4096)

/-- A context as the module first hears of it. -/
def newCtx : CtxInfo := { part := none, life := .live, noPlace := false, signed := [] }

/-- What the module holds of a context. -/
def State.ctxInfo (s : State) (ctx : Nat) : CtxInfo := assocGet newCtx s.ctxs ctx
def State.putCtx (s : State) (ctx : Nat) (c : CtxInfo) : State := { s with ctxs := assocSet s.ctxs ctx c }

/-- A signed object recorded in its context's registry. -/
def recordSigned (s : State) (ctx : Nat) (obj : CodeObj) : State :=
  if obj.signed then
    let c := s.ctxInfo ctx
    s.putCtx ctx { c with signed := c.signed.filter (·.1 != obj.va) ++ [(obj.va, pageDigests s ctx obj)] }
  else s

/-- The checks of a ring entry in the order of 20 R357: the first that fails. -/
def entryReject (s : State) (q : Nat) (r : List Byte) (g : Grid) : Option Reject :=
  let ctx := g.ctx
  let va := field (recQ r 0) 56 0
  let kidx := recF r 8 15 0
  let k := g.kernel
  firstReject [
    ringReject r, rejectIf (!s.ctxValid ctx) 1 0, objReject s ctx va, signReject s ctx k.obj,
    rejectIf (k.obj.nkern ≤ kidx) 9 8, kernelFail s ctx k.obj kidx, rejectIf (extentsBad g.gx g.gy g.gz g.threads k.gang) 6 0,
    rejectIf (unplaceable s { g with queue := q }) 7 0]

/-- The grid a ring entry asks for. -/
def entryGrid (s : State) (q : Nat) (r : List Byte) : Grid :=
  let d := s.queue q
  let ctx := d.ctx.toNat
  let obj := readObj s ctx (field (recQ r 0) 56 0)
  let k := readKernel s ctx obj (recF r 8 15 0) false
  { queue := q, part := d.part.toNat, index := d.head, ctx := ctx, kernel := k, gx := recW r 0x14, gy := recW r 0x18, gz := recW r 0x1C,
    threads := recF r 0x10 10 0, args := (List.range k.narg).map fun i => BitVec.ofNat 32 (recW r (0x40 + 4 * i)), next := 0,
    status := .running, cpl := some (hostAddr (recQ r 0x20 % 2 == 1) (field (recQ r 0x20) 51 3 * 8)), recorded := false, waits := [],
    fill := [], die := none, pends := [], waitAt := none, il := d.il, sysCtx := false }

/-- The grids taken from a queue's ring. -/
def ringGrids (s : State) (q : Nat) : List Grid := s.grids.filter fun g => g.queue == q && g.cpl.isSome

/-- The head entry of a queue is ready (20 R360). -/
def entryReady (s : State) (q : Nat) : Bool :=
  let d := s.queue q
  d.en && d.head != d.tail && s.ctxPlaces d.ctx.toNat &&
  (match (ringGrids s q).getLast? with
   | none => true
   | some g => (g.status != .running || g.next == g.total) && (!d.ser || g.status != .running))

/-- A migration holds the launch that the head entry of a queue asks for. -/
def entryStays (s : State) (q : Nat) : Bool :=
  let r := headEntry s (s.queue q)
  objStays s (s.queue q).ctx.toNat (field (recQ r 0) 56 0) (recF r 8 15 0)

/-- LAUNCH_ENTRY_TAKE: the entry copied, QHEAD advanced, the checks made; a rejected entry has no block (20 R356, R357). An entry whose object a migration holds
is taken later (19 R351). -/
def execLaunchEntryTake (q : Nat) (s : State) : Out :=
  if !entryReady s q || entryStays s q then .next s
  else
    let r := headEntry s (s.queue q)
    let g := entryGrid s q r
    let s2 := s.modQueue q fun d => { d with head := d.head + 1 }
    match entryReject s q r g with
    | some x => .next { s2 with grids := s2.grids ++ [{ g with kernel := noKernel, status := .rejected x.kind x.off }] }
    | none => .next { recordSigned s2 g.ctx g.kernel.obj with grids := s2.grids ++ [g] }

/-! ## Completion -/

/-- A grid has ended. -/
def Grid.ended (g : Grid) : Bool := g.status != .running

/-- Every block of a grid has retired, its cards are done, its records have been taken and the grids it launched have completed (06 R149,
12 R303). -/
def gridOver (s : State) (gi : Nat) (g : Grid) : Bool :=
  match g.status with
  | .running =>
    g.next == g.total && s.blocks.all (fun k => k.grid != gi || k.place == .gone) &&
    s.cards.all (fun c => ((s.blocks[c.blk]?).map (·.grid)) != some gi) && s.nodes.all (·.grid != gi) &&
    g.waits.all fun w => ((s.grids[w]?).map (·.ended)).getD true
  | _ => true

/-- The completion record (20 Table 20.3). -/
def completionWord (g : Grid) : W64 :=
  let (st, kind, off) := match g.status with
    | .rejected k o => (2, k, o)
    | .torn => (3, 0, 0)
    | _ => (1, 0, 0)
  BitVec.ofNat 64 (g.index.toNat * 2 ^ 32 + kind * 2 ^ 24 + off % 2 ^ 16 * 2 ^ 8 + st)

/-- A grid that has ended running becomes done. -/
def Grid.close (g : Grid) : Grid := { g with recorded := true, status := if g.status = .running then .done else g.status }

/-- A grid's completion recorded; a grid without a ring entry only ends. -/
def recordGrid (s : State) (gi : Nat) (g : Grid) : State :=
  let s := s.modGrid gi Grid.close
  match g.cpl with
  | some pa => (s.putWord64 pa (completionWord g)).modQueue g.queue fun q => { q with done := q.done + 1 }
  | none => s

/-- GRID_COMPLETE: records of one queue are written in the order its entries were taken (20 R358). -/
def execGridComplete (gi : Nat) (s : State) : Out :=
  match s.grids[gi]? with
  | none => .next s
  | some g =>
    let earlier := (s.grids.take gi).all fun x => x.queue != g.queue || x.cpl.isNone || x.recorded
    if g.recorded || !gridOver s gi g || (g.cpl.isSome && !earlier) then .next s else .next (recordGrid s gi g)

/-! ## LAUNCH -/

/-- The pending-launch store of a core's die has room (12 R300). -/
def pendingRoom (s : State) (core : Nat) : Bool :=
  ((s.dies[dieOf core]?).map fun d => decide (d.pending < Config.pendingLaunches)).getD false

/-- One entry of the store taken. -/
def takePending (s : State) (core : Nat) : State := s.modDie (dieOf core) fun d => { d with pending := d.pending + 1 }

/-- What breaks a launch record, by its offset (12 R302). -/
def launchFail (s : State) (c : Ctx) (r : List Byte) : Option Nat :=
  let obj := c.kern.obj
  let kidx := recF r 0 15 0
  let k := readKernel s c.grid.ctx obj kidx c.kern.priv
  firstSome ([
    failIf (recF r 0 31 16 != 0) 2, failIf (recW r 4 != 0) 4] ++
    [failIf ((List.range 11).any fun n => recW r (0x14 + 4 * n) != 0) 0x14,
     failIf (obj.nkern ≤ kidx) 0, failIf (kernelFail s c.grid.ctx obj kidx).isSome 0,
     failIf (recW r 8 < 1 || 2 ^ 31 ≤ recW r 8) 8, failIf (recW r 0x0C < 1 || 65535 < recW r 0x0C) 0x0C,
     failIf (recW r 0x10 < 1 || 65535 < recW r 0x10) 0x10,
     failIf (recW r 8 * recW r 0x0C * recW r 0x10 % max 1 k.gang != 0) 8])

/-- The child grid of a launch record: the issuing grid's queue, context, partition and thread count (12 R302, log 29). -/
def childGrid (s : State) (c : Ctx) (r : List Byte) : Grid :=
  let k := readKernel s c.grid.ctx c.kern.obj (recF r 0 15 0) c.kern.priv
  { c.grid with kernel := k, index := 0, gx := recW r 8, gy := recW r 0x0C, gz := recW r 0x10,
                args := (List.range k.narg).map fun i => BitVec.ofNat 32 (recW r (0x40 + 4 * i)), next := 0, status := .running,
                cpl := none, recorded := false, waits := [], fill := [], die := some (dieOf c.blk.core), pends := [], waitAt := none }

/-- A predicate written in some lanes. -/
def setPredAt (s : State) (r : WarpRef) (lanes : List Nat) (pd : BitVec 3) (x : Bool) : State :=
  s.modWarp r fun w => w.mapLanes lanes fun _ l => l.setPred pd { val := x, poison := false }

/-- A new grid that another waits for. -/
def addGrid (s : State) (parents : List Nat) (g : Grid) : State :=
  let n := s.grids.length
  { parents.foldl (fun s p => s.modGrid p fun x => { x with waits := x.waits ++ [n] }) s with
    grids := (parents.foldl (fun s p => s.modGrid p fun x => { x with waits := x.waits ++ [n] }) s).grids ++ [g] }

/-- LAUNCH once its record is read: the checks, the store, the region end and the child (12 R302). DESIGN CHOICE (log 95): a child that can never be placed
(20 R359) is accepted all the same, and stays unplaced. DESIGN CHOICE (log 109): the child's code is not checked against SECFUSE or its signature again, since 12
R302 names no such check. -/
def launchWith (o : LaunchOp) (s : State) (c : Ctx) (act : List Nat) (r : List Byte) : Body :=
  if kernStays s c.grid.ctx c.kern.obj (recF r 0 15 0) then .hold s .migration
  else match launchFail s c r with
  | some off => .done s (engineTrap act 7 1 off) []
  | none =>
    let g := childGrid s c r
    match s.badTarget c.blk.core g g.kernel.entry with
    | some sub => .done s (act.map fun i => mkTrap i 4 sub (BitVec.ofNat 57 g.kernel.entry.toNat) 0) []
    | none =>
      if !pendingRoom s c.blk.core then .done (setPredAt s c.r (act.take 1) o.pd false) [] []
      else match endRegion s c.r with
        | (s, false) => .hold s .migration
        | (s, true) => .done (setPredAt (addGrid (takePending s c.blk.core) [c.blk.grid] g) c.r (act.take 1) o.pd true) [] []

/-- LAUNCH (12 R302). It acts once, for the issuing lane, whose pd it writes. -/
def execLaunch (o : LaunchOp) (s : State) : Out :=
  issueWord 0xC9 (.launch o) o.g (fun s c act _ =>
    match act with
    | [] => .done s [] []
    | i :: _ =>
      let v := c.kern.view o.v
      let (cs, pois) := c.wp.coords o.b v i
      if pois then .done s (poisonAll c act) []
      else match readRecord s c v cs 128 128 with
        | .trap code sub addr aux => .done s (act.map fun i => mkTrap i code sub addr aux) []
        | .ok _ _ r => launchWith o s c act r) s

/-! ## Graph nodes -/

/-- A node descriptor (20 Table 20.4). -/
structure NodeDesc where
  obj   : CodeObj
  kern  : Kernel
  sound : Bool
  nthr  : Nat
  queue : Nat
  recb  : Nat
  thr   : Nat
  flush : Nat
  roff  : Nat
  args  : List W32
  deriving DecidableEq, Repr

/-- The node a handle names in a context's table, when it exists (20 R363). Reserved fields of a descriptor are not looked at (log 62): no
rule gives a nonzero one an effect. -/
def State.node? (s : State) (ctx h : Nat) : Option NodeDesc :=
  let t := (assocGet 0 s.nodetab ctx).toNat
  let r := s.bytes (field t 51 12 * 4096 + 64 * h) 64
  if field t 11 0 < h || 512 ≤ ctx || field (recQ r 0) 57 57 != 1 then none
  else
    let va := field (recQ r 0) 56 0
    let obj := readObj s ctx va
    let kidx := field (recQ r 8) 15 0
    let sound := (objReject s ctx va).isNone && kidx < obj.nkern && (kernelFail s ctx obj kidx).isNone
    some { obj := obj, kern := if sound then readKernel s ctx obj kidx false else noKernel, sound := sound,
           nthr := field (recQ r 0x10) 10 0, queue := field (recQ r 0x10) 43 32, recb := recF r 0x18 7 0,
           thr := recF r 0x18 15 8 + 1, flush := recF r 0x18 31 16, roff := recF r 0x1C 20 0,
           args := (List.range 8).map fun i => BitVec.ofNat 32 (recW r (0x20 + 4 * i)) }

/-- A migration holds the reading of a node's object (19 R351). -/
def nodeStays (s : State) (ctx h : Nat) : Bool :=
  let t := (assocGet 0 s.nodetab ctx).toNat
  let r := s.bytes (field t 51 12 * 4096 + 64 * h) 64
  !(field t 11 0 < h || 512 ≤ ctx || field (recQ r 0) 57 57 != 1) && objStays s ctx (field (recQ r 0) 56 0) (field (recQ r 8) 15 0)

/-- A block of the node holds the records of its threshold (20 R364), and its kernel can be launched at all (log 62). -/
def NodeDesc.fits (d : NodeDesc) : Bool :=
  d.sound && 1 ≤ d.nthr && d.nthr ≤ 1024 && d.roff + d.thr * d.recb ≤ d.kern.regionSize d.nthr

/-- The records that wait at a node, oldest first. -/
def waitingAt (s : State) (ctx h : Nat) : List NodeRec := s.nodes.filter fun r => r.ctx == ctx && r.node == h

/-- The grid of one block that takes records of a node (20 R364). -/
def nodeGrid (s : State) (ctx : Nat) (d : NodeDesc) (rs : List NodeRec) : Grid :=
  { queue := d.queue, part := (s.queue d.queue).part.toNat, index := 0, ctx := ctx, kernel := d.kern, gx := 1, gy := 1, gz := 1, threads := d.nthr,
    args := BitVec.ofNat 32 rs.length :: d.args, next := 0, status := .running, cpl := none, recorded := false, waits := [],
    fill := memPut [] d.roff (rs.flatMap (·.bytes)), die := none, pends := rs.map (·.die), waitAt := none, il := (s.queue d.queue).il, sysCtx := false }

/-- The checks of a launch that a node's block meets: signature, extents with gang size, placeability (18 R334, 02 R29, 20 R357). -/
def nodeReject (s : State) (g : Grid) : Option Reject :=
  firstReject [signReject s g.ctx g.kernel.obj, rejectIf (extentsBad g.gx g.gy g.gz g.threads g.kernel.gang) 6 0, rejectIf (unplaceable s g) 7 0]

/-- The entries of the pending-launch stores that a grid's records hold, freed. -/
def freePends (s : State) (ds : List Nat) : State := ds.foldl (fun s d => s.modDie d fun x => { x with pending := x.pending - 1 }) s

/-- A block of a node launched for its k oldest records; the emitting grids wait for it (12 R303, 20 R364). A launch that is rejected has no block (03
R68). -/
def launchNode (s : State) (ctx h : Nat) (d : NodeDesc) (k : Nat) : State :=
  let rs := (waitingAt s ctx h).take k
  let s := { s with nodes := (s.nodes.filter fun r => !(r.ctx == ctx && r.node == h)) ++ (waitingAt s ctx h).drop k }
  let g := nodeGrid s ctx d rs
  let parents := (rs.map (·.grid)).eraseDups
  match nodeReject s g with
  | some x => addGrid (freePends s g.pends) parents { g with kernel := noKernel, pends := [], status := .rejected x.kind x.off }
  | none => addGrid (recordSigned s ctx g.kernel.obj) parents g

/-- Blocks launched while the threshold's records wait. -/
def launchReady (ctx h : Nat) (d : NodeDesc) : Nat → State → State
  | 0, s => s
  | n + 1, s => if (waitingAt s ctx h).length < d.thr then s else launchReady ctx h d n (launchNode s ctx h d d.thr)

/-- The payload of a lane's record: n registers from c, and whether one is poisoned. -/
def emitBytes (c : Ctx) (o : EmitOp) (i : Nat) : List Byte × Bool :=
  let xs := (List.range (o.n1.toNat + 1)).map fun k => c.wp.reg (regPlus o.c k) i
  (xs.flatMap fun x => natLE 4 x.val.toNat, xs.any (·.poison))

/-- A record padded to its slot. -/
def padTo (n : Nat) (bs : List Byte) : List Byte := bs ++ List.replicate (n - bs.length) 0

/-- One lane's record appended, or refused by a full store (12 R300, R301). -/
def emitLane (o : EmitOp) (c : Ctx) (h : Nat) (d : NodeDesc) (s : State) (i : Nat) : State :=
  if !pendingRoom s c.blk.core then setPredAt s c.r [i] o.pd false
  else
    let r : NodeRec := { ctx := c.grid.ctx, node := h, bytes := padTo d.recb (emitBytes c o i).1, cycle := s.cycle, grid := c.blk.grid,
                         die := dieOf c.blk.core }
    let s := takePending s c.blk.core
    setPredAt { s with nodes := s.nodes ++ [r] } c.r [i] o.pd true

/-- EMIT (12 R301, 20 R364). -/
def execEmit (o : EmitOp) (s : State) : Out :=
  issueWord 0xC8 (.emit o) o.g (fun s c act _ =>
    let hv := nth zeroPW c.wp.s o.h.toNat
    let h := hv.val.toNat
    if hv.poison then .done s (act.map fun i => c.wp.poisonTrap i 5) []
    else if nodeStays s c.grid.ctx h then .hold s .migration
    else
      let refuse (i : Nat) : LaneTrap := mkTrap i 9 0 0 hv.val
      match s.node? c.grid.ctx h with
      | none => .done s (act.map refuse) []
      | some d =>
        if !d.fits then .done s (act.map refuse) []
        else
          let pois := act.filter fun i => (emitBytes c o i).2
          let long := if d.recb < 4 * (o.n1.toNat + 1) then act.filter fun i => !pois.contains i else []
          let good := act.filter fun i => !pois.contains i && !long.contains i
          let ts := (pois.map fun i => c.wp.poisonTrap i 5) ++ long.map refuse
          let (s, ok) := if good.isEmpty || !pendingRoom s c.blk.core then (s, true) else endRegion s c.r
          if !ok then .hold s .migration
          else
            let s := good.foldl (emitLane o c h d) s
            .done (launchReady c.grid.ctx h d (s.nodes.length + 1) s) ts []) s

/-- NODE_FLUSH_TIMER: when the oldest waiting record has waited FLUSH microseconds, a block takes every waiting record (20 R364). -/
def execNodeFlushTimer (ctx h : Nat) (s : State) : Out :=
  match s.node? ctx h, (waitingAt s ctx h).head? with
  | some d, some r =>
    if d.flush = 0 || nodeStays s ctx h || !d.fits || s.cycle - r.cycle < s.micros d.flush then .next s
    else .next (launchNode s ctx h d (waitingAt s ctx h).length)
  | _, _ => .next s

end Sys2Proof.Machine
end

