-- ==== Sys2Proof/Machine/Translate.lean ====
section
/-! DEFINITION. Translation commands, shootdown and migration, page walks, Dergus and its cache, code invalidation (19 R341-R354,
18 R324-R333). -/

namespace Sys2Proof.Machine

open Sys2Proof

/-! ## Held accesses -/

/-- A wait of an access that a migration holds, or of a fetch (19 R351, 18 R327). -/
def Entry.isHeld (e : Entry) : Bool :=
  match e.st with
  | .waiting .migration => true
  | .waiting (.translation _) => true
  | _ => false

/-- A wait of an access that a migration holds (19 R351). -/
def Entry.isStayed (e : Entry) : Bool := e.st == .waiting .migration

/-- Held entries of a warp go on; the watchdog counts of the warp and of its other waiting entries stood still meanwhile (21 R381). -/
def Warp.resumeHeld (w : Warp) (now : Nat) (p : Entry → Bool) : Warp :=
  let start := w.entries.foldl (fun m e => if p e then min m e.since else m) now
  { w with
    lastIssue := w.lastIssue + (now - max start w.lastIssue),
    entries := w.entries.map fun e => if p e then e.wakeHere else { e with since := e.since + (now - max start e.since) } }

/-- The accesses that a migration holds in the entries of some lanes issue again; a held region end is tried again first (19 R350 step 5, R351). A fetch
stays with Dergus, which tries its page again (18 R327). -/
def replayEntry (s : State) (r : WarpRef) (m : LaneMask) : State :=
  match s.warp? r with
  | none => s
  | some w =>
    let hit (e : Entry) : Bool := e.isStayed && e.mask &&& m != 0
    if !w.entries.any hit || s.still r.b then s
    else
      let (s, done) := if w.ending then endRegion s r else (s, true)
      if done then s.modWarp r fun w => w.resumeHeld s.cycle hit else s

/-- The same of every held access of a warp. -/
def replayWarp (s : State) (r : WarpRef) : State := replayEntry s r (BitVec.allOnes 64)

/-- A held access put among others by the cycle of its arrival; those of one cycle keep their order of place, entries before cards. -/
def byArrival (x : Replay × Nat) : List (Replay × Nat) → List (Replay × Nat)
  | [] => [x]
  | y :: l => if x.2 < y.2 then x :: y :: l else y :: byArrival x l

/-- What the migration of a page holds of a warp's entry: its access, with the cycle in which its word was first held, or its fetch. -/
def Entry.stays? (s : State) (r : WarpRef) (e : Entry) : Option (Replay × Nat) :=
  match e.st with
  | .waiting .migration => some (.entry r e.mask, e.stay.getD e.since)
  | .waiting (.translation page) =>
    if s.pageStays (s.ctxOf r.b) page then some (.fetch (dieOf (s.coreOf r.b)) (s.ctxOf r.b) page, e.since) else none
  | _ => none

/-- What a migration holds of the entries of a context's warps. -/
def heldEntries (s : State) (ctx : Nat) : List (Replay × Nat) :=
  (s.refs.filter fun r => s.ctxOf r.b == ctx && !s.still r.b).flatMap fun r =>
    (((s.warp? r).map (·.entries)).getD []).filterMap (Entry.stays? s r)

/-- An access from outside that a migration of a context's page holds. -/
def HeldAccess.stays (s : State) (ctx : Nat) (h : HeldAccess) : Bool :=
  match h.access.next? s with
  | some (x, va, _) => x == ctx && s.pageStays ctx va
  | none => false

/-- The held accesses of a context, each with the cycle of its arrival: of its entries, its cards, the reads of its promotion sequence word, and accesses from
outside to its pages. -/
def heldAccesses (s : State) (ctx : Nat) : List (Replay × Nat) :=
  heldEntries s ctx ++
  (s.cards.filterMap fun c => if s.ctxOf c.blk == ctx then c.stayed.map fun n => (.card c.id, n) else none) ++
  (s.tctl.cmds.filterMap fun c => if field c.w2.toNat 8 0 == ctx then c.stayed.map fun n => (.command c.ticket, n) else none) ++
  ((s.inbox.filter (HeldAccess.stays s ctx)).map fun h => (.outside h.place, h.since))

/-- The held accesses of a context in the order of their arrival (19 R351); a fetch stands once, where the first of its waiters does. -/
def arrivals (s : State) (ctx : Nat) : List Replay := (((heldAccesses s ctx).foldl (fun l x => byArrival x l) []).map (·.1)).eraseDups

/-- The held accesses of a context go on, one after another in the order of their arrival (19 R351, log 49). -/
def replay (s : State) (ctx : Nat) : State := { s with replays := s.replays ++ arrivals s ctx }

/-- A held access of a warp is still to be replayed. -/
def State.replaysOf (s : State) (r : WarpRef) : Bool := s.replays.any fun x => match x with | .entry q _ => q == r | _ => false

/-- A migration of the context is under way, and its held accesses wait for step 5 (19 R350, R351). -/
def migrating (s : State) (ctx : Nat) : Bool :=
  s.tctl.cmds.any fun c => (c.phase == 1 || c.phase == 2) && (field c.w3.toNat 2 0 == 2 || field c.w3.toNat 2 0 == 3) && field c.w2.toNat 8 0 == ctx

/-- A card of a context's has reached a page in migration: it stands first in its queue, or has started. -/
def cardStays (s : State) (c : Card) : Bool :=
  c.queued && (c.started || inOrder s c) && (cardLines s c).any fun l =>
    match l.at_ with
    | .virt va => s.pageStays (s.ctxOf c.blk) va
    | _ => false

/-- The cycle in which a migration first held something: kept while it does. -/
def stayNote (stays : Bool) (old : Option Nat) (now : Nat) : Option Nat := if stays then some (old.getD now) else none

/-- A card with the cycle in which a migration was first seen to hold it, as long as one does. -/
def Card.noteStay (s : State) (c : Card) : Card := { c with stayed := stayNote (cardStays s c) c.stayed s.cycle }

/-- The cards that a migration holds note the cycle of their arrival (19 R351, log 49). -/
def State.noteStays (s : State) : State :=
  if s.cards.any fun c => c.stayed.isSome || migrating s (s.ctxOf c.blk) then { s with cards := s.cards.map (Card.noteStay s) } else s

/-- REGION_END_COMPLETE: the write-backs of a warp's region end are done, the registrations drop and the instruction completes (06 R126). -/
def execRegionEndComplete (r : WarpRef) (s : State) : Out := .next (if migrating s (s.ctxOf r.b) || s.replaysOf r then s else replayWarp s r)

/-! ## Fields of a command (19 Table 19.5) -/

def TCmd.op (c : TCmd) : Nat := field c.w3.toNat 2 0
def TCmd.status (c : TCmd) : PAddr := hostAddr (c.w3.getLsbD 63) (field c.w3.toNat 51 3 * 8)
def TCmd.dl (c : TCmd) : W32 := c.w2.extractLsb' 32 32
def TCmd.size (c : TCmd) : Nat := field c.w2.toNat 10 9
def TCmd.ctx (c : TCmd) : Nat := field c.w2.toNat 8 0
def TCmd.dpeer (c : TCmd) : Nat := field c.w1.toNat 63 52
def TCmd.dframe (c : TCmd) : Nat := field c.w1.toNat 51 16 * 2 ^ 16
def TCmd.dtier (c : TCmd) : Nat := field c.w1.toNat 7 6
def TCmd.va (c : TCmd) : Nat := field c.w0.toNat 56 0
/-- Bits of the page offset. -/
def TCmd.bits (c : TCmd) : Nat := match c.size with | 0 => 16 | 1 => 21 | _ => 30
/-- MIGRATE or PROMOTE. -/
def TCmd.moves (c : TCmd) : Bool := c.op == 2 || c.op == 3

/-- Whether an address of a context lies in what a command names. -/
def TCmd.hits (c : TCmd) (ctx lo n : Nat) : Bool :=
  c.ctx == ctx && (c.op == 1 || (lo < c.va + 2 ^ c.bits && c.va < lo + n))

/-- Two commands name overlapping ranges (19 R348). -/
def TCmd.overlaps (a b : TCmd) : Bool := a.ctx == b.ctx && (a.op == 1 || b.op == 1 || a.hits b.ctx b.va (2 ^ b.bits))

/-- A BADCMD command (19 R347, R348). A destination tier of 3, which is reserved, counts as one (log 31). -/
def TCmd.bad (s : State) (c : TCmd) : Bool :=
  3 < c.op || c.size == 3 || field c.w0.toNat 63 57 != 0 || field c.w1.toNat 15 8 != 0 || field c.w1.toNat 5 0 != 0 ||
  field c.w2.toNat 31 11 != 0 || field c.w3.toNat 62 52 != 0 || (c.op != 1 && c.va % 2 ^ c.bits != 0) || !s.ctxValid c.ctx ||
  c.dframe % 2 ^ c.bits != 0 || (c.moves && c.dtier == 3) || (c.op == 3 && c.dtier != 0)

/-! ## The queue of commands -/

/-- Command slots in use (19 R346). -/
def tcSlots : Nat := 256

/-- TCFREE: free command slots (19 R346). -/
def tcFree (t : TCtl) : Nat := tcSlots - t.cmds.length

/-- A write to TCMD3: the four words enqueued under the next ticket; ignored while TCFREE reads 0 (19 R346, R348). -/
def enqueueCmd (s : State) (v : W64) : State :=
  let t := s.tctl
  if tcFree t = 0 then s
  else
    let s := { s with tctl := { t with cmd3 := v } }
    let c : TCmd := { ticket := t.ticket + 1, w0 := t.cmd0, w1 := t.cmd1, w2 := t.cmd2, w3 := v, phase := 0, cores := [], stayed := none }
    { s with tctl := { s.tctl with ticket := t.ticket + 1, cmds := t.cmds ++ [c] } }

/-- TCDONE: the ticket before the earliest outstanding one, else the last given (19 R346). -/
def tcDone (t : TCtl) : W32 := match t.cmds with | c :: _ => c.ticket - 1 | [] => t.ticket

/-- A command replaced. -/
def putCmd (s : State) (c : TCmd) : State :=
  { s with tctl := { s.tctl with cmds := s.tctl.cmds.map fun x => if x.ticket == c.ticket then c else x } }

/-- The end of a command: its status word, then TCDONE (19 R348). -/
def endCmd (s : State) (c : TCmd) (status : Nat) : State :=
  let s := s.putWord64 c.status (BitVec.ofNat 64 (c.ticket.toNat * 2 ^ 32 + status))
  let t := { s.tctl with cmds := s.tctl.cmds.filter fun x => x.ticket != c.ticket }
  { s with tctl := { t with done := tcDone t } }

/-- The outstanding command with a ticket. -/
def State.cmd? (s : State) (ticket : Nat) : Option TCmd := s.tctl.cmds.find? fun c => c.ticket.toNat == ticket

/-! ## Shootdown -/

/-- Every core of the module. -/
def allCores : List Nat := List.range Config.numCores

/-- A command asks every core and die to sweep. -/
def shootAll (s : State) (c : TCmd) : State := putCmd s { c with phase := 1, cores := allCores }

/-- A cached translation lies in what a command names. -/
def TCmd.covers (c : TCmd) (x : Xlate) : Bool := c.hits x.ctx x.va.toNat (2 ^ x.bits)

/-- The home of a line whose page has none: an address that no memory lies at, one for each context and line (log 67). -/
def noHome (ctx : Nat) (line : VAddr) : PAddr := 4099 * 2 ^ 52 + ctx * 2 ^ 57 + line.toNat

/-- Where a sweep writes a line back: the home that the translation being replaced gives it, which the line holds; a line that had none takes what its page
gives by now. -/
def sweepHome (s : State) (ctx : Nat) (h : HeldLine) : Option PAddr :=
  if h.home = noHome ctx h.line then (s.lineAt ctx h.line).head? else some h.home

/-- A pinned dirty line written back during a sweep, through the old translation; it stays pinned and clean (19 R349). Without a translation its bytes are
discarded, with the error of a failed write-back (19 R352). -/
def sweepLine (s : State) (r : WarpRef) (h : HeldLine) : State :=
  let clean (w : Warp) : Warp := w.modHeld h.line HeldLine.clean
  match sweepHome s (s.ctxOf r.b) h with
  | none => s.modWarp r fun w => (clean w).addErr 9 0 h.line 1
  | some pa =>
    if s.unreachable (s.ctxOf r.b) pa then s.modWarp r fun w => (clean w).addErr 9 0 h.line 2
    else (s.putLine pa h.dirty h.data).modWarp r clean

/-- The pinned dirty lines of a warp that lie in what a command names. -/
def sweepLines (s : State) (c : TCmd) (r : WarpRef) : List HeldLine :=
  match s.warp? r with
  | none => []
  | some w => w.held.filter fun h => !h.parked && h.dirty != 0 && c.hits (s.ctxOf r.b) h.line.toNat 128

/-- Registers of a lane whose translation a command removes. -/
def Lane.forget (c : TCmd) (l : Lane) : Lane :=
  { l with lastPage := l.lastPage.filter fun x => !c.covers x }

/-- The home that a held line of a context has by the tables as they stand. -/
def currentHome (s : State) (ctx : Nat) (line : VAddr) : PAddr := (s.lineAt ctx line).headD (noHome ctx line)

/-- Registrations of a line carried to another. -/
def Registration.carry (a b : PAddr) (g : Registration) : Registration := if g.line == a then { g with line := b } else g

/-- A held line takes the home that the tables give it, and what the region has registered for it goes along; a copy that the region has not registered is out of
date (19 R344, log 67). -/
def Warp.rehomeLine (s : State) (ctx : Nat) (w : Warp) (h : HeldLine) : Warp :=
  let home := currentHome s ctx h.line
  if home == h.home then w
  else
    let shared := w.held.any fun x => x.pinned && x.line != h.line && x.home == h.home
    { w with held := w.held.map fun x => if x.line == h.line then { x with home := home, stale := x.stale || !w.registered h.home false } else x,
             region := if shared then w.region ++ (w.region.filter (·.line == h.home)).map (Registration.carry h.home home)
               else w.region.map (Registration.carry h.home home) }

/-- The pinned lines in what a completed shootdown names: from now on no access uses the old translation (19 R344). -/
def rehomeAll (s : State) (c : TCmd) : State :=
  s.mapWarps fun r w =>
    if s.ctxOf r.b == c.ctx then (w.held.filter fun h => h.pinned && c.hits c.ctx h.line.toNat 128).foldl (Warp.rehomeLine s c.ctx) w else w

/-- A core's sweep: the stores on their way and the write-backs of step 2, and the removal of its cached translations (19 R349). -/
def sweepCore (s : State) (c : TCmd) (core : Nat) : State :=
  let here (r : WarpRef) : Bool := ((s.blocks[r.b]?).map fun k => k.core == core && k.place == .resident).getD false
  let s := (s.refs.filter here).foldl (fun s r => (sweepLines s c r).foldl (fun s h => sweepLine s r h) (s.drain r)) s
  let s := s.mapWarps fun r w => if here r then { w with lanes := w.lanes.map (Lane.forget c) } else w
  s.modCore core fun k => { k with tlb := k.tlb.filter fun x => !c.covers x }

/-- The tags of a context in a range of addresses removed on every die (18 R331, R333). -/
def dropTags (s : State) (ctx lo n : Nat) : State :=
  { s with dies := s.dies.map fun d => { d with tags := d.tags.filter fun t =>
      !(t.ctx == ctx && t.page.toNat < lo + n && lo < t.page.toNat + 4096) } }

/-- The tags that a command's shootdown removes. -/
def dropCmdTags (s : State) (c : TCmd) : State :=
  if c.op = 1 then dropTags s c.ctx 0 (2 ^ 57) else dropTags s c.ctx c.va (2 ^ c.bits)

/-- CORE_SWEEP (19 R343, R349). -/
def execCoreSweep (core ticket : Nat) (s : State) : Out :=
  match s.cmd? ticket with
  | none => .next s
  | some c =>
    if c.phase == 1 && c.cores.contains core then
      .next (putCmd (sweepCore s c core) { c with cores := c.cores.filter (· != core) })
    else .next s

/-! ## Migration -/

/-- The leaf of the page a migration names: present, of the page's size and not in migration. -/
def goodLeaf (s : State) (c : TCmd) : Option PAddr :=
  match walk s c.ctx (BitVec.ofNat 57 c.va) with
  | .ok x (some e) => if x.bits = c.bits then some e else none
  | _ => none

/-- The promotion sequence word of a context: its virtual address (19 Table 19.4). -/
def State.pseqVa (s : State) (ctx : Nat) : Nat := field (s.word64 (s.ctxEntry ctx + 8)).toNat 56 0

/-- What a read of the promotion sequence word says of a deadline. -/
inductive Late where
  | no | yes | held
  deriving DecidableEq, Repr

/-- The deadline test of 19 R353. Without a translation of the word its value is free (log 30). -/
def late (s : State) (c : TCmd) : Late :=
  if c.op != 3 || s.pseqVa c.ctx == 0 then .no
  else
    let va := BitVec.ofNat 57 (s.pseqVa c.ctx)
    let test (x : W32) : Late := if 1 ≤ (x - c.dl).toNat && (x - c.dl).toNat < 2 ^ 31 then .yes else .no
    match walk s c.ctx va with
    | .migrating _ => .held
    | .ok x _ => test (s.word32 (x.addr va))
    | .fail => test (Config.freeWord s.tick)

/-- The frame a migration fills. -/
def TCmd.newFrame (c : TCmd) : PAddr :=
  match c.dtier with
  | 0 => c.dframe
  | 1 => hostBase + c.dframe
  | _ => peerBase c.dpeer + c.dframe

/-- The leaf a migration writes: the new frame and tier, MIG clear, V, LEAF, R, W, X, A and D kept (19 R350 step 4). -/
def newLeaf (c : TCmd) (e : W64) : W64 :=
  let peer := if c.dtier = 2 then c.dpeer else 0
  BitVec.ofNat 64 (peer * 2 ^ 52 + c.dframe + field e.toNat 9 8 * 2 ^ 8 + c.dtier * 2 ^ 6 + field e.toNat 4 0)

/-- A number of a range of `n` from `a`, carried to the range from `b`. -/
def shifted (a b n x : Nat) : Nat := if a ≤ x && x < a + n then x - a + b else x

/-- The bytes of a frame copied to another; a sector marked by an uncorrectable error stays marked in the copy (log 31). -/
def copyFrame (s : State) (a b n : Nat) : State :=
  let cells := s.mem.filter fun x => a ≤ x.1 && x.1 < a + n
  let kept := s.mem.filter fun x => !(b ≤ x.1 && x.1 < b + n)
  let marks := s.bad.filter fun x => a ≤ x && x < a + n
  { s with mem := cells.foldl (fun m x => memSet m (x.1 - a + b) x.2) kept,
           bad := (s.bad.filter fun x => !(b ≤ x && x < b + n)) ++ marks.map fun x => x - a + b }

/-- A footprint line moved with its page. -/
def Foot.shift (a b n : Nat) (f : Foot) : Foot :=
  match f with
  | .line pa => .line (shifted a b n pa)
  | .scratch k j => .scratch k j

/-- A registration moved with its page. -/
def Registration.shift (a b n : Nat) (g : Registration) : Registration := { g with line := shifted a b n g.line }

/-- A held line whose home moved with its page. -/
def HeldLine.shift (a b n : Nat) (h : HeldLine) : HeldLine := { h with home := shifted a b n h.home }

/-- A request of another module whose line moved with its page. -/
def stayShift (a b n : Nat) : StayReq → StayReq
  | .read x pa k => .read x (shifted a b n pa) k
  | .write x pa bs => .write x (shifted a b n pa) bs
  | .sync x pa k new => .sync x (shifted a b n pa) k new
  | .register x pa w => .register x (shifted a b n pa) w
  | .release x pa => .release x (shifted a b n pa)

/-- A held access of another module whose line moved with its page: it is decided at the new home (19 R352). -/
def HeldAccess.shift (a b n : Nat) (h : HeldAccess) : HeldAccess :=
  match h.access with
  | .stay req => { h with access := .stay (stayShift a b n req) }
  | _ => h

/-- A card whose footprint moved with its page, its pool lines and the sectors it has partly written among them. -/
def Card.shift (a b n : Nat) (c : Card) : Card :=
  { c with foot := c.foot.map fun x => (x.1.shift a b n, x.2), pool := c.pool.map (Foot.shift a b n),
           wrote := (c.wrote.filter fun x => !(b ≤ x.1 && x.1 < b + n)).map fun x => (shifted a b n x.1, x.2) }

/-- The directory state of every line of a page moved from its old home to its new one, and with it the homes of held lines (19 R350 step 4, R352). -/
def moveHomes (s : State) (a b n : Nat) : State :=
  { s.mapWarps fun _ w => { w with region := w.region.map (Registration.shift a b n), held := w.held.map (HeldLine.shift a b n) } with
    cards := s.cards.map (Card.shift a b n), inbox := s.inbox.map (HeldAccess.shift a b n),
    peerRegs := s.peerRegs.map fun g => { g with line := shifted a b n g.line } }

/-- The last steps of a command: the accesses that its migration held go on, in the order of their arrival, and then its status is written (19 R350 steps 5 and
6). `as` are those accesses, as they were held before its leaf was written. -/
def closeCmd (s : State) (c : TCmd) (as : List Replay) (status : Nat) : State :=
  { putCmd s { c with phase := 3, stayed := none } with replays := s.replays ++ as ++ [.finish c.ticket status] }

/-- Steps 3 to 5 of a migration: the copy, the directory, the leaf and the replay (19 R350). -/
def finishMove (s : State) (c : TCmd) : State :=
  let va := BitVec.ofNat 57 c.va
  let as := arrivals s c.ctx
  match walk s c.ctx va, walkPast s c.ctx va with
  | .migrating e, .ok x _ =>
    let n := 2 ^ c.bits
    let s := moveHomes (copyFrame s x.pa c.newFrame n) x.pa c.newFrame n
    closeCmd (s.putWord64 e (newLeaf c (s.word64 e))) c as 1
  | _, _ => closeCmd s c as 4

/-- A migration given up: MIG cleared, the held accesses replayed to the old frame (19 R353, R354). A command that has not begun holds nothing. -/
def dropMove (s : State) (c : TCmd) (status : Nat) : State :=
  if c.phase = 0 then endCmd s c status
  else
    let as := arrivals s c.ctx
    match walk s c.ctx (BitVec.ofNat 57 c.va) with
    | .migrating e => closeCmd (s.setMig e false) c as status
    | _ => closeCmd s c as status

/-- A queued command that nothing but its read of the promotion sequence word keeps back: no earlier one overlaps it, and 16 migrations run at most (19 R348). -/
def TCmd.due (s : State) (c : TCmd) : Bool :=
  let cs := s.tctl.cmds
  c.phase == 0 && !(cs.takeWhile fun x => x.ticket != c.ticket).any (·.overlaps c) &&
  (!c.moves || (cs.filter fun x => x.phase != 0 && x.moves).length < 16)

/-- A command may start; one whose read of the promotion sequence word a migration holds starts later (19 R351). -/
def TCmd.mayStart (s : State) (c : TCmd) : Bool := c.due s && (c.bad s || late s c != .held)

/-- The first queued command of an operation that may start. -/
def nextCmd (s : State) (ops : List Nat) : Option TCmd := s.tctl.cmds.find? fun c => ops.contains c.op && c.mayStart s

/-- A migration of another page holds the read of the promotion sequence word that a command makes, before its start or its copy (19 R351, R353). -/
def TCmd.stays (s : State) (c : TCmd) : Bool :=
  ((c.due s && !c.bad s) || (c.phase == 1 && c.moves && c.cores.isEmpty)) && late s c == .held

/-- The commands that a migration holds note the cycle of their arrival (19 R351). -/
def State.noteCommands (s : State) : State :=
  if s.tctl.cmds.isEmpty then s
  else { s with tctl := { s.tctl with cmds := s.tctl.cmds.map fun c => { c with stayed := stayNote (c.stays s) c.stayed s.cycle } } }

/-- The start of a command: BADCMD, the deadline, the leaf check and MIG, and the request to sweep (19 R348-R350, R353). -/
def startCmd (s : State) (c : TCmd) : State :=
  if c.bad s then endCmd s c 3
  else if !c.moves then shootAll s c
  else
    match late s c with
    | .held => s
    | .yes => endCmd s c 2
    | .no =>
      match goodLeaf s c with
      | none => endCmd s c 4
      | some e => shootAll (s.setMig e true) c

/-- The controller takes up the first queued command of an operation. -/
def takeCmd (ops : List Nat) (s : State) : Out :=
  match nextCmd s ops with
  | some c => .next (startCmd s c)
  | none => .next s

/-- SHOOT, SHOOTCTX, MIGRATE, PROMOTE and BADCMD: the controller takes up a command (19 R347-R350, R353). -/
def execShoot (s : State) : Out := takeCmd [0] s
def execShootctx (s : State) : Out := takeCmd [1] s
def execMigrate (s : State) : Out := takeCmd [2] s
def execPromote (s : State) : Out := takeCmd [3] s
def execBadcmd (s : State) : Out := takeCmd [4, 5, 6, 7] s

/-- A command whose sweeps are acknowledged: the dies remove the tags (18 R333); a shootdown is then done, and no access uses the old translation from then on (19
R344); a migration goes on to its copy unless its deadline has passed (19 R349, R353). -/
def shootDone (s : State) (c : TCmd) : State :=
  if c.phase != 1 || !c.cores.isEmpty then s
  else
    let s2 := dropCmdTags s c
    if !c.moves then endCmd (replay (rehomeAll s2 c) c.ctx) c 1
    else match late s2 c with
      | .held => s
      | .yes => dropMove s2 c 2
      | .no => putCmd s2 { c with phase := 2, stayed := none }

/-- SHOOT_COMPLETE: every core and die has acknowledged. -/
def execShootComplete (ticket : Nat) (s : State) : Out :=
  match s.cmd? ticket with
  | none => .next s
  | some c => .next (shootDone s c)

/-- A command whose read of the promotion sequence word goes on: it starts, or comes to its copy. -/
def retryCmd (s : State) (ticket : W32) : State :=
  match s.cmd? ticket.toNat with
  | none => s
  | some c => if c.mayStart s then startCmd s c else if c.moves then shootDone s c else s

/-- Step 6 of a migration, once its held accesses have gone on (19 R350). -/
def finishCmd (s : State) (ticket : W32) (status : Nat) : State :=
  match s.cmd? ticket.toNat with
  | none => s
  | some c => endCmd s c status

/-- MIGRATION_COPY_DONE (19 R350 steps 4-6). -/
def execMigrationCopyDone (ticket : Nat) (s : State) : Out :=
  match s.cmd? ticket with
  | none => .next s
  | some c => if c.phase = 2 then .next (finishMove s c) else .next s

/-- A context's teardown ends its migrations (19 R354). -/
def endMoves (s : State) (ctx : Nat) : State :=
  (s.tctl.cmds.filter fun c => c.moves && c.phase != 3 && c.ctx == ctx).foldl
    (fun s c => if c.phase = 2 then finishMove s c else dropMove s c 5) s

/-! ## Walks -/

/-- PAGE_WALK: a walk made by a core for a context with a block there installs its translation, or fails (19 R341, R342). -/
def execPageWalk (core ctx : Nat) (va : VAddr) (acc : Access) (s : State) : Out :=
  if s.blocks.zipIdx.any fun (k, b) => k.core == core && k.place == .resident && s.ctxOf b == ctx then
    .next (translate s { core := core, lane := none } ctx va acc).2
  else .next s

/-- TRANSLATION_PARITY_ERROR: the entry is dropped (21 R395). -/
def execTranslationParityError (x : XlateStore) (s : State) : Out :=
  match x with
  | .tcache die ctx va =>
    .next (s.modDie die fun d => { d with tags := d.tags.filter fun t => !(t.ctx == ctx && t.page == pageOf va) })
  | .coreTlb core ctx va => .next (s.modCore core fun c => { c with tlb := c.tlb.filter fun t => !t.covers ctx va })
  | .lastPage b w lane => .next (s.modWarp { b := b, w := w } (·.modLane lane fun l => { l with lastPage := none }))

/-! ## Dergus -/

/-- The entries of a warp that wait for a translation of a page (18 R327). -/
def waitsOn (page : VAddr) (e : Entry) : Bool := e.mask != 0 && e.st == .waiting (.translation page)

/-- The warps on a die that wait for a page of a context, with their grids; halted blocks keep their waits (21 R385). -/
def waitersOn (s : State) (die ctx : Nat) (page : VAddr) : List (WarpRef × Grid) :=
  s.refs.filterMap fun r =>
    match s.blocks[r.b]?, s.warp? r with
    | some k, some w =>
      match s.grids[k.grid]? with
      | some g => if !k.still && dieOf k.core == die && g.ctx == ctx && w.entries.any (waitsOn page) then some (r, g) else none
      | none => none
    | _, _ => none

/-- Two grids find the same translation of a page usable. -/
def sameCode (a b : Grid) : Bool := a.kernel.obj == b.kernel.obj && a.interlocked == b.interlocked

/-- The waiting entries of a grid's kind raise TRANSLATION_FAULT (18 Table 18.2). -/
def faultWaiters (s : State) (ws : List (WarpRef × Grid)) (g : Grid) (page : VAddr) (sub : Nat) (aux : W32) : State :=
  let hit (r : WarpRef) : Bool := ws.any fun x => x.1 == r && sameCode x.2 g
  let fail (e : Entry) : Entry :=
    { e with st := .trapParked ((lanesOf e.mask).map fun i => mkTrap i 0x10 sub page aux) 0 }
  (s.mapWarps fun r w => if hit r then w.mapEntries (waitsOn page) fail else w).freezeOn [mkTrap 0 0x10 sub page aux]

/-- The translation of a page that a die's cores find usable for a grid. -/
def dieTag (s : State) (die : Nat) (g : Grid) (page : VAddr) : Option Tag := s.tag? (die * Config.coresPerDie) g page

/-- The waiting entries of some warps fetch again. -/
def wakeWaiters (s : State) (ws : List (WarpRef × Grid)) (page : VAddr) : State :=
  s.mapWarps fun r w => if ws.any (·.1 == r) then w.resumeHeld s.cycle (waitsOn page) else w

/-- The digest recorded at launch for a code page (18 R334). -/
def launchDigest (s : State) (g : Grid) (page : VAddr) : Option (BitVec 256) :=
  ((s.registry g.ctx).find? (·.1 == g.kernel.obj.va)).bind fun x =>
    x.2[(page.toNat - (g.kernel.obj.va.toNat + g.kernel.obj.codeOff)) / 4096]?

/-- The waiters for which a translation is in place fetch again; those of another mode or version wait on (18 R327). -/
def wakeServed (s : State) (die : Nat) (ws : List (WarpRef × Grid)) (page : VAddr) : State :=
  wakeWaiters s (ws.filter fun x => (dieTag s die x.2 page).isSome) page

/-- A translation's words from an address of its page on are those of a clause. -/
def Tag.hasWords (t : Tag) (start : W64) (ws : List W64) : Bool :=
  ws.zipIdx.all fun (w, k) => t.word (start.toNat % 4096 + 8 * k) == w

/-- An entry stands inside a clause of a tag's page that it has begun and not finished. -/
def Entry.inTag (kern : Kernel) (t : Tag) (e : Entry) : Bool :=
  match e.begun with
  | some b => (b.from? e.pc).isSome && pageOf (kern.codeVa b.hpc) == t.page && t.hasWords b.start b.code
  | none => false

/-- A warp has begun a clause of a tag's page, in the tag's mode and version, that it has not finished: the one in progress, or one inside which an entry waits
(18 R326). -/
def tagBusy (s : State) (die : Nat) (t : Tag) : Bool :=
  s.blocks.any fun k => k.place == .resident && dieOf k.core == die &&
    (match s.grids[k.grid]? with
     | some g => g.ctx == t.ctx && g.interlocked == t.il && g.kernel.obj.secver == t.secver && k.warps.any fun w =>
         (match w.cur with | some c => pageOf (g.kernel.codeVa c.hpc) == t.page | none => false) || w.entries.any (Entry.inTag g.kernel t)
     | none => false)

/-- The first run of n free 1 KiB blocks of a cache. -/
def tagSpot (tags : List Tag) (n : Nat) : Option Nat :=
  let free (a : Nat) : Bool := a + n ≤ Config.tcacheBlocks && tags.all fun t => a + n ≤ t.start || t.start + t.nblk ≤ a
  ((0 :: tags.map fun t => t.start + t.nblk).filter free).foldl
    (fun b a => match b with | none => some a | some x => some (min x a)) none

/-- Room made for a translation, least recently used first; a translation in use stays (18 R326). The list keeps the order of use. -/
def makeRoom (busy : Tag → Bool) (n : Nat) : Nat → List Tag → Option (Nat × List Tag)
  | 0, _ => none
  | fuel + 1, tags =>
    match tagSpot tags n with
    | some a => some (a, tags)
    | none =>
      match tags.find? fun t => !busy t with
      | some t => makeRoom busy n fuel (tags.filter (· != t))
      | none => none

/-- The translation of a page for a grid, put into the die's cache. -/
def cachePage (s : State) (die : Nat) (g : Grid) (page : VAddr) (pa : PAddr) (sgn : Bool) : Option State :=
  match s.dies[die]? with
  | none => none
  | some d =>
    let n := 1 + Config.tagBlocks s.tick % 127
    match makeRoom (tagBusy s die) n (d.tags.length + 1) d.tags with
    | none => none
    | some (a, tags) =>
      let t : Tag := { secver := g.kernel.obj.secver, stepping := Config.dieStepping, sobj := g.kernel.obj.signed, sgn := sgn,
                       il := g.interlocked, ctx := g.ctx, page := page, nblk := n, start := a, bytes := memPut [] 0 (s.bytes pa 4096) }
      some (s.modDie die fun x => { x with tags := tags ++ [t] })

/-- The checks of 18 R327 steps 2 and 3 on a readable page, in every context alike: the fault, or SGN (18 R335). -/
def pageVerdict (s : State) (die : Nat) (g : Grid) (page : VAddr) (pa : PAddr) : Nat × W32 × Bool :=
  let fuse := ((s.dies[die]?).map (·.secfuse)).getD 0
  if s.badRange pa 4096 then (5, 0, false)
  else if !g.kernel.obj.signed then (0, 0, false)
  else if g.kernel.obj.secver.toNat < fuse.toNat then (4, fuse.setWidth 32, false)
  else
    let ok := launchDigest s g page == some (Config.sha3 (s.bytes pa 4096))
    if !ok && s.sigReq g.ctx then (3, 0, false) else (0, 0, ok)

/-- DERGUS_TRANSLATE: the first waiter's page translated, unless a usable translation is in place (18 R327, R328). -/
def execDergusTranslate (die ctx : Nat) (va : VAddr) (s : State) : Out :=
  let page := pageOf va
  let ws := waitersOn s die ctx page
  match ws with
  | [] => .next s
  | (_, g) :: _ =>
    if (dieTag s die g page).isSome then .next (wakeServed s die ws page)
    else match walk s ctx page with
    | .migrating _ => .next s
    | .fail => .next (faultWaiters s ws g page 2 0)
    | .ok x _ =>
      if !x.ex || s.unreachable ctx (x.addr page) then .next (faultWaiters s ws g page 2 0)
      else
        let (sub, aux, sgn) := pageVerdict s die g page (x.addr page)
        if sub != 0 then .next (faultWaiters s ws g page sub aux)
        else match cachePage s die g page (x.addr page) sgn with
          | none => .next s
          | some s2 => .next (wakeServed s2 die ws page)

/-- A tag used last (18 R326). -/
def touchTag (s : State) (core : Nat) (g : Grid) (va : VAddr) : State :=
  s.modDie (dieOf core) fun d =>
    { d with tags := (d.tags.filter fun t => !usable g d.secfuse va t) ++ d.tags.filter (usable g d.secfuse va) }

/-! ## Code invalidation -/

/-- CINV (10 R253): the pages of the range that lie in the object, or every page of it when an operand is poisoned; the entry waits until the
invalidation holds. A length of 0 does nothing. Lanes that the guard leaves out go on (log 72). -/
def execCinv (o : CinvOp) (s : State) : Out :=
  issueWord 0xD5 (.cinv o) o.g (fun s c act _ =>
    let a := c.wp.pair (Reg.sc o.a) 0
    let n := nth zeroPW c.wp.s o.b.toNat
    let obj := c.kern.obj
    let base := obj.va.toNat + obj.codeOff
    let lo := if a.poison || n.poison then 0 else a.val.toNat / 4096 * 4096
    let hi := if a.poison || n.poison then obj.codeLen else min obj.codeLen (roundUp (a.val.toNat + n.val.toNat) 4096)
    if !(a.poison || n.poison) && n.val = 0 then .done s [] []
    else
      let at_ (x : Nat) : VAddr := BitVec.ofNat 57 (base + min x obj.codeLen)
      .done s [] [{ mask := maskOf act, pc := c.ent.pc, st := .waiting (.cinv (at_ lo) (at_ hi)) }]) s

/-- The invalidation of a waiting CINV made on every die, and its entry resumed (18 R331). -/
def finishCinv (s : State) (r : WarpRef) (k : Nat) : State :=
  match (s.warp? r).bind (·.entries[k]?) with
  | some e =>
    match e.st with
    | .waiting (.cinv lo hi) =>
      (dropTags s (s.ctxOf r.b) lo.toNat (hi.toNat - lo.toNat)).modWarp r fun w =>
        { w with entries := w.entries.modify k Entry.wakeNext }
    | _ => s
  | none => s

/-- A CINV wait. -/
def Entry.isCinv (e : Entry) : Bool := match e.st with | .waiting (.cinv _ _) => true | _ => false

/-- CINV_COMPLETE: every die has acknowledged the warp's first waiting CINV. -/
def execCinvComplete (r : WarpRef) (s : State) : Out :=
  match (s.warp? r).bind fun w => w.entries.findIdx? Entry.isCinv with
  | some k => .next (if s.still r.b then s else finishCinv s r k)
  | none => .next s

end Sys2Proof.Machine
end

