-- ==== Sys2Proof/Machine/Save.lean ====
section
/-! DEFINITION. Halts, draining of job cards, context save and restore, and spatial pre-emption (20 R365, R366, 21 R385, R388,
R390-R392, R419). -/

namespace Sys2Proof

/-- The bytes of the header of a save record, by what it holds: 21 Table 21.10 gives the contents and no layout. Free values, log 23. -/
opaque Config.headerByte : List Nat → Nat → Byte

/-- The bytes of a warp's control part, by what it holds of the warp. Free values, log 23. -/
opaque Config.controlByte : Machine.Warp → Nat → Byte

/-- The bytes of a warp's lane part, by the lanes it holds and their remaining deadlines. Free values, log 23. -/
opaque Config.lanesByte : List (Machine.Lane × Option Nat) → Nat → Byte

/-- The bytes of a warp's line part, by the bindings it holds. Free values, log 23. -/
opaque Config.linesByte : List (List Machine.Bind) → Nat → Byte

end Sys2Proof

namespace Sys2Proof.Machine

open Sys2Proof

/-! ## Halts -/

/-- A deadline moved by the cycles of a halt (21 R385). -/
def Wait.shift (d : Nat) (w : Wait) : Wait :=
  match w with
  | .waita ws pd (some t) => .waita ws pd (some (t + d))
  | .join pd (some t) => .join pd (some (t + d))
  | .pause t => .pause (t + d)
  | x => x

/-- An entry after a halt from `start` to `now`: its deadline and its count stood still, from the beginning of its wait where that came
later (21 R381, R385). -/
def Entry.shift (now start : Nat) (e : Entry) : Entry :=
  let d := now - max start e.since
  match e.st with
  | .waiting w => { e with st := .waiting (w.shift d), since := e.since + d }
  | _ => { e with since := e.since + d }

/-- A warp after a halt from `start` to `now`: its counts stood still, and it enters its slot again at its turn (02 R46, log 35). -/
def Warp.shift (now start : Nat) (w : Warp) : Warp :=
  { w with entries := w.entries.map (Entry.shift now start), lastIssue := w.lastIssue + (now - max start w.lastIssue), active := false, ready := none }

/-- A block halted; halts do not nest (22 R399). -/
def Block.halt (now : Nat) (k : Block) : Block := if k.halted then k else { k with halted := true, haltAt := now }

/-- A halted block resumed. -/
def Block.resume (now : Nat) (k : Block) : Block :=
  if k.halted then { k with halted := false, warps := k.warps.map (Warp.shift now k.haltAt) } else k

/-- A block that is saved: its deadlines stand still from now on, or since its halt. -/
def Block.mark (now : Nat) (k : Block) : Block := if k.halted then k else { k with haltAt := now }

/-- The blocks of a context changed on the cores a test selects. -/
def State.mapBlocksOf (s : State) (ctx : Nat) (on : Nat → Bool) (f : Block → Block) : State :=
  { s with blocks := s.blocks.zipIdx.map fun (k, b) => if k.place == .resident && on k.core && s.ctxOf b == ctx then f k else k }

/-- Every warp of the context's blocks on the selected cores has stopped at a clause boundary. -/
def State.stopped (s : State) (ctx : Nat) (on : Nat → Bool) : Bool :=
  s.blocks.zipIdx.all fun (k, b) =>
    !(k.place == .resident && on k.core && s.ctxOf b == ctx) || k.warps.all fun w => w.cur.isNone

/-! ## Draining -/

/-- Two cards stand in one queue; Mainsail keeps its order within a block (11 R264). -/
def sameQueue (a b : Card) : Bool := a.core == b.core && a.eng == b.eng && (a.eng != 4 || a.blk == b.blk)

/-- A guarded card held at a queue head with its slot Unset (11 R268). -/
def heldAtHead (s : State) (c : Card) : Bool :=
  c.queued && !c.started &&
  (match c.guard, s.blocks[c.blk]? with
   | some g, some k => k.slot g == .unset
   | _, _ => false) &&
  s.cards.all fun x => !(x.queued && x.id < c.id && sameQueue x c) || x.started

/-- A card that mode 1 leaves: held at a queue head, or queued behind such a card on the same engine, whose queue the blocks of a core share (11 R263, 21 R388). -/
def leftBy (s : State) (c : Card) : Bool :=
  c.queued && !c.started && s.cards.any fun h => h.core == c.core && h.eng == c.eng && h.id ≤ c.id && heldAtHead s h

/-- What a step leaves. -/
def outState (o : Out) (s : State) : State := match o with | .next t => t | _ => s

/-- Every step open to one card. -/
def forceCard (s : State) (id : Nat) : State :=
  let s := outState (execCardStart id s) s
  let s := outState (execCpyqBeatPush id s) s
  outState (execCardComplete id s) s

/-- Every step open to the cards of some cores. -/
def forceCores (cores : List Nat) (s : State) : State :=
  let s := cores.foldl grantArray s
  (s.cards.filter fun c => c.queued && cores.contains c.core).foldl (fun s c => forceCard s c.id) s

/-- The cards of some cores run until none can go on. -/
def runCards (cores : List Nat) : Nat → State → State
  | 0, s => s
  | n + 1, s =>
    let t := forceCores cores s
    if t.cards == s.cards && t.cores == s.cores then t else runCards cores n t

/-- A bound on the rounds `runCards` needs: three steps a card, one for each beat a card pushes, and one for each step of a Topsail card. -/
def cardRounds (s : State) : Nat := s.cards.foldl (fun n c => n + 8 + cardCount s c 0 * cardSize s c 0 + if c.eng = 5 then kvSteps c else 0) 1

/-- The cards of some blocks that have not started, discarded (21 R388 mode 0). -/
def discardUnstarted (sel : Nat → Bool) (s : State) : State :=
  (s.cards.filter fun c => c.queued && !c.started && sel c.blk).foldl
    (fun s c => if s.cards.any (·.id == c.id) then discardCard s c else s) s

/-- The cores that hold the cards of some blocks. -/
def cardCores (sel : Nat → Bool) (s : State) : List Nat :=
  ((s.cards.filter fun c => sel c.blk).map (·.core)).eraseDups

/-- Draining the cards of some blocks (21 R388): mode 0, or mode 1. -/
def drain (mode : Bool) (sel : Nat → Bool) (s : State) : State :=
  let s := if mode then s else discardUnstarted sel s
  runCards (cardCores sel s) (cardRounds s) s

/-- The cards of some blocks are drained: none is left, but for those that mode 1 leaves. -/
def drained (mode : Bool) (sel : Nat → Bool) (s : State) : Bool :=
  s.cards.all fun c => !(c.queued && sel c.blk) || (mode && leftBy s c)

/-! ## The save record (21 Tables 21.10-21.12) -/

/-- GSTATE (03 Table 3.3). -/
def Block.gstate (k : Block) : W32 :=
  BitVec.ofNat 32 ((List.range 16).foldl (fun n i =>
    n + (match nth .unset k.guards i with | .unset => 0 | .isFalse => 1 | .isTrue => 2) * 4 ^ i) 0)

/-- A guard slot of a saved GSTATE. -/
def slotOf (n i : Nat) : GuardState := match n / 4 ^ i % 4 with | 0 => .unset | 1 => .isFalse | _ => .isTrue

/-- A saved barrier (21 R391), and the barrier that a record holds; of a gang's COUNT above 2,047 the record has the low bits (log 23). -/
def Barrier.bytes (b : Barrier) : List Byte :=
  natLE 4 (b.count % 2 ^ 11) ++ natLE 4 (if b.phase then 1 else 0) ++ natLE 4 (b.nfix.getD 0) ++ natLE 4 b.arrived.toNat
def readBarrier (bs : List Byte) : Barrier :=
  let w (o : Nat) : Nat := leNat ((bs.drop o).take 4)
  { count := w 0 % 2 ^ 11, phase := w 4 % 2 == 1, nfix := if w 8 = 0 then none else some (w 8), arrived := BitVec.ofNat 32 (w 12) }

/-- A saved guarded card, at a position of its queue (21 R419). -/
def Card.bytes (c : Card) (pos : Nat) : List Byte :=
  let st := c.op + c.tile * 2 ^ 11 + c.eng * 2 ^ 14 + (c.guard.getD 0) * 2 ^ 17 + (c.flag.getD 0) * 2 ^ 21 +
    (if c.flag.isSome then 2 ^ 25 else 0) + (if c.ticket.isSome then 2 ^ 26 else 0)
  (c.record ++ List.replicate (256 - c.record.length) 0) ++
    natLE 4 st ++ natLE 4 ((c.ticket.getD 0).toNat) ++ natLE 4 pos ++ natLE 4 c.warp ++ List.replicate 16 0

/-- The card that its 288 bytes of a record hold; what they do not hold the block has kept (log 23). -/
def Card.readBack (bs : List Byte) (c : Card) : Card :=
  let st := recF bs 256
  { c with record := bs.take c.record.length, op := st 7 0, tile := st 13 11, eng := st 16 14, guard := some (st 20 17),
           flag := if st 25 25 = 1 then some (st 24 21) else none,
           ticket := if st 26 26 = 1 then some (BitVec.ofNat 32 (recW bs 260)) else none, warp := recF bs 268 6 0 }

/-- The cards of the queue a card stands in that have not started and were enqueued before it: its position (21 R419). The blocks of a core share each
queue, Mainsail's too (11 R263). -/
def queuePos (cards : List Card) (c : Card) : Nat :=
  (cards.filter fun x => x.queued && !x.started && x.core == c.core && x.eng == c.eng && x.id < c.id).length

/-- The saved guarded cards, queue by queue, in queue order. -/
def byQueue (cs : List Card) : List Card := (List.range 7).flatMap fun e => cs.filter (·.eng == e)

/-- A tile's bytes, row by row, and the tile that bytes hold. -/
def tileBytes (t : List (Nat × W32)) : List Byte := (List.range 16384).flatMap fun k => natLE 4 (assocGet 0 t k).toNat
def tileOf (bs : List Byte) : List (Nat × W32) :=
  (List.range 16384).filterMap fun k =>
    let x := BitVec.ofNat 32 (leNat ((bs.drop (4 * k)).take 4))
    if x = 0 then none else some (k, x)

/-- A warp's vector registers, register by register and lane by lane, then their poison bits in that order. -/
def Warp.regBytes (w : Warp) (nv width : Nat) : List Byte :=
  let xs := (List.range nv).flatMap fun r => (List.range width).map fun i => nth zeroPW (w.lane i).v r
  (xs.flatMap fun x => natLE 4 x.val.toNat) ++ natLE (nv * width / 8) (boolsNat (xs.map (·.poison)))

/-- A lane's registers of a record's register part. -/
def laneRegs (bs : List Byte) (nv width i : Nat) : List PW :=
  let ps := leNat (bs.drop (4 * nv * width))
  (List.range nv).map fun r =>
    { val := BitVec.ofNat 32 (leNat ((bs.drop (4 * (r * width + i))).take 4)), poison := ps.testBit (r * width + i) }

/-- The warp whose vector registers a record's register part holds. -/
def Warp.withRegs (bs : List Byte) (nv width : Nat) (w : Warp) : Warp :=
  { w with lanes := w.lanes.zipIdx.map fun (l, i) => { l with v := laneRegs bs nv width i } }

/-- The sizes of a record's parts with n guarded cards (21 Table 21.10). -/
def partSizes (kern : Kernel) (k : Block) (n : Nat) : List Nat :=
  [256, 192, roundUp (256 + 288 * n) 256, 98560] ++ k.tiles.map (fun _ => 65536) ++ [k.region] ++
  k.warps.flatMap fun w => [4096, kern.nv * kern.width * 33 / 8, 128 * kern.width, 128 * kern.width, 144 * (w.quota + w.loaned)]

/-- The offset of a part: the parts before it, each aligned to 256 bytes. -/
def partAt (sizes : List Nat) (i : Nat) : Nat := (sizes.take i).foldl (fun a n => a + roundUp n 256) 0

/-- The number of a warp's part: 0 control, 1 registers, 2 lanes, 3 lines, 4 park area. -/
def warpPart (k : Block) (w i : Nat) : Nat := 5 + k.tiles.length + 5 * w + i

/-- A gang barrier as rank 0's record holds it: the gang's count, and a bit for each block rank that has a warp arrived (21 R391). -/
def gangBarrier (s : State) (b n : Nat) : Barrier :=
  let bs := gangOf s b
  let gang (k : Block) : Nat := max 1 (((s.grids[k.grid]?).map (·.kernel.gang)).getD 1)
  let bit (x : Nat) : BitVec 32 :=
    match s.blocks[x]? with
    | some k => if (k.gbar n).count = 0 then 0 else 1 <<< (k.lin % gang k)
    | none => 0
  { (((s.blocks[b]?).map fun k => k.gbar n).getD noBarrier) with
    count := gangSum s bs fun k => (k.gbar n).count, arrived := bs.foldl (fun m x => m ||| bit x) 0 }

/-- The twelve barriers of a block's record. -/
def savedBars (s : State) (b : Nat) (g : Grid) (k : Block) : List Barrier :=
  k.bars ++ if k.lin % max 1 g.kernel.gang = 0 then (List.range 4).map (gangBarrier s b) else List.replicate 4 noBarrier

/-- What the header of a record holds, in Table 21.10's order: context, queue, INDEX, KIDX, coordinates and linear index, gang and rank, warp count,
WIDTH, Nv, Na_cc, halt and handler state, and the offsets of the later parts. -/
def headerWords (g : Grid) (k : Block) (sizes : List Nat) : List Nat :=
  let kern := g.kernel
  [g.ctx, g.queue, g.index.toNat, kern.kidx, k.lin % g.gx, k.lin / g.gx % g.gy, k.lin / g.gx / g.gy, k.lin, kern.gang, k.lin % max 1 kern.gang,
   k.warps.length, kern.width, kern.nv, kern.nacc, if k.halted then 1 else 0] ++
  (k.warps.map fun w => boolsNat (w.lanes.map (·.handler))) ++
  ((List.range sizes.length).drop 1).map (partAt sizes)

/-- The deadline of a wait. -/
def Wait.deadline : Wait → Option Nat
  | .waita _ _ t => t
  | .join _ t => t
  | .pause t => some t
  | _ => none

/-- A wait without its deadline. -/
def Wait.undated (w : Wait) : Wait :=
  match w with
  | .waita ws pd _ => .waita ws pd none
  | .join pd _ => .join pd none
  | .pause _ => .pause 0
  | x => x

/-- An entry without its deadline, which the lanes part holds. -/
def Entry.undated (e : Entry) : Entry := match e.st with | .waiting w => { e with st := .waiting w.undated } | _ => e

/-- What the control part holds of a warp (21 Table 21.10): entries, s-registers, flag counts, counters, call records and pending traps. The
prediction history is not saved (15 R319). -/
def Warp.control (w : Warp) : Warp :=
  { w with lanes := [], held := [], region := [], stores := [], entries := w.entries.map Entry.undated, hist := [], pred := none }

/-- The cycles a lane has still to wait, counted from the cycle in which its block was halted (21 R385). -/
def Warp.remaining (w : Warp) (at_ i : Nat) : Option Nat :=
  (w.entries.find? fun e => e.mask.getLsbD i).bind fun e => match e.st with | .waiting x => x.deadline.map fun t => t - at_ | _ => none

/-- What the lanes part holds of a warp. -/
def Warp.laneParts (w : Warp) (at_ : Nat) : List (Lane × Option Nat) := w.lanes.zipIdx.map fun (l, i) => (l, w.remaining at_ i)

/-- The parts of a block's record. -/
def recordParts (n : Nat) (g : Grid) (k : Block) (bars : List Barrier) (cards : List (Card × Nat)) : List (List Byte) :=
  let kern := g.kernel
  let sizes := partSizes kern k cards.length
  let enc (f : Nat → Byte) (len : Nat) : List Byte := (List.range len).map f
  [enc (Config.headerByte (headerWords g k sizes)) 256,
   bars.flatMap Barrier.bytes,
   natLE 4 k.gstate.toNat ++ List.replicate 252 0 ++ cards.flatMap fun x => x.1.bytes x.2,
   k.mainsailBytes n (partAt sizes 3)] ++
  k.tiles.map tileBytes ++
  [memBytes k.bytes 0 k.region] ++
  k.warps.flatMap fun w =>
    [enc (Config.controlByte w.control) 4096, w.regBytes kern.nv kern.width, enc (Config.lanesByte (w.laneParts k.haltAt)) (128 * kern.width),
     enc (Config.linesByte (w.lanes.map (·.binds))) (128 * kern.width), List.replicate (144 * (w.quota + w.loaned)) 0]

/-- The record written to its place in the save pool; each card comes with its position in its queue. -/
def writeRecord (s : State) (b : Nat) (cards : List (Card × Nat)) : State :=
  match s.blocks[b]? with
  | none => s
  | some k =>
    match s.grids[k.grid]? with
    | none => s
    | some g =>
      let sizes := partSizes g.kernel k cards.length
      let ps := recordParts s.saves g k (savedBars s b g k) cards
      let s := ps.zipIdx.foldl (fun s x => s.putBytes (k.savedAt + partAt sizes x.2) x.1) s
      { s.modBlock b fun k => { k with recorded := true } with saves := s.saves + 1 }

/-- FIFO beats whose bytes come back from a record. -/
def refill : List Beat → List Byte → List Beat
  | [], _ => []
  | b :: l, bs => { b with bytes := bs.take b.bytes.length } :: refill l (bs.drop b.bytes.length)

/-- A block with the parts of its record whose layout is given: barriers, guard slots, cards, Mainsail weights and FIFO bytes, tiles, scratchpad and
vector registers (21 R392). The header, control, lane and line parts hold what the block has kept (log 23). -/
def Block.readBack (s : State) (g : Grid) (k : Block) : Block :=
  let kern := g.kernel
  let sizes := partSizes kern k k.cards.length
  let at_ (i : Nat) : PAddr := k.savedAt + partAt sizes i
  let gs := leNat (s.bytes (at_ 2) 4)
  let fifo := s.bytes (at_ 3 + 32768) (fifoLen k.aFifo + fifoLen k.wFifo)
  { k with
    bars := (List.range 8).map fun i => readBarrier (s.bytes (at_ 1 + 16 * i) 16),
    guards := (List.range 16).map (slotOf gs),
    cards := k.cards.zipIdx.map fun (c, i) => c.readBack (s.bytes (at_ 2 + 256 + 288 * i) 288),
    latch := { k.latch with tile := s.bytes (at_ 3) (16384 * etypeSize k.latch.fmt) },
    aFifo := refill k.aFifo fifo, wFifo := refill k.wFifo (fifo.drop (fifoLen k.aFifo)),
    tiles := k.tiles.zipIdx.map fun (_, i) => tileOf (s.bytes (at_ (4 + i)) 65536),
    bytes := memPut [] 0 (s.bytes (at_ (4 + k.tiles.length)) k.region),
    warps := k.warps.zipIdx.map fun (w, i) =>
      w.withRegs (s.bytes (at_ (warpPart k i 1)) (kern.nv * kern.width * 33 / 8)) kern.nv kern.width,
    recorded := false }

/-- Byte enables of a line as the 16 bytes of its place in a park area (log 23). -/
def enableBytes (en : BitVec 128) : List Byte := natLE 16 en.toNat

/-- The parked lines of a warp that hold bytes to write back. -/
def Warp.parkedDirty (w : Warp) : List HeldLine := w.held.filter fun h => h.parked && h.dirty != 0

/-- The parked lines of a warp that hold dirty bytes, written with their byte enables to its park area, 144 bytes for each of them in the order the
warp holds them, as far as the area reaches (05 R109, 21 Table 21.10, log 23). -/
def writePark (s : State) (r : WarpRef) : State :=
  match s.blocks[r.b]?, s.warp? r with
  | some k, some w =>
    match s.grids[k.grid]? with
    | some g =>
      if g.sysCtx then s
      else
        let base := k.savedAt + partAt (partSizes g.kernel k 0) (warpPart k r.w 4)
        (w.parkedDirty.take (w.quota + w.loaned)).zipIdx.foldl (fun s (h, i) => s.putBytes (base + 144 * i) (h.data ++ enableBytes h.dirty)) s
    | none => s
  | _, _ => s

/-! ## Save -/

/-- What an entry waits for when it is saved: an access, fetch or command not yet performed has not begun and issues again (18 R330, 19 R351). -/
def EState.saved (st : EState) : EState :=
  match st with
  | .waiting .migration => .runnable
  | .waiting (.translation _) => .runnable
  | .waiting (.cardRoom _) => .runnable
  | .waiting .mmaLease => .runnable
  | st => st

/-- A saved entry; after the restore it looks its clause up anew (18 R330, log 99). -/
def Entry.saved (e : Entry) : Entry := { e with st := e.st.saved, begun := none, stay := none }

/-- A pinned line in the saved form: parked, with no data and without counting in PARKCNT (21 R392). -/
def HeldLine.saved (h : HeldLine) : HeldLine :=
  if h.pinned then { h with parked := true, data := [], dirty := 0, stale := false, lost := false } else h

/-- A lane whose last-page register is empty. -/
def Lane.clearPage (l : Lane) : Lane := { l with lastPage := none }

/-- A warp in its saved form. -/
def Warp.saved (w : Warp) : Warp :=
  ({ w with entries := w.entries.map Entry.saved, held := w.held.map HeldLine.saved, cur := none,
            lanes := w.lanes.map Lane.clearPage }).returnLoans.unblock

/-- The warps of a block. -/
def Block.refs (k : Block) (b : Nat) : List WarpRef := (List.range k.warps.length).map fun w => { b := b, w := w }

/-- The CINVs a warp waits at, completed (18 R332). -/
def finishCinvs (s : State) (r : WarpRef) : State :=
  match s.warp? r with
  | some w => (List.range w.entries.length).foldl (fun s k => finishCinv s r k) s
  | none => s

/-- The region ends of some warps; none when a migration holds one. -/
def endRegions : List WarpRef → State → Option State
  | [], s => some s
  | r :: rs, s =>
    match endRegion s r with
    | (s, true) => endRegions rs s
    | (_, false) => none

/-- Card words that still waited for room have not enqueued their cards. -/
def dropWaiting (s : State) (b : Nat) : State := { s with cards := s.cards.filter fun c => c.queued || c.blk != b }

/-- The regions of a block's warps ended and its CINVs completed (18 R332, 21 R390 step 2). -/
def quietBlock (s : State) (b : Nat) : Option State :=
  match s.blocks[b]? with
  | none => none
  | some k => endRegions (k.refs b) ((k.refs b).foldl finishCinvs (s.modBlock b (Block.mark s.cycle)))

/-- The blocks of a list quieted one after another. -/
def quietAll : List Nat → State → Option State
  | [], s => some s
  | b :: bs, s => (quietBlock s b).bind (quietAll bs)

/-- A context save of a block that has been halted and whose regions have ended and cards been drained (21 R390 step 4): its record is written. With
`take` set the block leaves its core and the saved cards go with it; otherwise it stays, halted (log 50). -/
def saveBlock (s : State) (b : Nat) (cards : List (Card × Nat)) (take : Bool) : Option State :=
  (quietBlock (dropWaiting s b) b).map fun s =>
    let cards := (byQueue (cards.map (·.1))).filterMap fun c => cards.find? (·.1 == c)
    let t := writeRecord (s.modBlock b fun k =>
      { k with warps := k.warps.map Warp.saved, cards := if take then cards.map (·.1) else k.cards }) b cards
    if take then State.vacate { t with cards := t.cards.filter fun c => !cards.any (·.1.id == c.id) } b .saved
    else { t with blocks := s.blocks }

/-! ## Restore -/

/-- Saved guarded cards enqueued again on the block's core, in order (21 R419). -/
def requeue (b core : Nat) : List Card → State → State
  | [], s => s
  | c :: cs, s =>
    requeue b core cs { s with cards := s.cards ++ [{ c with id := s.nextCard, core := core, foreign := true, foot := [], place := none, stayed := none }], nextCard := s.nextCard + 1 }

/-- A warp restored: every count starts at 0 (21 R381), and every word counts as issued for the first time (15 R319). -/
def Warp.restored (now : Nat) (w : Warp) : Warp :=
  { w with hist := [], lastIssue := now, entries := w.entries.map fun e => { e with since := now } }

/-- A ticket of a block that has been moved. -/
def Ticket.old (t : Ticket) : Ticket := { t with past := true }

/-- A block's part of a gang barrier that rank 0's record gives back: phase and expectation, and an arrival where ARRIVED has the block's bit; rank 0 takes
the rest of COUNT, modulo 2^11, the others' parts being those of their own entries (21 R391). -/
def Barrier.ofGang (x : Barrier) (rank rest : Nat) (own : Barrier) : Barrier :=
  { count := if rank = 0 then (x.count + 2 ^ 11 - rest % 2 ^ 11) % 2 ^ 11 else own.count, arrived := if x.arrived.getLsbD rank then own.arrived else 0, phase := x.phase,
    nfix := x.nfix }

/-- The gang barriers of rank 0's record, at an address, given back to the gang (21 R391, R392). -/
def State.readGang (s : State) (b gang : Nat) (at_ : PAddr) : State :=
  let bs := gangOf s b
  (List.range 4).foldl (fun s n =>
    let x := readBarrier (s.bytes (at_ + 16 * n) 16)
    let rest := gangSum s (bs.filter (· != b)) fun k => (k.gbar n).count
    bs.foldl (fun s j => s.modBlock j fun k => k.setGbar n (x.ofGang (k.lin % max 1 gang) rest)) s) s

/-- A block as its record gives it back, and with rank 0's the gang's barriers. A block that has none, such as a fresh copy of one that has ended (21
R394), starts as it stands. -/
def State.readBack (s : State) (b : Nat) : State :=
  match (s.blocks[b]?).bind fun k => (s.grids[k.grid]?).map fun g => (k, g) with
  | some (k, g) =>
    if k.recorded then
      let t := s.modBlock b fun k => k.readBack s g
      if k.lin % max 1 g.kernel.gang = 0 then
        t.readGang b g.kernel.gang (k.savedAt + partAt (partSizes g.kernel k k.cards.length) 1 + 128)
      else t
    else s
  | none => s

/-- A block after its restore: its record is read back, its cards are enqueued again, its counts start anew (21 R385, R392, R419). -/
def restoreBlock (s0 : State) (b : Nat) : State :=
  let s := s0.readBack b
  match s.blocks[b]? with
  | none => s
  | some k =>
    let s := requeue b k.core k.cards s
    let s := if k.cards.any (·.eng == 4) then s.modCore k.core (·.ask b 1) else s
    s.modBlock b fun k =>
      let k := if k.halted then k else { k with warps := k.warps.map (Warp.shift s.cycle k.haltAt) }
      { k with tickets := k.tickets.map Ticket.old, cards := [], warps := k.warps.map (Warp.restored s.cycle) }

/-- Some core of a gang stands in an idle state, which is left first (20 R371). -/
def anyIdle (s : State) (bs : List Nat) : Bool :=
  bs.any fun b => (((s.blocks[b]?).bind fun k => s.cores[k.core]?).map fun c => c.idle != 0).getD false

/-- BLOCK_RESTORE: a saved block, with its gang, on cores that can hold them, in ascending linear index (20 R360, R365, 21 R392). -/
def execBlockRestore (b : Nat) (s : State) : Out :=
  if !s.ctxPlaces (s.ctxOf b) || !firstBack s b then .next s
  else match reseat s b with
    | none => .next s
    | some s2 =>
      let bs := gangOf s b
      if anyIdle s2 bs then .next s else .next (bs.foldl restoreBlock s2)

/-! ## Spatial pre-emption -/

/-- Warp contexts of the blocks resident on a core. -/
def coreLoad (s : State) (core : Nat) : Nat := (List.range 4).foldl (fun n k => n + (slotUse s core k).used.length) 0

/-- The k cores of a partition with the fewest warp contexts, the lowest number winning ties. -/
def chooseCores (s : State) (p k : Nat) : List Nat := (sortBy (fun c => coreLoad s c * 256 + c) (partCores s p)).take k

/-- The blocks on the chosen cores, with their gangs. -/
def victims (s : State) (cores : List Nat) : List Nat :=
  let hit := (List.range s.blocks.length).filter fun b =>
    ((s.blocks[b]?).map fun k => k.place == .resident && cores.contains k.core).getD false
  (hit.flatMap (gangOf s)).eraseDups

/-- A guarded card of a block whose slot is Unset and that has not started. -/
def guardHeld (s : State) (c : Card) : Bool :=
  c.queued && !c.started && (match c.guard, s.blocks[c.blk]? with | some g, some k => k.slot g == .unset | _, _ => false)

/-- The guarded cards that pre-emption saves: those held because their slot is Unset. -/
def heldOf (sel : Nat → Bool) (s : State) : List Card := s.cards.filter fun c => sel c.blk && guardHeld s c

/-- A card that has to complete would pass a card taken out whose footprint it overlaps (06 R144). -/
def passesHeld (sel : Nat → Bool) (s : State) : Bool :=
  let held := heldOf sel s
  s.cards.any fun c => c.queued && sel c.blk && !held.any (·.id == c.id) &&
    held.any fun h => h.id < c.id && h.core == c.core && footsOverlap (cardFoot s h) (cardFoot s c)

/-- The cards of some blocks drained for pre-emption: held guarded cards are taken out and returned with their positions, and the rest completes;
none when a card cannot complete yet (20 R365 step 3). -/
def drainOut (sel : Nat → Bool) (s : State) : Option (State × List (Card × Nat)) :=
  let held := heldOf sel s
  let s := drain true sel { s with cards := s.cards.filter fun c => !held.any (·.id == c.id) }
  if s.cards.any fun c => c.queued && sel c.blk then none
  else some (s, held.map fun c => (c, queuePos (s.cards ++ held) c))

/-- The victims saved one after another. -/
def saveAll (held : List (Card × Nat)) : List Nat → State → Option State
  | [], s => some s
  | b :: bs, s => (saveBlock s b (held.filter fun c => c.1.blk == b) true).bind (saveAll held bs)

/-- The mask of a list of cores. -/
def coreMask (cores : List Nat) : BitVec 144 := cores.foldl (fun m c => m ||| ((1 : BitVec 144) <<< c)) 0

/-- The status record of a pre-emption, its last eight bytes written last (20 R365 step 5). -/
def preemptRecord (m : BitVec 144) (status n : Nat) : List Byte :=
  natLE 8 (m.toNat % 2 ^ 64) ++ natLE 8 (m.toNat / 2 ^ 64 % 2 ^ 64) ++ natLE 8 (m.toNat / 2 ^ 128) ++ natLE 8 (status + 256 * n)

/-- The cores released by a partition. -/
def Part.dropCores (m : BitVec 144) (p : Part) : Part := { p with a := { p.a with cores := p.a.cores &&& ~~~ m } }

/-- A block leaves its core only when it still stands there: one that retired during the drain is not saved. -/
def stillThere (s : State) (bs : List Nat) : List Nat :=
  bs.filter fun b => ((s.blocks[b]?).map fun k => k.place == .resident).getD false

/-- A block that the pre-emption alone had halted is not halted in its record's sense: it goes on when it is restored. -/
def Block.goesOn (k : Block) : Block := { k with halted := false }

/-- The victims' regions ended, cards drained and records written, the cores released and the status record written (20 R365 steps 3 to 5); the state
with the regions ended when that is as far as it goes. -/
def finishPreempt (x : Preempt) (vs : List Nat) (s : State) : State :=
  match quietAll vs s with
  | none => s
  | some s1 =>
    match (drainOut vs.contains s1).bind fun (t, held) => saveAll held (stillThere t vs) t with
    | none => s1
    | some s2 =>
      let m := coreMask x.cores
      let s3 := x.halted.foldl (fun s b => s.modBlock b Block.goesOn) s2
      { s3 with parts := s3.parts.modify x.part (Part.dropCores m), preempts := s3.preempts.drop 1 }.putBytes x.pa
        (preemptRecord m 1 x.cores.length)

/-- The blocks among some that are resident and not halted. -/
def runningOf (s : State) (bs : List Nat) : List Nat :=
  bs.filter fun b => ((s.blocks[b]?).map fun k => k.place == .resident && !k.halted).getD false

/-- The oldest pre-emption goes on: its victims are halted, and when every one has stopped at a clause boundary they are saved (20 R365, 21 R390). It
waits while Chervil's own block stands on a chosen core, or while a card would have to pass one that it saves (log 32). -/
def servePreempt (s : State) : State :=
  match s.preempts with
  | [] => s
  | x :: xs =>
    let vs := victims s x.cores
    if vs.any (fun b => s.ctxOf b == sysCtx) || passesHeld vs.contains s then s
    else
      let new := runningOf s vs
      let y := { x with halted := x.halted ++ new.filter fun b => !x.halted.contains b }
      let t := new.foldl (fun s b => s.modBlock b (Block.halt s.cycle)) { s with preempts := y :: xs }
      if vs.all fun b => ((t.blocks[b]?).map fun k => k.warps.all fun w => w.cur.isNone).getD true then finishPreempt y vs t else t

/-- PREEMPT_REQUEST (20 R365): the cores are chosen at once, and nothing new is placed on them; pre-emptions are made one after another, in the
order of the requests (log 32). -/
def execPreemptRequest (c0 c1 : W64) (s : State) : Out :=
  let s := { s with pcmd0 := c0, pcmd1 := c1 }
  let k := field c0.toNat 7 0
  let p := field c0.toNat 10 8
  if (partCores s p).length ≤ k then .next (s.putBytes c1.toNat (preemptRecord 0 2 0))
  else
    let x : Preempt := { part := p, cores := chooseCores s p k, pa := c1.toNat, halted := [] }
    .next (servePreempt { s with preempts := s.preempts ++ [x] })

end Sys2Proof.Machine
end

