-- ==== Sys2Proof/Machine/Registers.lean ====
section
/-! DEFINITION. The register window: queue descriptors, translation control, pre-emption, partitions, module status, freeze control, Stay
ports; and the power, thermal and idle loops (20 R355, R367-R371, 19 R346, 24 R407-R411, R417). -/

namespace Sys2Proof.Machine

open Sys2Proof

/-! ## Queues -/

/-- A queue names a context (24 R411, log 33). -/
def State.ctxUsed (s : State) (ctx : Nat) : Bool := s.queues.any fun q => q.2.ctx.toNat == ctx

/-- The partition a context belongs to (24 R411). -/
def State.boundPart (s : State) (ctx : Nat) : Option Nat := if s.ctxUsed ctx then s.ctxPart ctx else none

/-- What lets EN become 1 (20 R355, 24 R411, R414). -/
def enableOk (s : State) (d : Queue) : Bool :=
  s.mstat.boot == 3 && 4 ≤ d.logn.toNat && d.logn.toNat ≤ 16 && d.ring.toNat % 128 == 0 && !(partCores s d.part.toNat).isEmpty &&
  (match s.boundPart d.ctx.toNat with | some p => p == d.part.toNat | none => true)

/-- A context without a queue that names it belongs to no partition. -/
def CtxInfo.freed (s : State) (x : Nat × CtxInfo) : Nat × CtxInfo := if s.ctxUsed x.1 then x else (x.1, { x.2 with part := none })

/-- Contexts that no queue names any more are released from their partitions (24 R411). -/
def State.releaseUnused (s : State) : State := { s with ctxs := s.ctxs.map (CtxInfo.freed s) }

/-- EN := 1 for a queue whose EN is 0, if its configuration allows it; its context belongs to its partition from then on. -/
def enableQueue (s : State) (q : Nat) : State :=
  let d := s.queue q
  if d.en || !enableOk s d then s
  else
    let c := s.ctxInfo d.ctx.toNat
    (s.putCtx d.ctx.toNat { c with part := some d.part.toNat }).modQueue q fun d => { d with en := true }

def execQueueEnable (q : Nat) (s : State) : Out := .next (enableQueue s q)

/-- QUEUE_DISABLE: no further entry is taken; the other fields keep their values (20 R355). -/
def execQueueDisable (q : Nat) (s : State) : Out := .next (s.modQueue q fun d => { d with en := false })

/-- QTAIL_WRITE (20 R356). -/
def execQtailWrite (q : Nat) (v : W32) (s : State) : Out := .next (s.modQueue q fun d => { d with tail := v })

/-- QENERGY_READ: bits [63:32] captured in QENERGYH. -/
def execQenergyRead (q : Nat) (s : State) : Out :=
  .next (s.modQueue q fun d => { d with energyH := d.energy.extractLsb' 32 32 })

/-- QENERGY_WRITE: bits [31:0] set and bits [63:32] cleared. -/
def execQenergyWrite (q : Nat) (v : W32) (s : State) : Out := .next (s.modQueue q fun d => { d with energy := v.setWidth 64 })

/-- The configuration fields of the word at 0x00. -/
def Queue.config (d : Queue) (v : W64) : Queue :=
  { d with il := v.getLsbD 30, ser := v.getLsbD 29, prio := v.extractLsb' 15 3, part := v.extractLsb' 12 3, ctx := v.extractLsb' 0 9 }

/-- A write of the word at 0x00: honoured for EN alone while EN is 1. -/
def writeQueue0 (s : State) (q : Nat) (v : W64) : State :=
  if (s.queue q).en then s.modQueue q fun d => { d with en := v.getLsbD 31 }
  else
    let s := (s.modQueue q fun d => d.config v).releaseUnused
    if v.getLsbD 31 then enableQueue s q else s

/-- A field written only while EN is 0. -/
def Queue.whenOff (f : Queue → Queue) (d : Queue) : Queue := if d.en then d else f d

/-- RINGL and LOG2N. -/
def Queue.setRingL (v : W64) (d : Queue) : Queue :=
  { d with logn := v.extractLsb' 0 5, ring := d.ring.extractLsb' 32 20 ++ v.extractLsb' 7 25 ++ (0 : BitVec 7) }
/-- RINGH. -/
def Queue.setRingH (v : W64) (d : Queue) : Queue := { d with ring := v.extractLsb' 0 20 ++ d.ring.extractLsb' 0 32 }

/-- A write to a queue descriptor (20 Table 20.1). -/
def writeQueue (s : State) (q o : Nat) (v : W64) : State :=
  match o with
  | 0x00 => writeQueue0 s q v
  | 0x04 => s.modQueue q (Queue.whenOff fun d => { d with rhost := v.getLsbD 0 })
  | 0x08 => s.modQueue q (Queue.whenOff (Queue.setRingL v))
  | 0x0C => s.modQueue q (Queue.whenOff (Queue.setRingH v))
  | 0x14 => s.modQueue q fun d => { d with tail := v.extractLsb' 0 32 }
  | 0x1C => s.modQueue q fun d => { d with energy := v &&& 0xFFFFFFFF }
  | _ => s

/-! ## Partitions -/

/-- A unit of one partition's masks stands in another's. -/
def Masks.meets (a b : Masks) : Bool :=
  a.cores &&& b.cores != 0 || a.hbm &&& b.hbm != 0 || a.stay &&& b.stay != 0 || a.eth &&& b.eth != 0

/-- A core holds a block, a card or a reservation (24 R410, 20 R371). -/
def coreBusy (s : State) (core : Nat) : Bool :=
  !(s.resident core).isEmpty || s.cards.any (fun c => c.core == core) ||
  s.resv.any fun r => r.die == dieOf core && (partCores s r.part).contains core

/-- The verdict on a commit: CSTAT (24 R410). -/
def commitStatus (s : State) (p : Nat) (x : Part) : BitVec 2 :=
  let gone := x.a.cores &&& ~~~ x.w.cores
  if s.parts.zipIdx.any fun (y, q) => q != p && x.w.meets y.a then 2
  else if allCores.any fun c => gone.getLsbD c && coreBusy s c then 3
  else if (x.a.hbm &&& ~~~ x.w.hbm != 0 || x.a.stay &&& ~~~ x.w.stay != 0 || x.a.eth &&& ~~~ x.w.eth != 0) &&
      s.queues.any (fun q => q.2.en && q.2.part.toNat == p) then 3
  else 1

/-- A commit of partition p. -/
def commit (s : State) (p : Nat) : State :=
  match s.parts[p]? with
  | none => s
  | some x =>
    let st := commitStatus s p x
    { s with parts := s.parts.set p { x with a := if st = 1 then x.w else x.a, cstat := st } }

/-- PCFG_COMMIT. -/
def execPcfgCommit (p : Nat) (s : State) : Out := .next (commit s p)

/-- The written masks of a partition changed. -/
def Part.setW (f : Masks → Masks) (p : Part) : Part := { p with w := f p.w }

/-- 64 bits of a core mask replaced, from bit 64k. -/
def coresWord (m : BitVec 144) (k : Nat) (v : W64) : BitVec 144 :=
  let lo := 64 * k
  BitVec.ofNat 144 (m.toNat - m.toNat / 2 ^ lo % 2 ^ 64 * 2 ^ lo + v.toNat * 2 ^ lo)

/-- A write to a partition's configuration (24 Table 24.4). -/
def writePcfg (s : State) (p o : Nat) (v : W64) : State :=
  let set (f : Masks → Masks) : State := { s with parts := s.parts.modify p (Part.setW f) }
  match o with
  | 0x00 => set fun m => { m with cores := coresWord m.cores 0 v }
  | 0x08 => set fun m => { m with cores := coresWord m.cores 1 v }
  | 0x10 => set fun m => { m with cores := coresWord m.cores 2 (v &&& 0xFFFF) }
  | 0x18 => set fun m => { m with hbm := v.extractLsb' 0 12 }
  | 0x20 => set fun m => { m with stay := v.extractLsb' 0 36 }
  | 0x28 => set fun m => { m with eth := v.extractLsb' 0 8 }
  | 0x30 => if v.getLsbD 0 then commit s p else s
  | _ => s

/-- A write to a partition's registers (20 Table 20.6). -/
def writePart (s : State) (p o : Nat) (v : W64) : State :=
  match o with
  | 0x00 => { s with parts := s.parts.modify p fun x => { x with pcap := v.extractLsb' 0 16 } }
  | 0x0C => { s with parts := s.parts.modify p fun x => { x with pltol := v.extractLsb' 0 32 } }
  | _ => s

/-! ## The other registers -/

/-- A write to a translation control register (19 Table 19.5a). -/
def writeTctl (s : State) (o : Nat) (v : W64) : State :=
  match o with
  | 0x00 => { s with tctl := { s.tctl with cmd0 := v } }
  | 0x08 => { s with tctl := { s.tctl with cmd1 := v } }
  | 0x10 => { s with tctl := { s.tctl with cmd2 := v } }
  | 0x18 => enqueueCmd s v
  | 0x38 => { s with tctl := { s.tctl with ctxtbase := v &&& 0x000FFFFFFFFFC000 } }
  | _ => s

/-- A write to a module status register (24 Table 24.3). -/
def writeMstat (s : State) (o : Nat) (v : W64) : State :=
  match o with
  | 0x00 => { s with mstat := { s.mstat with modid := v.extractLsb' 0 12 } }
  | 0x10 =>
    let x : W32 := v.extractLsb' 0 32
    if 10 ≤ x.toNat && x.toNat ≤ 100000 then { s with mstat := { s.mstat with lto := x } } else s
  | _ => s

/-- A write to freeze control (24 Table 24.8). -/
def writeFrz (s : State) (o : Nat) (v : W64) : State :=
  match o with
  | 0x00 => { s with frz := { s.frz with arm := v.getLsbD 31, fcode := v.extractLsb' 8 8, fsrc := v.extractLsb' 0 3 } }
  | 0x08 => { s with frz := { s.frz with fcnt := v } }
  | _ => s

/-- The register window: which register an offset names (24 Table 24.2). An offset in no register is ignored. -/
def writeWindow (s : State) (off : Nat) (v : W64) : State :=
  if off < 0x40000 then writeQueue s (off / 64) (off % 64) v
  else if off < 0x40040 then writeTctl s (off - 0x40000) v
  else if off = 0x40100 then { s with pcmd0 := v }
  else if off = 0x40108 then outState (execPreemptRequest s.pcmd0 v s) s
  else if 0x41000 ≤ off && off < 0x41100 then writePart s ((off - 0x41000) / 32) ((off - 0x41000) % 32) v
  else if 0x41100 ≤ off && off < 0x41140 && off % 8 = 0 then
    { s with spool := s.spool.set ((off - 0x41100) / 8) (v &&& 0x000FFFFFFFE00FFF) }
  else if 0x41200 ≤ off && off < 0x41400 then writePcfg s ((off - 0x41200) / 64) ((off - 0x41200) % 64) v
  else if 0x42000 ≤ off && off < 0x43000 && off % 8 = 0 then
    { s with nodetab := assocSet s.nodetab ((off - 0x42000) / 8) (v &&& 0x000FFFFFFFFFFFFF) }
  else if 0x43000 ≤ off && off < 0x44000 && off % 8 = 0 then { s with dumpva := assocSet s.dumpva ((off - 0x43000) / 8) v }
  else if 0x44000 ≤ off && off < 0x44020 then writeMstat s (off - 0x44000) v
  else if 0x44100 ≤ off && off < 0x44120 then writeFrz s (off - 0x44100) v
  else if 0x45000 ≤ off && off < 0x45480 && off % 32 = 4 then
    { s with ports := s.ports.modify ((off - 0x45000) / 32) fun p => { p with errs := v.extractLsb' 0 32 } }
  else if 0x48000 ≤ off && off < 0x50000 && off % 8 = 0 then
    { s with route := assocSet s.route ((off - 0x48000) / 8) (v &&& 0x0000000FFFFFFFFF) }
  else s

/-- The registers that answer while the module is frozen: MSTAT and FRZCTL (24 R418). -/
def answersFrozen (off : Nat) : Bool := (0x44000 ≤ off && off < 0x44020) || (0x44100 ≤ off && off < 0x44120)

/-- REGISTER_WRITE (24 R407). -/
def execRegisterWrite (off : Nat) (v : W64) (s : State) : Out :=
  if s.frz.frozen && !answersFrozen off then .next s else .next (writeWindow s off v)

/-! ## Power, clock and idle states -/

/-- The duty and UNMET after a window of P watts (20 R368). -/
def Part.cap (x : Part) (p : Nat) : Part :=
  let cap := x.pcap.toNat
  let d := x.duty.toNat
  let x := { x with ppower := BitVec.ofNat 16 p }
  if cap != 0 && cap < p then
    let d2 := max (d * cap / p) 1
    { x with duty := BitVec.ofNat 7 d2, unmet := d2 == 1 }
  else if cap = 0 || p ≤ 97 * cap / 100 then { x with duty := BitVec.ofNat 7 (min (d + 1) 64), unmet := false }
  else x

/-- The picojoules in a microjoule. -/
def perMicro : Nat := 1000000

/-- Picojoules added to an energy counter: whole microjoules show, the fraction is carried (20 R370). -/
def Queue.charge (pj : Nat) (d : Queue) : Queue :=
  { d with energy := d.energy + BitVec.ofNat 64 ((d.carry + pj) / perMicro), carry := (d.carry + pj) % perMicro }

/-- Picojoules that no queue was charged. -/
def Part.chargeIdle (pj : Nat) (x : Part) : Part :=
  { x with pidlee := x.pidlee + BitVec.ofNat 32 ((x.carry + pj) / perMicro), carry := (x.carry + pj) % perMicro }

/-- Each queue's share of a meter, in proportion to its units among those of the queues that may be charged (20 R370, log 19). -/
def meterShares (m : Meter) (ok : Nat → Bool) : List (Nat × Nat) :=
  let us := m.units.filter fun x => ok x.1
  let total := us.foldl (fun n x => n + x.2) 0
  us.map fun x => (x.1, m.pj * x.2 / total)

/-- A meter charged: its shares to the queues, the rest to PIDLEE. -/
def chargeMeter (p : Nat) (ok : Nat → Bool) (s : State) (m : Meter) : State :=
  let sh := meterShares m ok
  let s := sh.foldl (fun s x => s.modQueue x.1 (Queue.charge x.2)) s
  { s with parts := s.parts.modify p (Part.chargeIdle (m.pj - sh.foldl (fun n x => n + x.2) 0)) }

/-- A queue whose block has been resident on a core in the window (20 R370). -/
def servedOn (s : State) (core q : Nat) : Bool := q < 4096 && ((s.cores[core]?).map fun c => c.served.contains q).getD false

/-- The queues of the blocks that stand on a core as a window begins. -/
def State.queuesOn (s : State) (core : Nat) : List Nat :=
  ((s.resident core).filterMap fun k => (s.grids[k.grid]?).map (·.queue)).eraseDups

/-- A new window begins on the cores of a partition. -/
def newWindow (s : State) (p : Nat) : State :=
  { s with cores := s.cores.zipIdx.map fun (c, k) =>
      if ((s.parts[p]?).map fun x => x.a.cores.getLsbD k).getD false then { c with served := s.queuesOn k } else c }

/-- POWER_WINDOW: the end of a window in which a partition was metered at `watts` and the module at `input`; the energy of each of its cores goes to
the queues whose blocks were resident on it, that of stacks and ports to the queues whose accesses moved bytes (20 R368, R370; the metered values
are inputs, log 19). -/
def execPowerWindow (p watts input : Nat) (cores : List Meter) (mem : Meter) (s : State) : Out :=
  let own := cores.filter fun m => ((s.parts[p]?).map fun x => x.a.cores.getLsbD m.core).getD false
  let s := own.foldl (fun s m => chargeMeter p (servedOn s m.core) s m) s
  let s := chargeMeter p (fun q => q < 4096) s mem
  let s := newWindow { s with mstat := { s.mstat with mpower := BitVec.ofNat 16 input } } p
  .next { s with parts := s.parts.modify p fun x => x.cap watts }

/-- THERMAL_THROTTLE: the clock, never above 3300 MHz, and the hottest junction (20 R369, 24 Table 24.3). -/
def execThermalThrottle (mhz temp : Nat) (s : State) : Out :=
  .next { s with mstat := { s.mstat with fclk := BitVec.ofNat 16 (min mhz 3300), temp := BitVec.ofNat 16 temp } }

/-- The deepest idle state whose exit latency does not exceed a tolerance in ns (20 Table 20.8). -/
def deepest (tol : Nat) : Nat := if 40000 ≤ tol then 3 else if 5000 ≤ tol then 2 else if 200 ≤ tol then 1 else 0

/-- The partition of a core. -/
def corePart (s : State) (core : Nat) : Option Part := s.parts.find? fun p => p.a.cores.getLsbD core

/-- A core in an idle state; state 3 loses its TLB (20 Table 20.8). -/
def Core.rest (n : Nat) (c : Core) : Core := { c with idle := n, tlb := if n = 3 then [] else c.tlb }

/-- IDLE_ENTRY (20 R371). -/
def execIdleEntry (core : Nat) (s : State) : Out :=
  match s.cores[core]?, corePart s core with
  | some c, some p =>
    if coreBusy s core || s.cycle - c.emptyAt < s.micros 20 then .next s
    else .next (s.modCore core (Core.rest (deepest p.pltol.toNat)))
  | _, _ => .next s

/-- IDLE_EXIT (20 R371). -/
def execIdleExit (core : Nat) (s : State) : Out := .next (s.modCore core fun c => { c with idle := 0 })

/-- The idle state of an HBM stack (20 R371, Table 20.8): self-refresh when its partition has cores and every one of them is in state 3, else
running. -/
def State.stackIdle (s : State) (stack : Nat) : Nat :=
  match s.parts.find? fun p => p.a.hbm.getLsbD stack with
  | some p =>
    let cs := allCores.filter fun c => p.a.cores.getLsbD c
    if !cs.isEmpty && cs.all fun c => ((s.cores[c]?).map (·.idle)).getD 0 == 3 then 3 else 0
  | none => 0

/-! ## Reads of the register window -/

/-- A word of fields, each with its lowest bit. -/
def fieldsWord (l : List (Nat × Nat)) : W64 := l.foldl (fun w x => w ||| BitVec.ofNat 64 (x.2 * 2 ^ x.1)) 0

/-- A register of a queue descriptor (20 Table 20.1). -/
def readQueue (d : Queue) (o : Nat) : W64 :=
  match o with
  | 0x00 => fieldsWord [(31, d.en.toNat), (30, d.il.toNat), (29, d.ser.toNat), (15, d.prio.toNat), (12, d.part.toNat), (0, d.ctx.toNat)]
  | 0x04 => fieldsWord [(0, d.rhost.toNat)]
  | 0x08 => (d.ring.extractLsb' 7 25 ++ (0 : BitVec 2) ++ d.logn).setWidth 64
  | 0x0C => (d.ring.extractLsb' 32 20).setWidth 64
  | 0x14 => d.tail.setWidth 64
  | 0x18 => d.head.setWidth 64
  | 0x1C => (d.energy.extractLsb' 0 32).setWidth 64
  | 0x20 => d.energyH.setWidth 64
  | 0x24 => d.done.setWidth 64
  | _ => 0

/-- A translation control register (19 Table 19.5a); the command words are write-only. -/
def readTctl (t : TCtl) (o : Nat) : W64 :=
  match o with
  | 0x20 => t.ticket.setWidth 64
  | 0x28 => t.done.setWidth 64
  | 0x30 => BitVec.ofNat 64 (tcFree t)
  | 0x38 => t.ctxtbase
  | _ => 0

/-- A partition register (20 Table 20.6). -/
def readPart (x : Part) (o : Nat) : W64 :=
  match o with
  | 0x00 => x.pcap.setWidth 64
  | 0x08 => fieldsWord [(16, x.ppower.toNat), (7, x.unmet.toNat), (0, x.duty.toNat)]
  | 0x0C => x.pltol.setWidth 64
  | 0x10 => x.pidlee.setWidth 64
  | _ => 0

/-- A partition's configuration (24 Table 24.4): a mask field reads as the applied mask; COMMIT is write-only. -/
def readPcfg (x : Part) (o : Nat) : W64 :=
  match o with
  | 0x00 => x.a.cores.extractLsb' 0 64
  | 0x08 => x.a.cores.extractLsb' 64 64
  | 0x10 => (x.a.cores.extractLsb' 128 16).setWidth 64
  | 0x18 => x.a.hbm.setWidth 64
  | 0x20 => x.a.stay.setWidth 64
  | 0x28 => x.a.eth.setWidth 64
  | 0x30 => fieldsWord [(1, x.cstat.toNat)]
  | _ => 0

/-- A module status register (24 Table 24.3). -/
def readMstat (m : MStat) (o : Nat) : W64 :=
  match o with
  | 0x00 => m.modid.setWidth 64
  | 0x04 => m.boot.setWidth 64
  | 0x08 => m.fclk.setWidth 64
  | 0x0C => fieldsWord [(16, m.mpower.toNat), (0, m.temp.toNat)]
  | 0x10 => m.lto.setWidth 64
  | _ => 0

/-- A register of freeze control (24 Table 24.8). -/
def readFrz (z : Frz) (o : Nat) : W64 :=
  match o with
  | 0x00 => fieldsWord [(31, z.arm.toNat), (8, z.fcode.toNat), (0, z.fsrc.toNat)]
  | 0x08 => z.fcnt
  | 0x10 => fieldsWord [(31, z.frozen.toNat), (0, z.fcause.toNat)]
  | _ => 0

/-- A register of a Stay port (24 R412). -/
def readPort (p : Port) (o : Nat) : W64 :=
  match o with
  | 0x00 => fieldsWord [(0, p.up.toNat)]
  | 0x04 => p.errs.setWidth 64
  | 0x08 => p.downs.setWidth 64
  | _ => 0

/-- What a register of the window reads as (24 Table 24.2); an offset that the table does not list reads as zero (24 R407). The pre-emption command
registers read as written (log 87). -/
def readWindow (s : State) (off : Nat) : W64 :=
  if off < 0x40000 then readQueue (s.queue (off / 64)) (off % 64)
  else if off < 0x40040 then readTctl s.tctl (off - 0x40000)
  else if off = 0x40100 then s.pcmd0
  else if off = 0x40108 then s.pcmd1
  else if 0x41000 ≤ off && off < 0x41100 then readPart (nth Part.fresh s.parts ((off - 0x41000) / 32)) ((off - 0x41000) % 32)
  else if 0x41100 ≤ off && off < 0x41140 && off % 8 = 0 then nth 0 s.spool ((off - 0x41100) / 8)
  else if 0x41200 ≤ off && off < 0x41400 then readPcfg (nth Part.fresh s.parts ((off - 0x41200) / 64)) ((off - 0x41200) % 64)
  else if 0x42000 ≤ off && off < 0x43000 && off % 8 = 0 then assocGet 0 s.nodetab ((off - 0x42000) / 8)
  else if 0x43000 ≤ off && off < 0x44000 && off % 8 = 0 then assocGet 0 s.dumpva ((off - 0x43000) / 8)
  else if 0x44000 ≤ off && off < 0x44020 then readMstat s.mstat (off - 0x44000)
  else if 0x44100 ≤ off && off < 0x44120 then readFrz s.frz (off - 0x44100)
  else if 0x45000 ≤ off && off < 0x45480 then
    ((s.ports[(off - 0x45000) / 32]?).map fun p => readPort p ((off - 0x45000) % 32)).getD 0
  else if 0x48000 ≤ off && off < 0x50000 && off % 8 = 0 then assocGet 0 s.route ((off - 0x48000) / 8)
  else 0

/-- A read of the window: what it answers, nothing from a frozen module but for MSTAT and FRZCTL (24 R418), and the state it leaves; a read of
QENERGY captures bits [63:32] of the counter (20 Table 20.1). -/
def registerRead (s : State) (off : Nat) : Option W64 × State :=
  if s.frz.frozen && !answersFrozen off then (none, s)
  else (some (readWindow s off), if off < 0x40000 && off % 64 = 0x1C then outState (execQenergyRead (off / 64) s) s else s)

/-! ## Freeze -/

/-- The module freezes for a cause; the triggers that fire in the same cycle are recorded with it (24 R417). -/
def freeze (s : State) (cause : BitVec 3) : State :=
  { s with frz := { s.frz with frozen := true, fcause := s.frz.fcause ||| cause ||| s.firing } }

/-- FREEZE_PIN. -/
def execFreezePin (s : State) : Out := .next (if s.frz.arm && s.frz.fsrc.getLsbD 0 then freeze s 1 else s)

/-- FREEZE_COUNTER: the cycle count stands at FCNT. -/
def execFreezeCounter (s : State) : Out :=
  .next (if s.frz.arm && s.frz.fsrc.getLsbD 2 && s.cycle == s.frz.fcnt.toNat then freeze s 4 else s)

end Sys2Proof.Machine
end

