-- ==== Sys2Proof/Machine/System.lean ====
section
/-! DEFINITION. The system words, opcodes 0xD0-0xDF but CINV: CSR access, the handler words, and the privileged words (03 R57-R66, 18 R329,
21 R377-R389). -/

namespace Sys2Proof.Machine

open Sys2Proof

/-! ## CSRs -/

/-- The CSRs of lane scope (03 Table 3.3). -/
def csrLane (a : Nat) : Bool := a == 0 || a == 0x10 || a == 0x11 || a == 0x21 || (0xF0 ≤ a && a ≤ 0xF8)

/-- The assigned CSR addresses (03 Table 3.3, 18 Table 18.3, 21 Table 21.5). -/
def csrAssigned (a : Nat) : Bool :=
  [0x000, 0x001, 0x002, 0x004, 0x005, 0x006, 0x007, 0x008, 0x009, 0x00A, 0x00B, 0x010, 0x011, 0x020, 0x021, 0x022, 0x030, 0x031, 0x032,
   0x033, 0x034, 0x035, 0x038, 0x039, 0x040, 0x041, 0x042, 0x043, 0x044, 0x045].contains a || (0xF0 ≤ a && a ≤ 0xF8) ||
  [0x880, 0x881, 0x882, 0x890, 0x8A0, 0x8A1, 0x8A2].contains a

/-- The cycle count of a core: 0 when it leaves reset (03 Table 3.3). -/
def State.coreCycle (s : State) (core : Nat) : W64 :=
  BitVec.ofNat 64 (s.cycle - ((s.cores[core]?).map (·.left)).getD 0)

/-- CFST: bit i while flag fi is set. -/
def Warp.cfst (w : Warp) : W32 := BitVec.ofNat 32 (boolsNat (w.flags.map fun n => n != 0))

/-- DGOCC: blocks of the translation cache in use (18 R329). -/
def Die.dgocc (d : Die) : W32 := BitVec.ofNat 32 (d.tags.foldl (fun n t => n + t.nblk) 0)

/-- A trap-frame CSR of a lane. -/
def TfCsrs.read (t : TfCsrs) (k : Nat) : W32 :=
  match k with
  | 0 => t.pc
  | 1 => t.code
  | 2 => t.word.extractLsb' 0 32
  | 3 => t.word.extractLsb' 32 32
  | 4 => t.addr.extractLsb' 0 32
  | 5 => (t.addr.extractLsb' 32 25).setWidth 32
  | 6 => t.mask.extractLsb' 0 32
  | 7 => t.mask.extractLsb' 32 32
  | _ => t.aux

/-- The value of a CSR in a lane. -/
def csrValue (s : State) (c : Ctx) (a i : Nat) : W32 :=
  let l := c.wp.lane i
  let g := c.grid
  let b := c.blk.lin
  let die := s.dies[dieOf c.blk.core]?
  let n (x : Nat) : W32 := BitVec.ofNat 32 x
  match a with
  | 0x000 => n i
  | 0x001 => n c.r.w
  | 0x002 => n c.kern.width
  | 0x004 => n (b % g.gx)
  | 0x005 => n (b / g.gx % g.gy)
  | 0x006 => n (b / (g.gx * g.gy))
  | 0x007 => n (b / c.kern.gang)
  | 0x008 => n g.gx
  | 0x009 => n g.gy
  | 0x00A => n g.gz
  | 0x00B => n c.grank
  | 0x010 => l.flags.setWidth 32
  | 0x011 => l.fpctl.setWidth 32
  | 0x020 => (s.coreCycle c.blk.core).extractLsb' 0 32
  | 0x021 => l.cycleH
  | 0x022 => n c.blk.core
  | 0x034 => c.wp.cfst
  | 0x035 => c.blk.gstate
  | 0x038 => n c.wp.quota
  | 0x039 => n c.wp.heldCount
  | 0x040 => c.wp.predCnt
  | 0x041 => c.wp.mispCnt
  | 0x042 => c.wp.replCnt
  | 0x043 => c.wp.fuseCnt
  | 0x044 => c.wp.splitCnt
  | 0x045 => c.wp.parkCnt
  | 0x880 => ((die.map Die.secfuse).getD 0).setWidth 32
  | 0x881 => (die.map Die.dgmiss).getD 0
  | 0x882 => (die.map Die.dgocc).getD 0
  | 0x890 => ((die.map Die.wdlim).getD 0).setWidth 32
  | 0x8A0 => c.wp.scont
  | 0x8A1 => c.wp.snest
  | 0x8A2 => 1
  | _ =>
    if 0x030 ≤ a && a ≤ 0x033 then ((s.cores[c.blk.core]?).map fun k => nth 0 k.seq (a - 0x030)).getD 0
    else l.tf.read (a - 0xF0)

/-- The trap of a CSR access by its address, in every active lane (03 R65, 21 R382). -/
def csrTrap (c : Ctx) (a : Nat) (d : Bool) : Option Nat :=
  if 0x800 ≤ a && !c.kern.priv then some 9
  else if !csrAssigned a || (d && csrLane a) then some 2
  else none

/-- A read of CYCLE captures the high bits for the lane. -/
def captureCycle (s : State) (c : Ctx) (a : Nat) (lanes : List Nat) : State :=
  if a = 0x020 then
    let h := (s.coreCycle c.blk.core).extractLsb' 32 32
    s.modWarp c.r fun w => w.mapLanes lanes fun _ l => { l with cycleH := h }
  else s

/-- Words written to a destination: each lane its own, or the s-registers once, from the first lane. -/
def writeDest (s : State) (r : WarpRef) (d : Reg) (lanes : List Nat) (f : Nat → List PW) : State :=
  s.modWarp r fun w =>
    if d.s then (match lanes with | [] => w | i :: _ => w.setSs d.n.toNat (f i))
    else w.mapLanes lanes fun i l => l.setVs d.n.toNat (f i)

/-- The lanes that give or take a word's result: a scalar destination takes an ordinary lane's, or a helper's where Active holds no other
(07 R165, R169). -/
def destLanes (d : Reg) (act hl : List Nat) : List Nat := if d.s then (if act.isEmpty then hl else act) else act ++ hl

/-- Words written to a destination by the lanes of Active; an s-register keeps its value when a lane of Active traps by its guard (07 R169). -/
def writeActive (s : State) (c : Ctx) (g : Guard) (d : Reg) (act hl : List Nat) (f : Nat → List PW) : State :=
  if d.s && c.spoiled g then s else writeDest s c.r d (destLanes d act hl) f

/-- Poisoned zero in the destination where a helper lane stands in the place of a trap (02 R44). -/
def spoilDest (s : State) (r : WarpRef) (d : Reg) (n : Nat) (act hl : List Nat) : State :=
  writeDest s r d (if d.s && !act.isEmpty then [] else hl) fun _ => List.replicate n poisonPW

/-- CSRR (03 R65). -/
def execCsrr (o : CsrrOp) (s : State) : Out :=
  issueWord 0xD0 (.csrr o) o.g (fun s c act hl =>
    let a := o.csr.toNat
    match csrTrap c a o.d.s with
    | some code => .done (spoilDest s c.r o.d 1 act hl) (trapAll act code 0) []
    | none =>
      .done (writeActive (captureCycle s c a (act ++ hl)) c o.g o.d act hl fun i => [{ val := csrValue s c a i, poison := false }]) [] []) s

/-- WDLIM as written: 20 to 40, or 0; any other value sets 40 (21 R382). -/
def wdlimOf (x : W32) : BitVec 6 :=
  let n := x.toNat % 64
  if n = 0 || (20 ≤ n && n ≤ 40) then BitVec.ofNat 6 n else 40

/-- One lane's write of a read-write CSR; a write of a read-only one changes nothing. -/
def csrWrite (c : Ctx) (a : Nat) (s : State) (i : Nat) (x : W32) : State :=
  let warp (f : Warp → Warp) : State := s.modWarp c.r f
  match a with
  | 0x010 => warp (·.modLane i fun l => { l with flags := x.extractLsb' 0 5 })
  | 0x011 => warp (·.modLane i fun l => { l with fpctl := x.extractLsb' 0 5 })
  | 0x040 => warp fun w => { w with predCnt := x }
  | 0x041 => warp fun w => { w with mispCnt := x }
  | 0x042 => warp fun w => { w with replCnt := x }
  | 0x043 => warp fun w => { w with fuseCnt := x }
  | 0x044 => warp fun w => { w with splitCnt := x }
  | 0x045 => warp fun w => { w with parkCnt := x }
  | 0x881 => s.modDie (dieOf c.blk.core) fun d => { d with dgmiss := x }
  | 0x890 => s.modDie (dieOf c.blk.core) fun d => { d with wdlim := wdlimOf x }
  | 0x8A0 => warp fun w => { w with scont := x }
  | 0x8A1 => warp fun w => { w with snest := x }
  | _ => s

/-- CSRW (03 R65): the lanes in ascending order, so the highest-numbered decides a CSR that they share. -/
def execCsrw (o : CsrwOp) (s : State) : Out :=
  issueWord 0xD1 (.csrw o) o.g (fun s c act _ =>
    let a := o.csr.toNat
    match csrTrap c a false with
    | some code => .done s (trapAll act code 0) []
    | none => .done (act.foldl (fun s i => let x := c.wp.reg o.a i; if x.poison then s else csrWrite c a s i x.val) s) [] []) s

/-- CLOCK (03 R65). -/
def execClock (o : ClockOp) (s : State) : Out :=
  issueWord 0xD6 (.clock o) o.g (fun s c act hl =>
    .done (writeActive s c o.g o.d act hl fun _ => pairWords (s.coreCycle c.blk.core) false) [] []) s

/-! ## Registers by number -/

/-- The number names a register that a handler lane has in its frame (21 R379). -/
def inFrame (l : Lane) (nv n : Nat) : Bool := l.handler && ((nv - 8 ≤ n && n < nv) || (256 ≤ n && n ≤ 262))

/-- A register of a lane by number, live. -/
def Lane.byNumber (l : Lane) (n : Nat) : PW :=
  if n < 256 then nth zeroPW l.v n
  else
    let p := l.pred (BitVec.ofNat 3 (n - 256))
    { val := if p.val then 1 else 0, poison := p.poison }

/-- A lane with its registers as its frame has them. -/
def framed (k : Block) (w i nv : Nat) (l : Lane) : Lane := l.restoreFrame nv (memBytes k.bytes (frameAt k w i) 48)

/-- Register n of lane i of a warp: from the frame when it holds it. -/
def readNumber (k : Block) (w i nv : Nat) (l : Lane) (n : Nat) : PW :=
  if inFrame l nv n then (framed k w i nv l).byNumber n else l.byNumber n

/-- A register of a lane written by number; 263 names p7 and discards. -/
def Lane.setNumber (l : Lane) (n : Nat) (x : PW) : Lane :=
  if n < 256 then l.setV n x else l.setPred (BitVec.ofNat 3 (n - 256)) { val := x.val.getLsbD 0, poison := x.poison }

/-- Register n of lane i of a block's warp written, in the frame when it holds it. -/
def writeNumber (s : State) (r : WarpRef) (nv i n : Nat) (x : PW) : State :=
  match s.warp? r with
  | some w =>
    let l := w.lane i
    if inFrame l nv n then
      s.modBlock r.b fun k => { k with bytes := memPut k.bytes (frameAt k r.w i) (((framed k r.w i nv l).setNumber n x).frameBytes nv) }
    else s.modWarp r (·.modLane i (·.setNumber n x))
  | none => s

/-- The number operand of RDREG and WRREG in a lane: the register, or the trap (21 R379). -/
def regNumber (c : Ctx) (b : Src) (i : Nat) : Nat ⊕ LaneTrap :=
  let x := c.wp.src b i
  let n := x.val.toNat
  if x.poison then .inr (c.wp.poisonTrap i 6)
  else if 264 ≤ n || (n < 256 && c.kern.nv ≤ n) then .inr (mkTrap i 2 0 0 x.val)
  else .inl n

/-- RDREG (21 R379). A helper lane in the place of a trap receives poisoned zero (02 R44). -/
def execRdreg (o : RdregOp) (s : State) : Out :=
  issueWord 0xD2 (.rdreg o) o.g (fun s c act hl =>
    let val (i : Nat) : List PW := match regNumber c o.b i with
      | .inl n => [readNumber c.blk c.r.w i c.kern.nv (c.wp.lane i) n]
      | .inr _ => [poisonPW]
    let ts := rightsOf (act.map (regNumber c o.b))
    let ok := act.filter fun i => !ts.any (·.lane == i)
    .done (writeDest s c.r (Reg.vec o.d) (ok ++ hl) val) ts []) s

/-- WRREG (21 R379); a helper lane writes nothing. -/
def execWrreg (o : WrregOp) (s : State) : Out :=
  issueWord 0xD3 (.wrreg o) o.g (fun s c act _ =>
    let ts := rightsOf (act.map (regNumber c o.b))
    .done (act.foldl (fun s i => match regNumber c o.b i with
      | .inl n => writeNumber s c.r c.kern.nv i n (c.wp.reg o.a i)
      | .inr _ => s) s) ts []) s

/-! ## TRET -/

/-- An entry that waits at a TRET. -/
def Entry.atTret (e : Entry) : Option Nat := match e.st with | .waiting (.tret adj) => some adj | _ => none

/-- The handler lanes of a warp that have not retired. -/
def Warp.handlerMask (w : Warp) : LaneMask :=
  maskOf ((List.range w.lanes.length).filter fun i => (w.lane i).handler && !(w.lane i).retired)

/-- The return, once every handler lane not retired stands at one TRET (21 R380). -/
def meetTret (s : State) (r : WarpRef) : State :=
  match s.warp? r with
  | none => s
  | some w =>
    match w.entries.find? fun e => e.mask != 0 && e.atTret.isSome with
    | none => s
    | some e =>
      let here := w.entries.foldl (fun m x => if x.pc == e.pc && x.atTret.isSome then m ||| x.mask else m) 0
      if w.handlerMask &&& ~~~ here = 0 then tretReturn s r (e.atTret.getD 0) here else s

/-- TRET (21 R378, R380): unguarded and last in its clause; outside handler mode it raises PROTECTION. -/
def execTret (o : TretOp) (s : State) : Out :=
  issueWord 0xD4 (.tret o) { neg := false, pred := 7 } (fun s c act _ =>
    if !c.isLast then .done s (trapAll act 2 0) []
    else if !c.ent.handler then .done s (trapAll act 9 0) []
    else
      let leave : Leave := { mask := maskOf act, pc := c.ent.pc, st := .waiting (.tret (if o.adj then 8 else 0)) }
      .placed (meetTret (s.finish c.r [] [leave]) c.r)) s

/-! ## HALTB, RESUMEB -/

/-- The cores a selector names (21 R384). -/
def coreSel (sel : W32) (core : Nat) : Bool := sel == 0xFFFFFFFF || core == sel.toNat

/-- The context and core selector of HALTB, RESUMEB and DRAIN: the trap they raise, or their values (21 R384). -/
def selOperands (c : Ctx) (act : List Nat) (a b : BitVec 8) : List LaneTrap ⊕ (Nat × W32) :=
  let x := nth zeroPW c.wp.s a.toNat
  let y := nth zeroPW c.wp.s b.toNat
  if x.poison || y.poison then .inl (act.map fun i => c.wp.poisonTrap i 6)
  else if 512 ≤ x.val.toNat || (Config.numCores ≤ y.val.toNat && y.val != 0xFFFFFFFF) then .inl (trapAll act 9 0)
  else .inr (x.val.toNat, y.val)

/-- Placement of a context's new blocks stopped or allowed. -/
def setNoPlace (s : State) (ctx : Nat) (sel : W32) (x : Bool) : State :=
  if sel = 0xFFFFFFFF then s.putCtx ctx { s.ctxInfo ctx with noPlace := x } else s

/-- HALTB (21 R385). -/
def execHaltb (o : HaltOp) (s : State) : Out :=
  issueWord 0xD8 (.haltb o) o.g (fun s c act _ =>
    match selOperands c act o.a o.b with
    | .inl ts => .done s ts []
    | .inr (ctx, sel) =>
      let s := setNoPlace (s.mapBlocksOf ctx (coreSel sel) (Block.halt s.cycle)) ctx sel true
      if s.stopped ctx (coreSel sel) then .done s [] []
      else .done s [] [{ mask := maskOf act, pc := c.ent.pc, st := .waiting (.halts ctx sel.toNat) }]) s

/-- RESUMEB (21 R385). -/
def execResumeb (o : HaltOp) (s : State) : Out :=
  issueWord 0xD9 (.resumeb o) o.g (fun s c act _ =>
    match selOperands c act o.a o.b with
    | .inl ts => .done s ts []
    | .inr (ctx, sel) => .done (setNoPlace (s.mapBlocksOf ctx (coreSel sel) (Block.resume s.cycle)) ctx sel false) [] []) s

/-! ## RDWREG, WRWREG, RDLINE -/

/-- The resident warp that a handle names (21 R384). -/
def State.handle? (s : State) (h : W32) : Option WarpRef :=
  let core := field h.toNat 23 16
  let k := field h.toNat 6 0
  if field h.toNat 31 24 != 0 || field h.toNat 15 7 != 0 || Config.numCores ≤ core || 96 ≤ k then none
  else s.refs.find? fun r =>
    match s.blocks[r.b]?, s.warp? r with
    | some b, some w => b.place == .resident && b.core == core && w.ctxIdx == k && s.ctxOf r.b != sysCtx
    | _, _ => false

/-- A target of RDWREG, WRWREG or RDLINE. -/
structure Target where
  r    : WarpRef
  blk  : Block
  kern : Kernel
  wp   : Warp
  lane : Nat
  deriving DecidableEq, Repr

/-- The halted warp a handle names, with its lane number unchecked. -/
def State.target? (s : State) (h : W32) (lane : Nat) : Option Target :=
  (s.handle? h).bind fun r =>
    match s.blocks[r.b]?, s.kernelOf? r.b, s.warp? r with
    | some b, some k, some w => if b.halted then some { r := r, blk := b, kern := k, wp := w, lane := lane } else none
    | _, _, _ => none

/-- The operands of a per-lane privileged word: handle, selector and lane, or the poison trap. -/
def wregOperands (c : Ctx) (h : BitVec 8) (b cc : Reg) (i : Nat) : Option (W32 × W32 × W32) :=
  let x := nth zeroPW c.wp.s h.toNat
  let y := c.wp.reg b i
  let z := c.wp.reg cc i
  if x.poison || y.poison || z.poison then none else some (x.val, y.val, z.val)

/-- The register numbers of 21 Table 21.7. -/
inductive WReg where
  | lane (n : Nat)
  | s (k : Nat)
  | flag (k : Nat)
  | tf (k : Nat)
  | fp (ctl : Bool)
  | poisonLane (n : Nat)
  | poisonS (k : Nat)
  | none
  deriving DecidableEq, Repr

/-- The register a number names in a warp of nv registers. -/
def wregOf (nv n : Nat) : WReg :=
  if n < 256 then (if n < nv then .lane n else .none)
  else if n < 264 then .lane n
  else if n < 328 then .s (n - 264)
  else if n < 340 then .flag (n - 328)
  else if n < 349 then .tf (n - 340)
  else if n < 351 then .fp (n == 350)
  else if 0x200 ≤ n && n < 0x200 + 264 then (if n - 0x200 < nv || 256 ≤ n - 0x200 then .poisonLane (n - 0x200) else .none)
  else if 0x200 + 264 ≤ n && n < 0x200 + 328 then .poisonS (n - 0x200 - 264)
  else .none

/-- The lane operand of a number matters. -/
def WReg.perLane : WReg → Bool
  | .s _ => false
  | .poisonS _ => false
  | _ => true

/-- The value of a register of a target (21 Table 21.7). -/
def Target.read (t : Target) (x : WReg) : W32 :=
  let l := t.wp.lane t.lane
  let num (n : Nat) : PW := readNumber t.blk t.r.w t.lane t.kern.nv l n
  let bit (p : Bool) : W32 := if p then 1 else 0
  match x with
  | .lane n => (num n).val
  | .s k => (nth zeroPW t.wp.s k).val
  | .flag k => BitVec.ofNat 32 (nth 0 t.wp.flags k)
  | .tf k => l.tf.read k
  | .fp ctl => (if ctl then l.fpctl else l.flags).setWidth 32
  | .poisonLane n => bit (num n).poison
  | .poisonS k => bit (nth zeroPW t.wp.s k).poison
  | .none => 0

/-- A target with its register, or the trap of one lane (21 R384, R386). -/
def wregLane (s : State) (c : Ctx) (h : BitVec 8) (b cc : Reg) (i : Nat) : (Target × WReg) ⊕ LaneTrap :=
  match wregOperands c h b cc i with
  | none => .inr (c.wp.poisonTrap i 6)
  | some (hv, n, lane) =>
    match s.target? hv lane.toNat with
    | none => .inr (mkTrap i 9 0 0 0)
    | some t =>
      let x := wregOf t.kern.nv n.toNat
      if x.perLane && t.kern.width ≤ lane.toNat then .inr (mkTrap i 9 0 0 0)
      else if x == .none then .inr (mkTrap i 2 0 0 0)
      else .inl (t, x)

/-- RDWREG (21 R386). -/
def execRdwreg (o : RdwregOp) (s : State) : Out :=
  issueWord 0xDA (.rdwreg o) o.g (fun s c act hl =>
    let r (i : Nat) := wregLane s c o.h o.b o.c i
    let ts := rightsOf (act.map r)
    let ok := act.filter fun i => !ts.any (·.lane == i)
    .done (writeDest s c.r (Reg.vec o.d) (ok ++ hl) fun i => match r i with
      | .inl (t, x) => [{ val := t.read x, poison := false }]
      | .inr _ => [poisonPW]) ts []) s

/-- A register of a target written with the source's poison; a read-only number is refused (21 R386). -/
def writeTarget (s : State) (t : Target) (x : WReg) (v : PW) : Option State :=
  match x with
  | .lane n => some (writeNumber s t.r t.kern.nv t.lane n v)
  | .s k => some (s.modWarp t.r (·.setSs k [v]))
  | .fp ctl => some (s.modWarp t.r (·.modLane t.lane fun l =>
      if ctl then { l with fpctl := v.val.extractLsb' 0 5 } else { l with flags := v.val.extractLsb' 0 5 }))
  | _ => none

/-- One lane of WRWREG. -/
def wrwregLane (o : WrwregOp) (c : Ctx) (s : State) (i : Nat) : AccRes Unit :=
  match wregLane s c o.h o.b o.c i with
  | .inr t => .trap t s
  | .inl (t, x) =>
    match writeTarget s t x (c.wp.reg o.d i) with
    | some s => .ok () s
    | none => .trap (mkTrap i 2 0 0 0) s

/-- WRWREG (21 R386). -/
def execWrwreg (o : WrwregOp) (s : State) : Out :=
  issueWord 0xDB (.wrwreg o) o.g (fun s c act _ =>
    match eachLane (wrwregLane o c) act s with
    | .ok (s, ts) => .done s ts []
    | .error _ => .done s [] []) s

/-- The data word of a binding at an offset (21 Table 21.8 SEL 0). -/
def bindWord (w : Warp) (b : Bind) (off : Nat) : W32 :=
  match b with
  | .bound l _ m _ =>
    match w.held? l with
    | some h =>
      if m = .s then 0
      else BitVec.ofNat 32 (leNat ((List.range 4).map fun k =>
        if h.parked && !h.dirty.getLsbD (off + k) then 0 else nth 0 h.data (off + k)))
    | none => 0
  | _ => 0

/-- The address of a binding (21 Table 21.8 SEL 1, 2). -/
def bindAddr (b : Bind) : VAddr :=
  match b with
  | .unbound => 0
  | .bound l _ _ _ => l
  | .zero l _ _ _ => l
  | .poisoned a _ _ _ => a

/-- The mode of a binding. -/
def bindMode (b : Bind) : Nat :=
  match b with
  | .unbound => 0
  | .bound _ _ m _ => modeCode m
  | .zero _ _ m _ => modeCode m
  | .poisoned _ _ m _ => modeCode m

/-- The sectors of a held line with a dirty byte. -/
def dirtySectors (w : Warp) (b : Bind) : Nat :=
  match b with
  | .bound l _ _ _ =>
    match w.held? l with
    | some h => boolsNat ((List.range 4).map fun k => h.dirty.extractLsb' (32 * k) 32 != 0)
    | none => 0
  | _ => 0

/-- The state word of a binding (21 Table 21.8 SEL 3). -/
def bindState (w : Warp) (b : Bind) : W32 :=
  BitVec.ofNat 32 ((lineQuery w 0 b).toNat + bindMode b * 2 ^ 8 + b.cursor.toNat * 2 ^ 16 + dirtySectors w b * 2 ^ 24)

/-- RDLINE in one lane (21 R387). -/
def rdlineLane (s : State) (c : Ctx) (o : RdwregOp) (i : Nat) : PW ⊕ LaneTrap :=
  match wregOperands c o.h o.b o.c i with
  | none => .inr (c.wp.poisonTrap i 6)
  | some (hv, sel, lane) =>
    let off := field sel.toNat 14 8
    match s.target? hv lane.toNat with
    | none => .inr (mkTrap i 9 0 0 0)
    | some t =>
      if t.kern.width ≤ lane.toNat || sel &&& ~~~ (0x00037F07 : W32) != 0 || 124 < off || off % 4 != 0 then .inr (mkTrap i 9 0 0 0)
      else
        let b := (t.wp.lane t.lane).bind (sel.extractLsb' 0 3)
        .inl { poison := false, val := match field sel.toNat 17 16 with
          | 0 => bindWord t.wp b off
          | 1 => (bindAddr b).extractLsb' 0 32
          | 2 => ((bindAddr b).extractLsb' 32 25).setWidth 32
          | _ => bindState t.wp b }

/-- RDLINE (21 R387). -/
def execRdline (o : RdwregOp) (s : State) : Out :=
  issueWord 0xDC (.rdline o) o.g (fun s c act hl =>
    let r (i : Nat) := rdlineLane s c o i
    let ts := rightsOf (act.map r)
    let ok := act.filter fun i => !ts.any (·.lane == i)
    .done (writeDest s c.r (Reg.vec o.d) (ok ++ hl) fun i => match r i with
      | .inl x => [x]
      | .inr _ => [poisonPW]) ts []) s

/-! ## DRAIN, CALLCV -/

/-- A card is in the set a DRAIN names (21 R388). -/
def drainSet (s : State) (ctx : Nat) (sel : W32) (c : Card) : Bool := c.queued && coreSel sel c.core && s.ctxOf c.blk == ctx

/-- The cards of a DRAIN's set that stay, when no other card of the set is left. -/
def drainLeft (s : State) (ctx : Nat) (sel : W32) (mode : Bool) : Option Nat :=
  let cs := s.cards.filter (drainSet s ctx sel)
  if cs.all fun c => mode && leftBy s c then some cs.length else none

/-- The cards of a DRAIN's set not yet started, discarded. -/
def drainDiscard (s : State) (ctx : Nat) (sel : W32) : State :=
  (s.cards.filter fun c => drainSet s ctx sel c && !c.started).foldl
    (fun s c => if s.cards.any (·.id == c.id) then discardCard s c else s) s

/-- DRAIN in a mode (21 R388). -/
def drainBody (o : DrainOp) (mode : Bool) (s : State) (c : Ctx) (act _hl : List Nat) : Body :=
  match selOperands c act o.a o.b with
  | .inl ts => .done s ts []
  | .inr (ctx, sel) =>
    let s := if mode then s else drainDiscard s ctx sel
    match drainLeft s ctx sel mode with
    | some n => .done (writeActive s c o.g o.d act [] fun _ => [{ val := BitVec.ofNat 32 n, poison := false }]) [] []
    | none =>
      let d := if o.d.s && c.spoiled o.g then none else some o.d
      .done s [] [{ mask := maskOf act, pc := c.ent.pc, st := .waiting (.drain ctx sel.toNat mode d) }]

def execDrain0 (o : DrainOp) (s : State) : Out := issueWord 0xDD (.drain0 o) o.g (drainBody o false) s
def execDrain1 (o : DrainOp) (s : State) : Out := issueWord 0xDD (.drain1 o) o.g (drainBody o true) s

/-- CALLCV (21 R389): the entry waits until Chervil answers. -/
def execCallcv (o : ImmOp) (s : State) : Out :=
  issueWord 0xDF (.callcv o) o.g (fun s c act _ =>
    .done s [] [{ mask := maskOf act, pc := c.ent.pc, st := .waiting (.chervil o.imm) }]) s

end Sys2Proof.Machine
end

