-- ==== Sys2Proof/Machine/Chervil.lean ====
section
/-! DEFINITION. Chervil: context faults with their dump and teardown, answers to CALLCV, errors of the module's memories, SECFUSE,
measurements, reset and the test port (18 R336, 21 R383, R389, R394-R396, 22 R398, 24 R414, R415, R418). -/

namespace Sys2Proof.Machine

open Sys2Proof

/-! ## Trapping lanes -/

/-- A trapping lane of a context: its block and warp, the lane's trap, and TFPC. -/
structure Culprit where
  r    : WarpRef
  trap : LaneTrap
  pc   : W64
  deriving DecidableEq, Repr

/-- The trapping lanes of a warp, lowest first, each with the program counter of its entry. -/
def Warp.culprits (w : Warp) (r : WarpRef) : List Culprit :=
  (List.range w.lanes.length).filterMap fun i =>
    (w.entries.find? fun e => e.mask.getLsbD i && (match e.st with | .trapParked _ _ => true | _ => false)).bind fun e =>
      match e.st with
      | .trapParked ts _ => some { r := r, trap := trapOf ts i, pc := e.pc }
      | _ => none

/-- A fault charged to a warp that has retired, which its lane 0 records (11 R267). -/
def Warp.charged (w : Warp) (r : WarpRef) : Option Culprit :=
  let t := (w.lane 0).tf
  let code := t.code.toNat % 256
  if w.lanes.all (·.retired) && code != 0 && !handlerCode code then
    some { r := r, pc := t.pc.setWidth 64, trap := mkTrap 0 code (t.code.toNat / 256) t.addr t.aux }
  else none

/-- Every trapping lane of a context's resident blocks, by block linear index, WARPID and lane (22 R398). -/
def culprits (s : State) (ctx : Nat) : List Culprit :=
  let bs := (List.range s.blocks.length).filter fun b =>
    s.ctxOf b == ctx && ((s.blocks[b]?).map fun k => k.place == .resident).getD false
  let lin (b : Nat) : Nat := ((s.blocks[b]?).map (·.lin)).getD 0
  let all := (sortBy lin bs).flatMap fun b =>
    match s.blocks[b]? with
    | none => []
    | some k => k.warps.zipIdx.flatMap fun (w, j) =>
        let r : WarpRef := { b := b, w := j }
        w.culprits r ++ (w.charged r).toList
  let key (i : Nat) : Nat := ((all[i]?).map fun c => (lin c.r.b * 2 ^ 32 + c.r.w) * 64 + c.trap.lane).getD 0
  (sortBy key (List.range all.length)).filterMap fun i => all[i]?

/-- A context has a fault to answer: a trap that no handler takes, or one charged to a retired warp (21 R373, R376). -/
def hasFault (s : State) (ctx : Nat) : Bool :=
  s.blocks.zipIdx.any fun (k, b) =>
    k.place == .resident && s.ctxOf b == ctx &&
    (match s.kernelOf? b with
     | some kern => k.warps.zipIdx.any fun (w, j) =>
         w.entries.any (fun e => e.mask != 0 && e.faults kern) || (w.charged { b := b, w := j }).isSome
     | none => false)

/-! ## Teardown -/

/-- The context's life changed. -/
def setLife (s : State) (ctx : Nat) (x : CtxLife) : State := s.putCtx ctx { s.ctxInfo ctx with life := x }

/-- EN := 0 on every queue of a context. -/
def stopQueues (s : State) (ctx : Nat) : State :=
  { s with queues := s.queues.map fun q => if q.2.ctx.toNat == ctx then (q.1, { q.2 with en := false }) else q }

/-- Step 1 of a teardown: every block of the context halted, its queues stopped (21 R396). -/
def beginFault (s : State) (ctx : Nat) : State :=
  setLife (stopQueues (s.mapBlocksOf ctx (fun _ => true) (Block.halt s.cycle)) ctx) ctx .faulted

/-- A SHOOTCTX that Chervil makes itself. -/
def shootOf (ctx : Nat) : TCmd :=
  { ticket := 0, w0 := 0, w1 := 0, w2 := BitVec.ofNat 64 ctx, w3 := 1, phase := 1, cores := [], stayed := none }

/-- A warp whose lines and registrations are gone. -/
def Warp.stripped (w : Warp) : Warp := { w with held := [], region := [], entries := [], cur := none, errs := [] }

/-- A block removed without write-back: its cards, lines and registrations go, its resources are freed (21 R394, R396 step 5). -/
def removeBlock (s : State) (b : Nat) : State :=
  let s := s.modBlock b fun k => { k with warps := k.warps.map Warp.stripped, cards := [] }
  let s := { s with cards := s.cards.filter (·.blk != b) }
  match s.blocks[b]? with
  | some k => if k.place = .resident then s.vacate b .gone else if k.place = .saved then s.modBlock b fun k => { k with place := .gone } else s
  | none => s

/-- The blocks of a context that are not gone. -/
def blocksOf (s : State) (ctx : Nat) : List Nat :=
  (List.range s.blocks.length).filter fun b =>
    s.ctxOf b == ctx && ((s.blocks[b]?).map fun k => k.place != .gone).getD false

/-- The pending launches and EMIT records of a context dropped, their entries in the dies' stores freed (21 R396 step 5, 12 R300). -/
def dropPending (s : State) (ctx : Nat) : State :=
  let ds := (s.nodes.filter (·.ctx == ctx)).map (·.die) ++
    (s.grids.filter (·.ctx == ctx)).flatMap fun g => g.die.toList ++ g.pends
  let s := ds.foldl (fun s d => s.modDie d fun x => { x with pending := x.pending - 1 }) s
  { s with nodes := s.nodes.filter (·.ctx != ctx),
           grids := s.grids.map fun g => if g.ctx == ctx then { g with die := none, pends := [] } else g,
           resv := s.resv.filter fun r => ((s.grids[r.grid]?).map (·.ctx)).getD ctx != ctx }

/-- A grid torn down. -/
def Grid.tear (ctx : Nat) (g : Grid) : Grid := if g.ctx = ctx && g.status = .running then { g with status := .torn } else g

/-- Step 6: a TORN_DOWN record for every grid taken and not complete, in order (20 R358, 21 R396). -/
def tearGrids (s : State) (ctx : Nat) : State :=
  let s := { s with grids := s.grids.map (Grid.tear ctx) }
  ((List.range s.grids.length).filter fun gi => ((s.grids[gi]?).map fun g => g.ctx == ctx).getD false).foldl
    (fun s gi => outState (execGridComplete gi s) s) s

/-- A started card that can never complete once the cards not yet started have been discarded: a CPYQ card without space in its FIFO, or an MMA whose
bytes no other card of its block will push (11 R272, R273). DESIGN CHOICE (log 97): draining does not wait for it. -/
def stuckOnFifo (s : State) (c : Card) : Bool :=
  waitsSpace s c ||
  (c.op == 0xB8 && c.started && !mmaDone c && !s.cards.any fun x => x.queued && x.blk == c.blk && x.op == 0xB3 && !waitsSpace s x)

/-- The cards of some blocks have been drained in mode 0, but for those that can never complete (21 R388). -/
def settled (sel : Nat → Bool) (s : State) : Bool := s.cards.all fun c => !(c.queued && sel c.blk) || stuckOnFifo s c

/-- Steps 4 to 6 of a teardown (21 R396). Afterwards the module holds nothing of the context. -/
def finishTeardown (s : State) (ctx : Nat) : State :=
  let s := dropCmdTags (allCores.foldl (fun s c => sweepCore s (shootOf ctx) c) s) (shootOf ctx)
  let s := dropPending ((blocksOf s ctx).foldl removeBlock s) ctx
  let s := tearGrids { s with tables := s.tables.filter (·.ctx != ctx) } ctx
  { s with ctxs := s.ctxs.filter (·.1 != ctx) }

/-- A teardown from step 3 on (21 R396): every card is drained in mode 0 and the migrations end, which lets the cards they held go on. While a started
card has still to complete the context stays as it is, and Chervil tries again. -/
def teardown (s : State) (ctx : Nat) : State :=
  let bs := blocksOf s ctx
  let s := drain false bs.contains (endMoves (drain false bs.contains s) ctx)
  if settled bs.contains s then finishTeardown s ctx else setLife s ctx .tearing

/-! ## The dump -/

/-- The record's window and the object's window (22 R398). -/
def recordVa : VAddr := 0x01FF000000000000
def objectVa : VAddr := 0x01FF800000000000

/-- The mappings that Chervil makes for a dump. -/
def dumpMaps (s : State) (b n : Nat) : List ChervilMap :=
  let k := (s.blocks[b]?).map fun k => (k.savedAt, s.recordBytes k + 144 * k.loans)
  let code := (s.bytes (fwBase + 0x18) 4, s.bytes (fwBase + 0x1C) 4)
  let c0 := leNat code.1
  let cn := leNat code.2
  let part (o len : Nat) (w x : Bool) : ChervilMap :=
    { ctx := sysCtx, va := objectVa + BitVec.ofNat 57 o, size := len, pa := fwWork + o, wr := w, ex := x }
  [{ ctx := sysCtx, va := recordVa, size := (k.map (·.2)).getD 0, pa := (k.map (·.1)).getD 0, wr := false, ex := false },
   part 0 c0 false false, part c0 cn false true, part (c0 + cn) (n - (c0 + cn)) true false]

/-- A name of the string table, up to its zero byte (log 25). -/
def nameAt (s : State) (a : Nat) : Nat → List Byte
  | 0 => []
  | n + 1 => let b := memGet s.mem a; if b = 0 then [] else b :: nameAt s (a + 1) n

/-- The text of a symbol. -/
def symBytes (t : String) : List Byte := t.toList.map fun c => BitVec.ofNat 8 c.toNat

/-- One relocation of the routine's object: the symbol's address and the addend are added to the offset the field holds (13 R309, R313, 22 R398). -/
def relocate (dumpva : W64) (s : State) (k : Nat) : State :=
  let w (o : Nat) : Nat := (s.word32 (fwBase + o)).toNat
  let r := w 0x28 + 16 * k
  let name := nameAt s (fwBase + w 0x30 + w (r + 8)) 64
  let sym : Int :=
    if w (r + 8) = 0xFFFFFFFF then objectVa.toNat + w 0x20
    else if name = symBytes "saverec" then recordVa.toNat
    else if name = symBytes "dumpva" then dumpva.toNat else 0
  let x := sym + (s.word32 (fwBase + r + 12)).toInt
  let at_ := fwWork + w r
  let old := s.word64 at_
  if w (r + 4) = 1 then
    s.putWord64 at_ (old.extractLsb' 57 7 ++ (old.extractLsb' 0 57 + BitVec.ofInt 57 x))
  else s.putWord64 at_ (old + BitVec.ofInt 64 x)

/-- A copy of the routine's object, n bytes long, with its data section placed and its externals resolved. -/
def relocateAll (s : State) (n : Nat) (dumpva : W64) : State :=
  (List.range (s.word32 (fwBase + 0x2C)).toNat).foldl (relocate dumpva) (s.putBytes fwWork (s.bytes fwBase n))

/-- The dump routine's arguments (21 R383, 22 R398). -/
def dumpArgs (s : State) (ctx : Nat) (c : Culprit) (dumpva : W64) : List W32 :=
  let k := s.blocks[c.r.b]?
  let n (x : Nat) : W32 := BitVec.ofNat 32 x
  [n ctx, n ((k.map (·.core)).getD 0), n ((k.map (·.lin)).getD 0), n (c.trap.sub * 256 + c.trap.code), c.pc.setWidth 32,
   c.trap.addr.extractLsb' 0 32, (c.trap.addr.extractLsb' 32 25).setWidth 32, dumpva.extractLsb' 0 32]

/-- The routine's grid: one block of 32 threads in the system context. -/
def dumpGrid (s : State) (args : List W32) : Grid :=
  { queue := 4096, part := 0, index := 0, ctx := sysCtx, kernel := readKernel s sysCtx (readObj s sysCtx objectVa.toNat) 0 true,
    gx := 1, gy := 1, gz := 1, threads := 32, args := args, next := 1, status := .running, cpl := none, recorded := false, waits := [],
    fill := [], die := none, pends := [], waitAt := none, il := false, sysCtx := true }

/-- The routine launched on the core of a block that has been saved: the windows mapped, its object placed and its externals resolved, its grid placed
(22 R398). The saved block leaves the core only when the routine does not fit beside it (log 50). None while the routine cannot be placed. -/
def launchDump (s : State) (ctx n : Nat) (dumpva : W64) (b core : Nat) (args : List W32) : Option State :=
  let gi := s.grids.length
  let s := { s with chmaps := dumpMaps s b n, dump := some { ctx := ctx, grid := gi } }
  let s := relocateAll s n dumpva
  let s := recordSigned s sysCtx (readObj s sysCtx objectVa.toNat)
  let s := { s with grids := s.grids ++ [dumpGrid s args] }
  let put (s : State) : Option State := (placeOn s gi 0 core 0).map fun s => setLife s ctx .dumping
  match put s with
  | some t => some t
  | none => put (s.vacate b .saved)

/-- The dump of a context (21 R396 step 2, 22 R398): the block with the lowest trapping lane ends its regions, its cards are drained in mode 1, it is
saved, and the routine is launched on its core. Chervil tries again where a migration holds a region end, a card has still to complete or the routine
cannot be placed; what has been done until then stays. The memory that the header, the register and the barrier sections of 22 R397 are read from is the
record written here (`writeRecord`), the arguments (`dumpArgs`) and what the routine reads of the halted context by RDWREG, RDLINE and CSRR; its words
run as any other block's do. -/
def startDump (s : State) (ctx n : Nat) (dumpva : W64) (c : Culprit) : State :=
  let b := c.r.b
  let args := dumpArgs s ctx c dumpva
  match quietBlock s b with
  | none => s
  | some s =>
    let s := drain true (· == b) s
    if !drained true (· == b) s then s
    else ((saveBlock s b ((heldOf (· == b) s).map fun x => (x, queuePos s.cards x)) false).bind fun t =>
      launchDump t ctx n dumpva b (s.coreOf b) args).getD s

/-- The routine's block has left. -/
def dumpOver (s : State) (d : Dump) : Bool := s.blocks.all fun k => k.grid != d.grid || k.place == .gone

/-- A dump ended: what Chervil mapped for it goes. -/
def endDump (s : State) : State := { s with dump := none, chmaps := [] }

/-- The fault of a halted context answered: the dump when one is wanted and the routine is loaded, else the teardown (21 R396). One dump runs at a
time. -/
def answerFault (s : State) (ctx : Nat) : State :=
  if !s.stopped ctx (fun _ => true) || s.dump.isSome then s
  else
    let va := assocGet 0 s.dumpva ctx
    match s.dumpObj, (culprits s ctx).head? with
    | some n, some c => if va = 0 then teardown s ctx else startDump s ctx n va c
    | _, _ => teardown s ctx

/-- The dump of a context that is over ended. A routine that has left without DUMPDONE lets the teardown go on (log 36). -/
def closeDump (s : State) (ctx : Nat) : State :=
  match s.dump with
  | some d =>
    if d.ctx = ctx && dumpOver s d then endDump (if (s.ctxInfo ctx).life = .dumping then setLife s ctx .tearing else s) else s
  | none => s

/-- CONTEXT_FAULT (21 R396): the fault of a context answered, or its answer gone on with. Together with the words of the dump routine it is what makes
the dump of 22 R397. -/
def execContextFault (ctx : Nat) (s : State) : Out :=
  let s := closeDump s ctx
  .next (match (s.ctxInfo ctx).life with
    | .live => if hasFault s ctx then answerFault (beginFault s ctx) ctx else s
    | .faulted => answerFault s ctx
    | .dumping => s
    | .tearing => teardown s ctx)

/-! ## CALLCV -/

/-- A CALLCV wait and its service. -/
def Entry.calls (e : Entry) : Option W32 := match e.st with | .waiting (.chervil n) => some n | _ => none

/-- Scalars of a warp written without poison. -/
def putS (s : State) (r : WarpRef) (k : Nat) (x : W32) : State := s.modWarp r (·.setSs k [{ val := x, poison := false }])

/-- The service itself, s0 and s1 written (21 Table 21.9). -/
def serve (s : State) (r : WarpRef) (svc : W32) : State :=
  let a (k : Nat) : W32 := ((s.warp? r).map fun w => (nth zeroPW w.s k).val).getD 0
  match svc.toNat with
  | 1 =>
    let s1 := putS s r 0 0
    match s.dump with
    | some d =>
      if d.ctx = (a 0).toNat && (s.ctxInfo d.ctx).life = .dumping then
        teardown { s1 with reports := s1.reports ++ [.dumpDone d.ctx ((a 2) ++ (a 1))] } d.ctx
      else s1
    | none => s1
  | 2 => putS { s with log := s.log ++ [(List.range 8).flatMap fun k => natLE 4 (a k).toNat] } r 0 0
  | 3 =>
    let n := (s.blocks.zipIdx.filter fun (k, b) => k.place == .resident && s.ctxOf b == (a 0).toNat).length
    putS (putS s r 0 0) r 1 (BitVec.ofNat 32 n)
  | _ => putS s r 0 0xFFFFFFFF

/-- CHERVIL_ANSWER (21 R389). -/
def execChervilAnswer (r : WarpRef) (s : State) : Out :=
  match (s.warp? r).bind fun w => (w.entries.findIdx? fun e => e.calls.isSome).bind fun k => (w.entries[k]?).bind fun e => e.calls.map fun n => (k, n) with
  | some (k, svc) =>
    .next (serve (s.modWarp r fun w => { w with entries := w.entries.modify k Entry.wakeNext }) r svc)
  | none => .next s

/-! ## Errors of the block's own memory -/

/-- Lanes of a warp taken out of their entries, each parked at its entry's program counter with a trap. -/
def parkLanes (s : State) (r : WarpRef) (m : LaneMask) (f : Nat → LaneTrap) : State :=
  match s.warp? r, (s.blocks[r.b]?).bind fun k => (s.grids[k.grid]?).map fun g => (k.core, g) with
  | some w, some (core, g) =>
    let hit (e : Entry) : Bool := (e.mask &&& m) != 0 && (match e.st with | .trapParked _ _ => false | _ => true)
    let word (e : Entry) : W64 := (s.codeWord? core g e.pc).getD 0
    let park (e : Entry) : Entry :=
      e.split s.cycle { mask := e.mask &&& m, pc := e.pc, st := .trapParked ((lanesOf (e.mask &&& m)).map f) (word e) }
    let cut (e : Entry) : Entry := if hit e then { e with mask := e.mask &&& ~~~ m } else e
    (s.modWarp r fun w0 => { w0 with entries := w.entries.map cut ++ (w.entries.filter hit).map park }).freezeOn
      ((lanesOf m).take 1 |>.map f)
  | _, _ => s

/-- The block holds lanes parked by an error of its memory, or a retired warp that one is charged to. -/
def hasMemoryError (k : Block) : Bool :=
  k.warps.any fun w => w.entries.any (fun e => e.mask != 0 && e.memoryError) ||
    (w.lanes.all (·.retired) && (w.lane 0).tf.code.toNat % 256 == 0x0F)

/-- A block that an error of its memory ends stops, and its cards are drained in mode 0 (21 R394). -/
def haltEnding (s : State) (b : Nat) : State :=
  drain false (· == b) (s.modBlock b fun k => { k.halt s.cycle with ending := true })

/-- A block that has been drained: its dirty bytes are discarded and its registrations dropped (21 R394). Its stores already on their way are
performed. -/
def stopBlock (s : State) (b : Nat) : State :=
  let s := s.modBlock b fun k => { k with ending := false }
  let s := ((s.blocks[b]?).map fun k => (k.refs b).foldl State.drain s).getD s
  let s := { s with cards := s.cards.filter (·.blk != b) }
  s.modBlock b fun k => { k with warps := k.warps.map fun w => { w with held := [], region := [], cur := none, errs := [] } }

/-- The fresh copy of an ended block that waits to be seated like a saved one (21 R394). -/
def freshCopy (s : State) (k : Block) (g : Grid) : Block :=
  let cs := k.warps.map fun w => (w.slot, w.ctxIdx % 24, w.ctxIdx2 % 24)
  { newBlock s k.grid g k.lin k.core cs k.savedAt (k.relaunched + 1) with place := .saved, haltAt := s.cycle }

/-- The end of a block by an error of its memory: a relaunch when IDEMP allows it, at most twice, else the context's fault; privileged code is
ended and logged (21 R383, R394). While a started card has still to complete the block stands halted, and the end is tried again. -/
def endBlock (s : State) (b : Nat) : State :=
  match s.blocks[b]? with
  | none => s
  | some k =>
    match s.grids[k.grid]? with
    | none => s
    | some g =>
      let s := haltEnding s b
      if !settled (· == b) s then s
      else
      let s := stopBlock s b
      if g.sysCtx then { removeBlock s b with log := s.log ++ [natLE 4 0x0F] }
      else if g.kernel.idemp && g.kernel.gang = 1 && k.relaunched < 2 then
        let s := removeBlock s b
        { s with blocks := s.blocks ++ [freshCopy s k g] }
      else s.callChervil g.ctx

/-- SCRATCH_UE: an uncorrectable scratchpad word of block `owner` read by lanes of warp `r`, or an error of its own block's memory that
the warp has taken; the block that owns the word ends (05 R116, 21 R394). -/
def execScratchUe (owner : Nat) (r : WarpRef) (lanes : LaneMask) (off : Nat) (s : State) : Out :=
  let s2 := if lanes = 0 then s else parkLanes s r lanes fun i => mkTrap i 0x0F 1 0 (BitVec.ofNat 32 off)
  match s2.blocks[owner]? with
  | none => .next s
  | some k => if k.place = .resident && (owner != r.b || k.ending || hasMemoryError k) then .next (endBlock s2 owner) else .next s2

/-- REGISTER_UE: the lane that reads the value takes SCRATCH_UE SUB 2 (21 R395). -/
def execRegisterUe (b w lane num : Nat) (s : State) : Out :=
  let r : WarpRef := { b := b, w := w }
  .next (parkLanes s r (maskOf [lane] &&& ((s.warp? r).map Warp.awaited).getD 0) fun i => mkTrap i 0x0F 2 0 (BitVec.ofNat 32 num))

/-- A held line struck by an uncorrectable error: a clean copy is fetched again, the bytes of a dirty one are lost for every holder (21 R395). -/
def HeldLine.strike (lost : Bool) (bs : List Byte) (h : HeldLine) : HeldLine :=
  if lost then { h with dirty := 0, lost := true } else { h with data := bs }

/-- The warps of a core that share a copy of a home line (05 R102). -/
def holdersOf (s : State) (core : Nat) (home : PAddr) : List WarpRef :=
  s.refs.filter fun r => s.standsOn r.b core &&
    ((s.warp? r).any fun w => w.held.any fun h => h.pinned && !h.parked && h.home == home)

/-- Some holder has written bytes of a home line that are not yet written back. -/
def dirtyIn (s : State) (home : PAddr) (rs : List WarpRef) : Bool := rs.any fun r => (s.warp? r).any fun w => !(w.dirtyCopies home).isEmpty

/-- LINE_STORE_UE: the copy that a warp holds at a virtual line is struck (21 R395). -/
def execLineStoreUe (b w : Nat) (line : VAddr) (s : State) : Out :=
  match (s.warp? { b := b, w := w }).bind (·.held? line) with
  | some h =>
    let rs := holdersOf s (s.coreOf b) h.home
    let f := HeldLine.strike (dirtyIn s h.home rs) (s.bytes h.home 128)
    .next (rs.foldl (fun s r => s.modWarp r (·.modCopy h.home f)) s)
  | none => .next s

/-- MAINSAIL_UE: the card that reads the value completes with STATUS 3, and its warp takes SCRATCH_UE SUB 4 as R267 delivers an error
(21 R395). -/
def execMainsailUe (id : Nat) (tile : BitVec 8) (s : State) : Out :=
  match s.startedCard? id with
  | some c => .next (if c.eng = 4 then failCard s c (outstanding s c) (mkTrap 0 0x0F 4 0 (tile.setWidth 32)) else s)
  | none => .next s

/-! ## Errors of the module's memory -/

/-- HBM_SECTOR_UE: the sector is marked at its home; what a card wrote of it before does not count towards covering it (21 R395). -/
def execHbmSectorUe (pa : Nat) (s : State) : Out :=
  let a := pa / 32 * 32
  .next { s with bad := if s.bad.contains a then s.bad else s.bad ++ [a],
                 cards := s.cards.map fun c => { c with wrote := c.wrote.filter (·.1 != a) } }

/-- CORRECTABLE_ERROR: recorded in Chervil's log, with no other effect (21 R395). -/
def execCorrectableError (unit addr : Nat) (s : State) : Out :=
  .next { s with log := s.log ++ [natLE 4 unit ++ natLE 8 addr] }

/-! ## SECFUSE, measurements, reset -/

/-- SECFUSE_RAISE (18 R336): the count, at most 128, rises by 1 on every die together, the revoked tags are swept, and the host is told. -/
def execSecfuseRaise (authentic : Bool) (s : State) : Out :=
  if !authentic || 128 ≤ s.fuses then .next s
  else
    let n := s.fuses + 1
    let keep (t : Tag) : Bool := !t.sobj || n ≤ t.secver.toNat
    .next { s with fuses := n, reports := s.reports ++ [.secfuse n], dies := s.dies.map fun d => { d with secfuse := BitVec.ofNat 8 n, tags := d.tags.filter keep } }

/-- The bytes of a partition's applied masks, as they are measured. -/
def Masks.bytes (m : Masks) : List Byte := natLE 18 m.cores.toNat ++ natLE 2 m.hbm.toNat ++ natLE 5 m.stay.toNat ++ natLE 1 m.eth.toNat

/-- Translations of a context with SGN = 0 on every die (18 R335). -/
def unsignedTags (s : State) (ctx : Nat) : Nat :=
  s.dies.foldl (fun n d => n + (d.tags.filter fun t => t.ctx == ctx && !t.sgn).length) 0

/-- What a partition's context list is measured over (24 R415). -/
def contextBytes (s : State) (p : Nat) : List Byte :=
  (s.ctxs.filter fun c => s.boundPart c.1 == some p).flatMap fun c =>
    natLE 2 c.1 ++ (c.2.signed.flatMap fun x => x.2.flatMap fun d => natLE 32 d.toNat) ++ natLE 4 (unsignedTags s c.1)

/-- The measurements at an index (24 R415). -/
def measurement (s : State) (index : Nat) : List (BitVec 256) :=
  if 1 ≤ index && index ≤ 6 then [nth 0 s.meas (index - 1)]
  else if index = 7 then [Config.sha3 (s.parts.flatMap fun p => p.a.bytes)]
  else if 0x10 ≤ index && index < 0x18 then [Config.sha3 (contextBytes s (index - 0x10))]
  else []

/-- GET_MEASUREMENTS. -/
def execGetMeasurements (index : Nat) (s : State) : Out := .next { s with spdm := measurement s index }

/-- A measurement register extended with a digest (24 R414). -/
def extend (old d : BitVec 256) : BitVec 256 := Config.sha3 (natLE 32 old.toNat ++ natLE 32 d.toNat)

/-- An image is verified: its signature over its digest, and its security version (24 R414 step 1). -/
def imageVerified (x : Image) (fuses : Nat) : Bool := Config.verifies (Config.sha3 x.data) x.sig && fuses ≤ x.secver

/-- Measurement registers extended, each with a digest. -/
def State.measure (s : State) (l : List (Nat × BitVec 256)) : State :=
  { s with meas := l.foldl (fun ms x => ms.modify x.1 fun m => extend m x.2) s.meas }

/-- A stage of the boot is done: BOOT reads n, and the next stage follows (24 Table 24.6). -/
def State.booted (s : State) (r : BootRun) (n : BitVec 3) : State :=
  { s with mstat := { s.mstat with boot := n }, boot := if r.step < 6 then some { r with step := r.step + 1 } else none }

/-- A step of the boot has failed. -/
def State.bootFailed (s : State) : State := { s with mstat := { s.mstat with boot := 4 }, boot := none }

/-- One step of the boot (24 Table 24.6). SECFUSE is measured as four bytes (log 11). The dump routine's object stands in Chervil's own store (log
25). -/
def bootStep (s : State) : State :=
  match s.boot with
  | none => s
  | some r =>
    let x := r.img
    match r.step with
    | 1 => if imageVerified x.fw s.fuses then (s.measure [(0, r.rom), (1, Config.sha3 x.fw.data)]).booted r 1 else s.bootFailed
    | 2 => if x.rails then s.booted r 1 else s.bootFailed
    | 3 => if x.link then (s.measure [(2, Config.sha3 x.tardun)]).booted r 1 else s.bootFailed
    | 4 =>
      if x.trained then { s with mem := s.mem.filter fun c => hostBase ≤ c.1, bad := s.bad.filter fun a => hostBase ≤ a }.booted r 2
      else s.bootFailed
    | 5 =>
      if imageVerified x.dergus s.fuses && imageVerified x.dump s.fuses then
        (State.measure { s.putBytes fwBase x.dump.data with dumpObj := some x.dump.data.length }
          [(3, Config.sha3 x.dergus.data), (4, Config.sha3 x.dump.data)]).booted r 2
      else s.bootFailed
    | _ =>
      (State.measure { s with dies := s.dies.map fun d => { d with secfuse := BitVec.ofNat 8 s.fuses } }
        [(5, Config.sha3 (natLE 4 s.fuses))]).booted r 3

/-- RESET (24 R414, R418): every register takes its reset value, SECFUSE that of the fuses (18 Table 18.3), and the boot begins. HBM is cleared by step
4 of the boot; fuses and the memory of the host and of peers keep their contents. -/
def execReset (rom : BitVec 256) (img : BootImages) (s : State) : Out :=
  let z := State.reset
  .next { z with
    tick := s.tick, agenda := s.agenda, fuses := s.fuses, mem := s.mem, bad := s.bad,
    dies := z.dies.map fun d => { d with secfuse := BitVec.ofNat 8 s.fuses },
    boot := some { rom := rom, img := img, step := 1 } }

/-! ## The test port -/

/-- FRZSEL (24 R418). -/
def execFrzsel (sel : W32) (s : State) : Out :=
  .next { s with test := { s.test with sel := sel, index := sel.extractLsb' 0 16 } }

/-- 64-bit words of 32-bit values, two in a word. -/
def wordPairs : List W32 → List W64
  | [] => []
  | [a] => [a.setWidth 64]
  | a :: b :: l => (b ++ a) :: wordPairs l

/-- 64-bit words of bytes. -/
def byteWords (bs : List Byte) : List W64 :=
  (List.range ((bs.length + 7) / 8)).map fun k => BitVec.ofNat 64 (leNat ((bs.drop (8 * k)).take 8))

/-- Words of flags, 64 in a word. -/
def flagWords (l : List Bool) : List W64 :=
  (List.range ((l.length + 63) / 64)).map fun k => BitVec.ofNat 64 (boolsNat ((l.drop (64 * k)).take 64))

/-- A word of flags and small numbers: the first flag in bit 0. -/
def flagWord (l : List Bool) : W64 := BitVec.ofNat 64 (boolsNat l)

/-- A cached translation: its address, its frame, and its context, page size and rights. -/
def Xlate.words (x : Xlate) : List W64 :=
  [x.va.setWidth 64, BitVec.ofNat 64 x.pa, BitVec.ofNat 64 (x.ctx * 2 ^ 16 + x.bits * 2 ^ 8) ||| flagWord [x.rd, x.wr, x.ex]]

/-- A line register of a lane: its address with its cursor, then its state, view and mode as LINEQ answers them (10 R236). -/
def Bind.words (w : Warp) (b : Bind) : List W64 :=
  let q (n : BitVec 2) : W64 := (lineQuery w n b).setWidth 64
  [(bindAddr b).setWidth 64 ||| (b.cursor.setWidth 64 <<< 57), q 0 ||| (q 3 <<< 8) ||| (q 2 <<< 16)]

/-- The registers of a lane as the test port shows them (log 22): vector registers with poison, predicates, FLAGS, FPCTL, CYCLEH, the trap frame, the
poison origin, the call stack, the last-page register, the bits of a retired lane and of handler mode, and the bindings. -/
def Lane.words (w : Warp) (l : Lane) : List W64 :=
  wordPairs (l.v.map (·.val)) ++ flagWords (l.v.map (·.poison)) ++ flagWords (l.p.map (·.val)) ++ flagWords (l.p.map (·.poison)) ++
  [l.flags.setWidth 64, l.fpctl.setWidth 64, l.cycleH.setWidth 64, l.tf.pc.setWidth 64, l.tf.code.setWidth 64, l.tf.word, l.tf.addr.setWidth 64,
   l.tf.mask, l.tf.aux.setWidth 64, (l.origin.getD 0).setWidth 64, BitVec.ofNat 64 l.spilled] ++ l.stack ++
  ((l.lastPage.map Xlate.words).getD [0, 0, 0]) ++ [flagWord [l.retired, l.handler]] ++ l.binds.flatMap (Bind.words w)

/-- The state of an entry as a number: 0 Runnable, 1 Waiting, 2 capacity-blocked, 3 trap-parked (02 Table 2.2). -/
def EState.code : EState → Nat
  | .runnable => 0
  | .waiting _ => 1
  | .capBlocked => 2
  | .trapParked _ _ => 3

/-- An entry of the frontier: its program counter, its lanes, its state with PRIO and age, and the deadline of its wait. -/
def Entry.words (e : Entry) : List W64 :=
  [e.pc, e.mask, flagWord [e.overflow, e.handler, e.retry, e.promoted.isSome] ||| BitVec.ofNat 64 (e.st.code * 2 ^ 4 + e.prio.toNat * 2 ^ 8 + e.age * 2 ^ 20),
   BitVec.ofNat 64 ((match e.st with | .waiting x => x.deadline | _ => none).getD 0)]

/-- A call record of CALLX: its return address, its lanes, those that have returned, and its groups. -/
def CallRecord.words (c : CallRecord) : List W64 := [c.ra, c.lanes, c.returned] ++ c.groups.flatMap fun g => [g.1, g.2]

/-- The registers of a warp: WARPID, CFST and LHELD, s-registers with poison, flag counts, counters, quota and loans, frontier and call records, then its
lanes. -/
def Warp.words (w : Warp) (index : Nat) : List W64 :=
  [BitVec.ofNat 64 index, w.cfst.setWidth 64, BitVec.ofNat 64 w.heldCount] ++ wordPairs (w.s.map (·.val)) ++ flagWords (w.s.map (·.poison)) ++ w.flags.map (BitVec.ofNat 64) ++
  [w.predCnt.setWidth 64, w.mispCnt.setWidth 64, w.replCnt.setWidth 64, w.fuseCnt.setWidth 64, w.splitCnt.setWidth 64, w.parkCnt.setWidth 64,
   w.scont.setWidth 64, w.snest.setWidth 64, BitVec.ofNat 64 w.quota, BitVec.ofNat 64 w.loaned] ++
  w.entries.flatMap Entry.words ++ w.records.flatMap CallRecord.words ++ w.lanes.flatMap (Lane.words w)

/-- The line storage of a warp: each line it holds, with its address, its state, its dirty bytes and its data; then the lines its region registers. -/
def Warp.lineWords (w : Warp) : List W64 :=
  (w.held.flatMap fun h =>
    [h.line.setWidth 64, BitVec.ofNat 64 h.home, flagWord [h.pinned, h.parked, h.stale, h.lost], h.dirty.extractLsb' 0 64,
     h.dirty.extractLsb' 64 64] ++ byteWords h.data) ++
  w.region.map fun g => BitVec.ofNat 64 g.line ||| flagWord [g.write]

/-- The words of something in units of 65,536, as many as a word index reaches (24 R418). -/
def pieces (ws : List W64) : List (List W64) :=
  (List.range (max 1 ((ws.length + 65535) / 65536))).map fun k => (ws.drop (65536 * k)).take 65536

/-- Mainsail's registers of a block: the latch's format, sw and mark with its weights, then the FIFOs, each beat with its poison. -/
def Block.mainsailWords (k : Block) : List W64 :=
  let beat (b : Beat) : List W64 := [flagWord [b.poison.isSome], (b.poison.getD 0).setWidth 64] ++ byteWords b.bytes
  [k.latch.fmt.setWidth 64, k.latch.sw.setWidth 64, flagWord [k.latch.mark.isSome], (k.latch.mark.getD 0).setWidth 64] ++
  byteWords k.latch.tile ++ (k.aFifo ++ k.wFifo).flatMap beat

/-- The registers of a block: its coordinates, gang index and rank, the grid extents and WIDTH (03 Table 3.3). -/
def Block.words (s : State) (k : Block) : List W64 :=
  match s.grids[k.grid]? with
  | none => []
  | some g =>
    [k.lin % g.gx, k.lin / g.gx % g.gy, k.lin / (g.gx * g.gy), k.lin / g.kernel.gang, k.lin % g.kernel.gang, g.gx, g.gy, g.gz, g.kernel.width].map
      (BitVec.ofNat 64)

/-- A job card in a queue: its engine and opcode, its block and warp, its place in its payload, ticket, guard, flag, destination and tile, whether it has started,
then its record and its descriptor as read at issue. -/
def Card.words (c : Card) : List W64 :=
  [BitVec.ofNat 64 c.eng, BitVec.ofNat 64 c.op, BitVec.ofNat 64 c.blk, BitVec.ofNat 64 c.warp, c.pc, BitVec.ofNat 64 c.prog, (c.ticket.getD 0).setWidth 64,
   BitVec.ofNat 64 (c.guard.getD 0), BitVec.ofNat 64 (c.flag.getD 0), BitVec.ofNat 64 c.dest, BitVec.ofNat 64 c.tile,
   flagWord [c.started, c.ticket.isSome, c.guard.isSome, c.flag.isSome, c.error.isSome, c.foreign]] ++ byteWords c.record ++ byteWords c.desc

/-- The job cards that a core's queues hold, in the order of their issue. -/
def cardWords (s : State) (core : Nat) : List W64 := (s.cards.filter fun c => c.queued && c.core == core).flatMap Card.words

/-- What a core holds: its own registers, its cycle count among them, its translations and its job cards, then of each block its registers, scratchpad, barriers and guard
slots, Mainsail's latch and FIFOs, accumulator tiles, and of each warp registers and line storage. -/
def coreUnits (s : State) (core : Nat) : List (List W64) :=
  (match s.cores[core]? with
   | some c => [[BitVec.ofNat 64 core, s.coreCycle core] ++ wordPairs (c.seq ++ c.iss) ++
                  [BitVec.ofNat 64 (c.holder.getD 0), BitVec.ofNat 64 c.lease, BitVec.ofNat 64 c.idle] ++
                  c.reqs.flatMap fun x => [BitVec.ofNat 64 x.1, BitVec.ofNat 64 x.2],
                c.tlb.flatMap Xlate.words, cardWords s core]
   | none => []) ++
  (s.resident core).flatMap fun k =>
    [k.words s, byteWords (memBytes k.bytes 0 k.region), byteWords ((k.bars ++ k.gbars).flatMap Barrier.bytes ++ natLE 8 k.gstate.toNat), k.mainsailWords] ++
    k.tiles.map (fun t => byteWords (tileBytes t)) ++ k.warps.zipIdx.flatMap fun (w, j) => [w.words j, w.lineWords]

/-- The units of a die: its registers, its translation cache's tags and bytes, and what its cores hold (24 R418). -/
def dieUnits (s : State) (d : Nat) : List (List W64) :=
  List.flatMap pieces ((match s.dies[d]? with
   | some x => [[x.secfuse.setWidth 64, x.dgmiss.setWidth 64, x.dgocc.setWidth 64, x.wdlim.setWidth 64, BitVec.ofNat 64 x.pending],
                x.tags.flatMap fun t => [t.packed.extractLsb' 0 64, t.packed.extractLsb' 64 64],
                x.tags.flatMap fun t => byteWords (memBytes t.bytes 0 4096)]
   | none => []) ++
  (List.range Config.coresPerDie).flatMap fun c => coreUnits s (Config.coresPerDie * d + c))

/-- FRZDATA: the selected word, and the index advanced; which unit a unit number selects is open (24 R418, log 22). -/
def execFrzdata (s : State) : Out :=
  let u := nth [] (dieUnits s (s.test.sel.extractLsb' 30 2).toNat) (Config.frzUnit (s.test.sel.extractLsb' 16 14).toNat)
  .next { s with test := { s.test with out := nth 0 u s.test.index.toNat, index := s.test.index + 1 } }

/-- IDCODE: the identification code shifted out (log 22). -/
def execIdcode (s : State) : Out := .next { s with test := { s.test with out := Config.idcode.setWidth 64, byp := false } }

/-- BYPASS: the bypass register selected. -/
def execBypass (s : State) : Out := .next { s with test := { s.test with byp := true } }

end Sys2Proof.Machine
end

