-- ==== Sys2Proof/Machine/Fabric.lean ====
section
/-! DEFINITION. The module's links: Stay ports and arriving peer requests, the RoCE engine, link timeouts and the host link (24 R406,
R411-R413). -/

namespace Sys2Proof.Machine

open Sys2Proof

/-! ## Stay ports -/

/-- A flit of a port retried; the sixteenth retry of one flit takes the port down (24 R412). -/
def Port.retry (p : Port) : Port :=
  let p := { p with errs := p.errs + 1, retries := p.retries + 1 }
  if 16 ≤ p.retries then { p with up := false, downs := p.downs + 1, retries := 0 } else p

/-- STAY_FLIT_RETRY. -/
def execStayFlitRetry (port : Nat) (s : State) : Out := .next { s with ports := s.ports.modify port Port.retry }

/-- A port that is up, with no flit in hand. -/
def Port.rise (p : Port) : Port := { p with up := true, retries := 0 }

/-- STAY_LINK_UP. -/
def execStayLinkUp (port : Nat) (s : State) : Out := .next { s with ports := s.ports.modify port Port.rise }

/-- The partition that holds a Stay port. -/
def portPart (s : State) (port : Nat) : Option Part := s.parts.find? fun p => p.a.stay.getLsbD port

/-- The partition that holds an Ethernet port. -/
def ethPart (s : State) (port : Nat) : Option Nat := s.parts.findIdx? fun p => p.a.eth.getLsbD port

/-- A range of local memory lies in one stack of a partition (24 R411). -/
def inStacks (p : Part) (pa n : Nat) : Bool :=
  pa < hostBase && pa % 2 ^ 37 + n ≤ 80000000000 && p.a.hbm.getLsbD (pa / 2 ^ 37)

/-- An active registration conflicts with an access to some lines by an agent outside the module, one of another module or none of those: it is held
(06 R145, 24 R413). -/
def outsideHeld (s : State) (a : Option PeerAgent) (pa n : Nat) (write : Bool) : Bool :=
  (linesOf pa n).any fun l =>
    (s.cardConflict none (.line l) write).isSome || s.sorrelHolds (.line l) || (s.warpConflict none l write).isSome || !(s.peerHits a l write).isEmpty

/-- A card or an access is held for a line before a place, or before an access that arrives now: a registration of the line comes after it (06 R145).
One that waits for the end of the asking agent's own registration does not hold that agent. -/
def heldBefore (s : State) (a : Option PeerAgent) (place : Option Nat) (line : PAddr) : Bool :=
  let own (claims : PAddr → Bool → Bool) : Bool := s.peerRegs.any fun g => some g.agent == a && claims g.line g.write
  ((s.heldAt line).any fun c => placeBefore c.place place && !own fun l w => c.foot.any fun x => x.1 == .line l && (x.2 || w)) ||
  (s.inboxAt line).any fun h => placeBefore (some h.place) place && !own fun l w =>
    (h.access.claim s).1.contains l && ((h.access.claim s).2 || w)

/-- The subcode of MM_CONFLICT for a request by an agent of another module for a line of this module (06 R128, R132, R142). -/
def peerVerdict (s : State) (a : PeerAgent) (line : PAddr) (write sync : Bool) : Option Nat :=
  if (s.cardConflict none (.line line) write).isSome || s.sorrelHolds (.line line) || (s.peerCard (some a) line write).isSome then some 5
  else ((s.warpConflict none line write).or (s.peerConflict (some a) line write)).map fun x => conflictSub write sync x.1

/-- An agent holds a registration of a line of an equal or stronger kind. -/
def peerHolds (s : State) (a : PeerAgent) (line : PAddr) (write : Bool) : Bool :=
  s.peerRegs.any fun g => g.agent == a && g.line == line && (g.write || !write)

/-- A message that leaves the module. -/
def State.reply (s : State) (bs : List Byte) : State := { s with peerOut := s.peerOut ++ [bs] }

/-- The range an arriving request asks for. -/
def reqRange : StayReq → Nat × Nat
  | .read _ pa n => (pa, n)
  | .write _ pa bs => (pa, bs.length)
  | .sync _ pa n _ => (pa, n)
  | .register _ pa _ => (lineOf pa, 128)
  | .release _ pa => (lineOf pa, 128)

/-- A registration of another module's agent recorded. -/
def addPeerReg (s : State) (a : PeerAgent) (line : PAddr) (write : Bool) : State :=
  let old := s.peerRegs.any fun g => g.agent == a && g.line == line && g.write
  { s with peerRegs := (s.peerRegs.filter fun g => !(g.agent == a && g.line == line)) ++ [{ agent := a, line := line, write := write || old }] }

/-- The registration of an agent for a line dropped. -/
def dropPeerReg (s : State) (a : PeerAgent) (line : PAddr) : State :=
  { s with peerRegs := s.peerRegs.filter fun g => !(g.agent == a && g.line == line) }

/-- The answer to a request that took MM_CONFLICT: its subcode, and TFAUX naming this module (06 Table 6.6, log 33). -/
def conflictReply (s : State) (sub : Nat) : State := s.reply (natLE 4 sub ++ natLE 4 (auxPeer s.mstat.modid.toNat).toNat)

/-- A registration asked for by an agent of another module (06 R128, R142, R145): none while it is held, behind what is held for the line already, or, by
a card, at another agent's registration; a warp's is decided. -/
def peerRegister (s : State) (place : Option Nat) (a : PeerAgent) (line : PAddr) (write : Bool) : Option State :=
  if peerHolds s a line write then some (s.reply (natLE 4 0))
  else if heldBefore s (some a) place line then none
  else match peerVerdict s a line write false with
    | some sub => if a.card then none else some (conflictReply s sub)
    | none => some ((addPeerReg (s.performLine line) a line write).reply (natLE 4 0))

/-- A request that reaches its home, with its place when it was held (06 R128, R142): none while a payload access, a fill or a registration is held; an
.S access or a warp's registration is decided. -/
def performReq (s : State) (place : Option Nat) (req : StayReq) : Option State :=
  match req with
  | .read a pa n => if outsideHeld s (some a) pa n false then none else some (s.reply (s.bytes pa n))
  | .write a pa bs => if outsideHeld s (some a) pa bs.length true then none else some (s.putBytes pa bs)
  | .sync a pa n new =>
    match peerVerdict s a (lineOf pa) new.isSome true with
    | some sub => some (conflictReply s sub)
    | none => some ((match new with | some bs => s.putBytes pa bs | none => s).reply (s.bytes pa n))
  | .register a pa w => peerRegister s place a (lineOf pa) w
  | .release a pa => some (dropPeerReg s a (lineOf pa))

/-- An access that is held waits in the order of its arrival, in the place it has (06 R145). -/
def State.hold1 (s : State) (place : Option Nat) (x : Inbound) : State :=
  { s with inbox := s.inbox ++ [{ place := place.getD (nextPlace s), since := s.cycle, access := x }] }

/-- What a peer's home says of the registrations its own agents and others hold on its lines, against which this module's agents are decided
(06 R142, log 17). -/
def foreignReq (s : State) (req : StayReq) : Option State :=
  match req with
  | .register a pa w => if peerBase 0 ≤ pa && pa < fwBase then some (addPeerReg s a (lineOf pa) w) else none
  | .release a pa => if peerBase 0 ≤ pa && pa < fwBase then some (dropPeerReg s a (lineOf pa)) else none
  | _ => none

/-- STAY_REQUEST_ARRIVE: a request in the stacks of its port's partition is performed at the home or held there; any other is refused, which its requester sees as
an unreachable home (24 R411, R412). -/
def execStayRequestArrive (port : Nat) (req : StayReq) (s : State) : Out :=
  match s.ports[port]? with
  | some k =>
    if !k.up then .next s
    else
      let s := { s with ports := s.ports.modify port fun k => { k with retries := 0 } }
      match portPart s port, foreignReq s req with
      | none, _ => .next (s.reply [])
      | some _, some t => .next t
      | some p, none =>
        .next (if inStacks p (reqRange req).1 (reqRange req).2 then (performReq s none req).getD (s.hold1 none (.stay req)) else s.reply [])
  | none => .next s

/-! ## Link timeouts -/

/-- The first line of a card's footprint whose home lies in another module: its box, element and address. -/
def peerLine (s : State) (c : Card) : Option (Nat × Nat × VAddr) :=
  (cardLines s c).findSome? fun l =>
    match cardLoc s c l.box l.k with
    | .virt va =>
      match walkPast s (s.ctxOf c.blk) va with
      | .ok x _ => if peerBase 0 ≤ x.pa && x.pa < fwBase then some (l.box, l.k, va) else none
      | _ => none
    | _ => none

/-- LINK_TIMEOUT: a card whose request to a peer stays unacknowledged stops with ENGINE_ERROR SUB 4 (11 R267, 24 R412). -/
def execLinkTimeout (id : Nat) (s : State) : Out :=
  match s.startedCard? id with
  | none => .next s
  | some c =>
    match peerLine s c with
    | some (n, k, va) => .next (stopCard s c (outstanding s c) (payError c 4 va n k))
    | none => .next s

/-! ## RoCE -/

/-- An access of the RoCE engine to a context's memory: its home, when the page has the right and no registration holds it back. -/
inductive RoceAt where
  | home (pa : PAddr)
  | held
  | refused
  deriving DecidableEq, Repr

/-- The home of n bytes of a registered region (24 R413). What is held for the line already comes first, as it does before a card; a write that has registered the
line is held no more. -/
def roceHome (s : State) (place : Nat) (ctx : Nat) (va : VAddr) (n : Nat) (write : Bool) : RoceAt :=
  let a := some (roceAgent place)
  match walk s ctx va with
  | .migrating _ => .held
  | .fail => .refused
  | .ok x _ =>
    let pa := x.addr va
    if (if write then !x.wr else !x.rd) || s.unreachable ctx pa then .refused
    else if write && peerHolds s (roceAgent place) (lineOf pa) true then .home pa
    else if outsideHeld s a pa n write || (linesOf pa n).any (heldBefore s a (some place)) then .held else .home pa

/-- The registrations of an incoming access dropped. -/
def leaveLines (s : State) (place : Nat) : State := { s with peerRegs := s.peerRegs.filter fun g => g.agent != roceAgent place }

/-- An incoming write registers a line for the duration of its access (24 R413). -/
def enterLine (s : State) (place : Nat) (line : PAddr) : State := addPeerReg (leaveLines (s.performLine line) place) (roceAgent place) line true

/-- How far an access of the RoCE engine came: what it has read, what is left of it from an address on, and whether a registration holds it or it
was refused. -/
structure RoceRun where
  s    : State
  got  : List Byte
  rest : List Byte
  va   : VAddr
  stop : Option RoceAt
  deriving DecidableEq, Repr

/-- A run that goes on past n bytes. -/
def RoceRun.past (x : RoceRun) (n : Nat) : RoceRun := { x with rest := x.rest.drop n, va := x.va + BitVec.ofNat 57 n }

/-- Bytes read or written one line at a time, each at its own home (24 R413). A write registers its line and waits with it; when it goes on it is performed, the
registration ends, and the next line is registered. `rest` holds the bytes still to write, or stands for as many to read. -/
def roceLines (place ctx : Nat) (write : Bool) : Nat → RoceRun → RoceRun
  | 0, x => x
  | fuel + 1, x =>
    let n := min x.rest.length (128 - x.va.toNat % 128)
    if n = 0 then x
    else match roceHome x.s place ctx x.va n write with
      | .home pa =>
        if !write then roceLines place ctx write fuel { x.past n with got := x.got ++ x.s.bytes pa n }
        else if peerHolds x.s (roceAgent place) (lineOf pa) true then
          roceLines place ctx write fuel { x.past n with s := leaveLines (x.s.putBytes pa (x.rest.take n)) place }
        else { x with s := enterLine x.s place (lineOf pa), stop := some .held }
      | stop => { x with stop := some stop }

/-- A write of a region's bytes. -/
def roceWrite (s : State) (place ctx : Nat) (va : VAddr) (bs : List Byte) : RoceRun :=
  roceLines place ctx true (bs.length + 1) { s := s, got := [], rest := bs, va := va, stop := none }

/-- A read of n bytes of a region, after what has been read. -/
def roceRead (s : State) (place ctx : Nat) (va : VAddr) (n : Nat) (got : List Byte) : RoceRun :=
  roceLines place ctx false (n + 1) { s := s, got := got, rest := List.replicate n 0, va := va, stop := none }

/-- An atomic of 64 bits: it registers its line, then it is performed, and its old value is answered. -/
def roceAtomic (s : State) (place ctx : Nat) (va : VAddr) (f : W64 → W64) (x : Inbound) : State :=
  match roceHome s place ctx va 8 true with
  | .home pa =>
    if peerHolds s (roceAgent place) (lineOf pa) true then
      (leaveLines (s.putWord64 pa (f (s.word64 pa))) place).reply (natLE 8 (s.word64 pa).toNat)
    else (enterLine s place (lineOf pa)).hold1 (some place) x
  | .held => s.hold1 (some place) x
  | .refused => (leaveLines s place).reply []

/-- A message performed as far as it goes (24 R413): what a registration holds waits with the rest of it. A SEND goes to the host's own receive
queue. -/
def roceStep (s : State) (place ctx : Nat) (op : RoceOp) (got : List Byte) : State :=
  let held (x : RoceRun) (op : RoceOp) (got : List Byte) : State := x.s.hold1 (some place) (.roce ctx op got)
  match op with
  | .response qp bs =>
    match s.roceWait.find? (·.qp == qp) with
    | none => s
    | some w =>
      let x := roceWrite s place w.ctx w.va (bs.take w.n)
      match x.stop with
      | some .held =>
        held { x with s := { x.s with roceWait := x.s.roceWait.map fun y => if y == w then { y with va := x.va, n := x.rest.length } else y } }
          (.response qp x.rest) []
      | _ => { leaveLines x.s place with roceWait := x.s.roceWait.erase w, roce := x.s.roce ++ [{ qp := qp, data := bs }] }
  | .send bs => { s with roce := s.roce ++ [{ qp := 16384, data := bs }] }
  | .rdmaWrite va bs =>
    let x := roceWrite s place ctx va bs
    match x.stop with
    | some .held => held x (.rdmaWrite x.va x.rest) []
    | some _ => (leaveLines x.s place).reply []
    | none => x.s
  | .rdmaRead va n =>
    let x := roceRead s place ctx va n got
    match x.stop with
    | some .held => held x (.rdmaRead x.va x.rest.length) x.got
    | some _ => x.s.reply []
    | none => x.s.reply x.got
  | .fetchAdd va v => roceAtomic s place ctx va (fun old => old + v) (.roce ctx op [])
  | .cmpSwap va cmp new => roceAtomic s place ctx va (fun old => if old = cmp then new else old) (.roce ctx op [])

/-- ROCE_INCOMING: an incoming message on a port of the context's partition (24 R413). -/
def execRoceIncoming (port ctx : Nat) (op : RoceOp) (s : State) : Out :=
  if ethPart s port != s.boundPart ctx || (ethPart s port).isNone then .next (s.reply []) else .next (roceStep s (nextPlace s) ctx op [])

/-- A work request sent out with its payload; one that is answered waits for its answer. -/
def sendWork (s : State) (qp : Nat) (bs : List Byte) (w : Option RoceWait) : State :=
  { s.reply bs with roce := s.roce ++ [{ qp := qp, data := bs }], roceWait := s.roceWait ++ w.toList }

/-- The local region of a SEND or RDMA WRITE read, and the message sent; a read or an atomic sends its request, and its answer is written to the
local region (24 R413). -/
def workStep (s : State) (place : Nat) (qp ctx : Nat) (w : RoceWork) (got : List Byte) : State :=
  let out (lva : VAddr) (n : Nat) (f : VAddr → Nat → RoceWork) (head : List Byte) : State :=
    let x := roceRead s place ctx lva n got
    match x.stop with
    | some .held => x.s.hold1 (some place) (.work qp ctx (f x.va x.rest.length) x.got)
    | some _ => { x.s with roce := x.s.roce ++ [{ qp := qp, data := [] }] }
    | none => sendWork x.s qp (head ++ x.got) none
  match w with
  | .send lva n => out lva n RoceWork.send []
  | .write lva n rva => out lva n (fun v k => .write v k rva) (natLE 8 rva.toNat)
  | .read lva n rva => sendWork s qp (natLE 8 rva.toNat ++ natLE 4 n) (some { qp := qp, ctx := ctx, va := lva, n := n })
  | .fetchAdd lva rva x => sendWork s qp (natLE 8 rva.toNat ++ natLE 8 x.toNat) (some { qp := qp, ctx := ctx, va := lva, n := 8 })
  | .cmpSwap lva rva c n =>
    sendWork s qp (natLE 8 rva.toNat ++ natLE 8 c.toNat ++ natLE 8 n.toNat) (some { qp := qp, ctx := ctx, va := lva, n := 8 })

/-- ROCE_WORK_REQUEST: work of a queue pair below 16,384, sent out through an Ethernet port of the context's partition (24 R413). -/
def execRoceWorkRequest (qp ctx : Nat) (w : RoceWork) (s : State) : Out :=
  match (s.boundPart ctx).bind (s.parts[·]?) with
  | some p => if 16384 ≤ qp || p.a.eth = 0 then .next s else .next (workStep s (nextPlace s) qp ctx w [])
  | none => .next s

/-- A held access with the arrival of one that has its place. -/
def HeldAccess.keepSince (h x : HeldAccess) : HeldAccess := if x.place == h.place then { x with since := h.since } else x

/-- A held access tried again; it keeps its place and its arrival. -/
def retryInbound (s0 : State) (h : HeldAccess) : State :=
  let s := { s0 with inbox := s0.inbox.erase h }
  let t := match h.access with
    | .stay req => (performReq s (some h.place) req).getD (s.hold1 (some h.place) h.access)
    | .roce ctx op got => roceStep s h.place ctx op got
    | .work qp ctx w got => workStep s h.place qp ctx w got
  { t with inbox := t.inbox.map h.keepSince }

/-- The access from outside with a place goes on (19 R351). -/
def retryAt (s : State) (place : Nat) : State :=
  match s.inbox.find? (·.place == place) with
  | some h => retryInbound s h
  | none => s

/-- Every held access tried again, in the order of arrival (06 R145). -/
def serveInbox (s : State) : State := s.inbox.foldl retryInbound s

/-- UCIE_DEGRADE: the link at 4 to 1 UCIe modules, with no change in behaviour (24 R406). -/
def execUcieDegrade (modules : Nat) (s : State) : Out :=
  .next (if 1 ≤ modules && modules ≤ 4 then { s with ucie := modules } else s)

end Sys2Proof.Machine
end

