-- ==== Sys2Proof/Machine/Boundary.lean ====
section
/-! DEFINITION. What happens to a warp at a clause boundary: ends of waits, re-pinning and parking, promotion, activation in its slot,
the watchdog, delivery of traps and engine errors, and the beginning of a clause (02 R34-R48, 05 R107-R110, 07 R150-R161, 11 R267,
18 R327, R328, 21 R373-R376, R381). -/

namespace Sys2Proof.Machine

open Sys2Proof

/-! ## Places -/

/-- The core and the grid of a block. -/
def State.seat? (s : State) (b : Nat) : Option (Nat × Grid) :=
  (s.blocks[b]?).bind fun k => (s.grids[k.grid]?).map fun g => (k.core, g)

/-- The word or header at a program counter of a block. -/
def State.wordAt (s : State) (b : Nat) (pc : W64) : W64 :=
  ((s.seat? b).bind fun x => s.codeWord? x.1 x.2 pc).getD 0

/-- A block that stands on its core and is not halted. -/
def State.going (s : State) (b : Nat) : Bool :=
  match s.blocks[b]? with
  | some k => k.place == .resident && !k.halted
  | none => false

/-- The word at which an entry stands: of the clause it has begun, if it has not finished it (18 R331). -/
def State.entryWord (s : State) (b : Nat) (e : Entry) : W64 :=
  match e.begun.bind (·.from? e.pc) with
  | some (w :: _) => w
  | _ => s.wordAt b e.pc

/-- The entry an entry reference names. -/
def State.entry? (s : State) (r : WarpRef) (k : Nat) : Option Entry := (s.warp? r).bind (·.entries[k]?)

/-- An entry that is trap-parked. -/
def Entry.isParked (e : Entry) : Bool := match e.st with | .trapParked _ _ => true | _ => false

/-- An entry that is Waiting. -/
def Entry.waits (e : Entry) : Bool := match e.st with | .waiting _ => true | _ => false

/-- An entry in PAUSE. -/
def Entry.pauses (e : Entry) : Bool := match e.st with | .waiting (.pause _) => true | _ => false

/-! ## Parking lanes with a trap -/

/-- An entry parked where it stands. -/
def Entry.park (e : Entry) (word : W64) (f : Nat → LaneTrap) : Entry :=
  { e with st := .trapParked ((lanesOf e.mask).map f) word, retry := false }

/-- Cards of entries that leave their wait for queue room; such a card was never enqueued. -/
def dropRoom (s : State) (es : List Entry) : State :=
  let ids := es.filterMap fun e => match e.st with | .waiting (.cardRoom id) => some id | _ => none
  { s with cards := s.cards.filter fun c => c.queued || !ids.contains c.id }

/-- The trap-frame CSRs of the lanes of some entries filled, each lane with its entry's program counter and word. -/
def Warp.fillFrames (w : Warp) (s : State) (b : Nat) (es : List Entry) (f : Nat → LaneTrap) : Warp :=
  es.foldl (fun w e => w.mapLanes (lanesOf e.mask) fun i l => l.fillFrame e.pc (s.entryWord b e) e.mask (f i)) w

/-- Entries of a warp that a test selects park at their program counters, each lane with a trap; no clause goes on, and the trap-frame CSRs of the
lanes are filled (21 R381, log 98). -/
def parkEntries (s : State) (r : WarpRef) (p : Entry → Bool) (f : Nat → LaneTrap) : State :=
  match s.warp? r with
  | none => s
  | some w =>
    let hit (e : Entry) : Bool := e.mask != 0 && !e.isParked && p e
    let es := w.entries.filter hit
    ((dropRoom s es).modWarp r fun w => { w.mapEntries hit (fun e => e.park (s.entryWord r.b e) f) with cur := none }.fillFrames s r.b es f).freezeOn
      (es.flatMap fun e => (lanesOf e.mask).map f)

/-! ## The watchdog -/

/-- WDLIM of the die of a block's core; none disables the watchdog (21 R382). -/
def State.wdlim? (s : State) (b : Nat) : Option Nat :=
  match (s.dies[dieOf (s.coreOf b)]?).map (·.wdlim.toNat) with
  | some n => if n = 0 then none else some n
  | none => none

/-- WATCHDOG in a lane. -/
def dogTrap (sub n i : Nat) : LaneTrap := mkTrap i 0x13 sub 0 (BitVec.ofNat 32 n)

/-- The counts of a warp run: its block is not halted and none of its accesses is held (21 R381). -/
def dogRuns (s : State) (r : WarpRef) (w : Warp) : Bool := s.going r.b && !w.entries.any Entry.isHeld

/-- The warp's count of cycles since its last issue has reached 2^n: every lane neither retired nor trap-parked raises SUB 1. -/
def watchWarp (s : State) (r : WarpRef) : State :=
  match s.warp? r, s.wdlim? r.b with
  | some w, some n =>
    if dogRuns s r w && 2 ^ n ≤ s.cycle - w.lastIssue then parkEntries s r (fun _ => true) (dogTrap 1 n) else s
  | _, _ => s

/-- An entry whose own count has reached 2^n. -/
def Entry.overdue (e : Entry) (now n : Nat) : Bool :=
  ((e.waits && !e.pauses) || e.st == .capBlocked) && 2 ^ n ≤ now - e.since

/-- Waiting and capacity-blocked entries whose count has reached 2^n raise SUB 2, of those a test selects. -/
def watchEntries (s : State) (r : WarpRef) (p : Entry → Bool) : State :=
  match s.warp? r, s.wdlim? r.b with
  | some w, some n =>
    if dogRuns s r w && w.entries.any (fun e => p e && e.overdue s.cycle n) then
      parkEntries s r (fun e => p e && e.overdue s.cycle n) (dogTrap 2 n)
    else s
  | _, _ => s

/-- WATCHDOG_WARP. -/
def execWatchdogWarp (r : WarpRef) (s : State) : Out := .next (watchWarp s r)

/-- WATCHDOG_ENTRY. -/
def execWatchdogEntry (e : EntryRef) (s : State) : Out :=
  let r : WarpRef := { b := e.b, w := e.w }
  match s.entry? r e.e with
  | some x => .next (watchEntries s r (· == x))
  | none => .next s

/-! ## Errors of cards and write-backs -/

/-- The entry that holds a lane. -/
def Warp.entryOf (w : Warp) (i : Nat) : Option Entry := w.entries.find? fun e => e.mask.getLsbD i

/-- An error charged to a retired warp: lane 0's trap frame records it, and the context faults, or the block ends for an error of its memory
(11 R267, 21 R394). A privileged block only has it logged. -/
def chargeErr (s : State) (r : WarpRef) (x : WarpErr) : State :=
  let pc := x.pc.getD 0
  if s.ctxOf r.b = sysCtx then
    { s with log := s.log ++ [natLE 4 (x.trap.sub * 256 + x.trap.code) ++ natLE 8 pc.toNat] }.settleBlock r.b
  else
    let s := (s.modWarp r fun w => w.modLane 0 fun l => l.fillFrame pc (s.wordAt r.b pc) 0 x.trap).freezeOn [x.trap]
    if x.trap.code = 0x0F then s.callBlockEnd r else s.callChervil (s.ctxOf r.b)

/-- Every lane of the mask leaves its entry for one trap-parked entry at a program counter, and its trap-frame CSRs name those lanes and that word (11 R267,
log 98). -/
def gatherLanes (s : State) (r : WarpRef) (m : LaneMask) (pc : W64) (t : LaneTrap) : State :=
  match s.warp? r with
  | none => s
  | some w =>
    let es := w.entries.filter fun e => e.mask != 0 && !e.isParked
    let ts := (lanesOf m).map fun i => { t with lane := i }
    match w.entryOf (lowest m) with
    | none => s
    | some e =>
      let whole := e.split s.cycle { mask := m, pc := pc, st := .trapParked ts (s.wordAt r.b pc) }
      ((dropRoom s es).modWarp r fun w =>
        { w.mapLanes (lanesOf m) (fun _ l => l.fillFrame pc (s.wordAt r.b pc) m t) with
          entries := w.entries.filter (Entry.isParked) ++ [{ whole with handler := es.any (·.handler) }], cur := none }).freezeOn ts

/-- ENGINE_ERROR and the errors of write-backs reach their warp (11 R267): its lanes that have not retired and are not trap-parked take the
trap. While every lane is trap-parked the error stays pending. -/
def deliverErr (s : State) (r : WarpRef) : State :=
  match s.warp? r with
  | none => s
  | some w =>
    match w.errs with
    | [] => s
    | x :: rest =>
      let s2 := s.modWarp r fun w => { w with errs := rest }
      let m := w.awaited
      if w.lanes.all (·.retired) then chargeErr s2 r x
      else if m = 0 then s
      else gatherLanes s2 r m (x.pc.getD (((w.entryOf (lowest m)).map (·.pc)).getD 0)) x.trap

/-- A warp has an error that its boundary delivers. -/
def Warp.errDue (w : Warp) : Bool := !w.errs.isEmpty && (w.awaited != 0 || w.lanes.all (·.retired))

/-- ENGINE_ERROR_DELIVER. -/
def execEngineErrorDeliver (r : WarpRef) (s : State) : Out := .next (if s.going r.b then deliverErr s r else s)

/-- TRAP_DELIVER: at a clause boundary of the warp (21 R374, R375). -/
def execTrapDeliver (r : WarpRef) (s : State) : Out :=
  .next (if s.going r.b && ((s.warp? r).map fun w => w.cur.isNone).getD false then deliver s r else s)

/-! ## Waits -/

/-- The WAIT mask of the clause at a program counter. -/
def State.waitMask? (s : State) (b : Nat) (pc : W64) : Option (BitVec 12) :=
  (s.seat? b).bind fun x => match s.clauseAt x.1 x.2 pc with
    | .clause _ h => some (unpackHeader h).wait
    | _ => none

/-- The WAIT mask that holds an entry: that of the clause it has begun, or of the one at its program counter. -/
def State.entryWait? (s : State) (b : Nat) (e : Entry) : Option (BitVec 12) :=
  match e.begun with
  | some x => if (x.from? e.pc).isSome then some (unpackHeader x.hdr).wait else s.waitMask? b e.pc
  | none => s.waitMask? b e.pc

/-- An entry held at a WAIT mask goes on once the named flags read clear (07 R160). -/
def testClauseWait (s : State) (r : WarpRef) (k : Nat) : State :=
  match s.warp? r, s.entry? r k with
  | some w, some e =>
    if e.st == .waiting .clauseWait && ((s.entryWait? r.b e).map (flagsClear w)).getD true then
      s.modWarp r fun w => { w with entries := w.entries.modify k Entry.wakeHere }
    else s
  | _, _ => s

/-- CLAUSE_WAIT_PASS, in a block that is not halted (21 R385). -/
def execClauseWaitPass (e : EntryRef) (s : State) : Out := .next (if s.still e.b then s else testClauseWait s { b := e.b, w := e.w } e.e)

/-- A HALTB or DRAIN that waits ends when what it waits for holds (21 R385, R388). -/
def testSystem (s : State) (r : WarpRef) (k : Nat) : State :=
  match s.entry? r k with
  | some e =>
    match e.st with
    | .waiting (.halts ctx core) =>
      if s.stopped ctx (coreSel (BitVec.ofNat 32 core)) then s.modWarp r fun w => { w with entries := w.entries.modify k Entry.wakeNext }
      else s
    | .waiting (.drain ctx core mode d) =>
      match drainLeft s ctx (BitVec.ofNat 32 core) mode with
      | some n =>
        (match d with
         | some d => writeDest s r d (lanesOf e.mask) fun _ => [{ val := BitVec.ofNat 32 n, poison := false }]
         | none => s).modWarp r fun w => { w with entries := w.entries.modify k Entry.wakeNext }
      | none => s
    | _ => s
  | none => s

/-- A barrier or scratchpad wait that came about while the block was halted ends at RESUMEB (21 R385). -/
def testHeld (s : State) (r : WarpRef) (k : Nat) : State :=
  match s.blocks[r.b]?, s.entry? r k with
  | some b, some e =>
    match e.st with
    | .waiting (.barrier n ph) =>
      if b.passed (.barrier n ph) then s.modWarp r fun w => { w with entries := w.entries.modify k Entry.wakeNext } else s
    | .waiting (.gbarrier n ph) =>
      if b.passed (.gbarrier n ph) then s.modWarp r fun w => { w with entries := w.entries.modify k Entry.wakeNext } else s
    | .waiting (.waita ws pd _) => if ws.all (·.sat) then s.wakeRegion r k fun w => w.setPredIn (ws.map (·.lane)) pd fun _ => false else s
    | .waiting (.barb _) => s.testEntry r e k
    | _ => s
  | _, _ => s

/-- Everything that may end the wait of one entry. -/
def testWait (s : State) (r : WarpRef) (k : Nat) : State :=
  testHeld (testSystem (testEngine (testClauseWait (pauseExpireEntry (waitaTimeoutEntry (joinTimeoutEntry s r k) r k) r k) r k) r k) r k) r k

/-- Entries that come together, and the CALLX records that go on (02 R41-R43, 09 R208). -/
def Warp.gather (w : Warp) : Warp := w.dropEmpty.meetAll.dropEmpty.advanceRecords

/-! ## Capacity -/

/-- The lines that lanes of a mask hold, a register left out. -/
def Warp.linesIn (w : Warp) (m : LaneMask) (except : Option (BitVec 3)) : List VAddr :=
  (lanesOf m).flatMap fun i => ((w.lane i).binds.zipIdx.filterMap fun (b, k) =>
    if (except.map (·.toNat)) == some k then none else (bindLine? b).map (·.1))

/-- A line parked (05 R109): its clean bytes are dropped. -/
def HeldLine.parkNow (h : HeldLine) : HeldLine :=
  { h with parked := true, data := if h.dirty = 0 then [] else h.data.zipIdx.map fun (x, k) => if h.dirty.getLsbD k then x else 0 }

/-- A line parked when it is among some. -/
def HeldLine.parkIf (ls : List VAddr) (h : HeldLine) : HeldLine := if !h.parked && ls.contains h.line then h.parkNow else h

/-- Lines of a warp parked; each adds 1 to PARKCNT (05 R108). Loans return once the dirty bytes are in the park area. -/
def Warp.parkLines (w : Warp) (ls : List VAddr) : Warp :=
  let n := (w.held.filter fun h => !h.parked && ls.contains h.line).length
  { w with held := w.held.map (HeldLine.parkIf ls), parkCnt := w.parkCnt + BitVec.ofNat 32 n }

/-- The lanes of entries that are not Waiting. -/
def Warp.busyMask (w : Warp) : LaneMask := w.entries.foldl (fun m e => if e.waits then m else m ||| e.mask) 0

/-- The lines that no entry but Waiting ones holds. -/
def Warp.idleLines (w : Warp) : List VAddr :=
  let busy := w.linesIn w.busyMask none
  (w.held.map (·.line)).filter fun l => !busy.contains l

/-- The line register a blocked word binds or reaches, and the line that a lane of it needs. -/
def wordNeed (k : Kernel) (w : Warp) (i : Nat) (word : W64) : Option (BitVec 3 × VAddr) :=
  let byView (ln : BitVec 3) (v : BitVec 6) (b : Reg) : BitVec 3 × VAddr :=
    (ln, vlineOf (BitVec.ofNat 57 ((k.view v).locate k.gang (w.coords b (k.view v) i).1).addr.toNat))
  let byBind (ln : BitVec 3) : BitVec 3 × VAddr := (ln, ((bindLine? ((w.lane i).bind ln)).map (·.1)).getD 0)
  match decodeWord word with
  | .ok (.openl o) => some (byView o.ln o.v o.b)
  | .ok (.reopen o) => some (byView o.ln o.v o.b)
  | .ok (.ldl o) => some (byBind o.ln)
  | .ok (.stl o) => some (byBind o.ln)
  | .ok (.atoml o) => some (byBind o.ln)
  | _ => none

/-- Lines of a warp parked, their dirty bytes written to its park area, which is as large as its quota and loans, and then the loans returned
(05 R108, R109). -/
def parkWrite (s : State) (r : WarpRef) (ls : List VAddr) : State :=
  (writePark (s.modWarp r (·.parkLines ls)) r).modWarp r Warp.returnLoans

/-- The lowest lane of a blocked entry binds when its word repeats for the entry's lanes under 05 R106; a word that needs no line is not held up. -/
def lowestBinds (s : State) (r : WarpRef) (kern : Kernel) (w : Warp) (e : Entry) : Bool :=
  let word := s.entryWord r.b e
  let needs := (lanesOf e.mask).filterMap fun i => (wordNeed kern w i word).map fun x => (i, x.2)
  needs.isEmpty || (fit w kern.exact (s.lendable r.b (s.coreOf r.b)) needs).bound.contains (lowest e.mask)

/-- The blocked entry's own lines in other registers, parked when its lowest lane still cannot bind (05 R108). -/
def parkOwn (r : WarpRef) (kern : Kernel) (s : State) (e : Entry) : State :=
  match s.warp? r with
  | none => s
  | some w =>
    match wordNeed kern w (lowest e.mask) (s.entryWord r.b e) with
    | some (ln, _) => if lowestBinds s r kern w e then s else parkWrite s r (w.linesIn e.mask (some ln))
    | none => s

/-- The parking of a warp that has a capacity-blocked entry and no Runnable one, after which its blocked entries are eligible (05 R107, R108). -/
def retryBlocked (s : State) (r : WarpRef) : State :=
  match s.warp? r, s.kernelOf? r.b with
  | some w, some kern =>
    let blocked := w.entries.filter fun e => e.mask != 0 && e.st == .capBlocked
    if blocked.isEmpty || w.entries.any Entry.runs then s
    else (blocked.foldl (parkOwn r kern) (parkWrite s r w.idleLines)).modWarp r Warp.unblock
  | _, _ => s

/-- CAPACITY_RETRY. -/
def execCapacityRetry (e : EntryRef) (s : State) : Out :=
  let r : WarpRef := { b := e.b, w := e.w }
  .next (if (s.entry? r e.e).map (·.st) == some .capBlocked && s.going r.b then retryBlocked s r else s)

/-- The parked lines of lanes, in ascending lane order and then register order (05 R110). -/
def Warp.parkedIn (w : Warp) (m : LaneMask) : List (Nat × VAddr) :=
  (lanesOf m).flatMap fun i => (w.lane i).binds.filterMap fun b =>
    ((bindLine? b).filter fun x => ((w.held? x.1).map (·.parked)).getD false).map fun x => (i, x.1)

/-- Lines re-pinned until the next would need quota that is not granted; none when a migration holds a fetch. -/
def repinList (r : WarpRef) (exact : Bool) : List (Nat × VAddr) → State → Option State
  | [], s => some s
  | (i, l) :: rest, s =>
    match s.warp? r with
    | none => some s
    | some w =>
      if ((w.held? l).map fun h => !h.parked).getD true then repinList r exact rest s
      else
        let f := fit w exact (s.lendable r.b (s.coreOf r.b)) [(i, l)]
        if f.bound.isEmpty then some s
        else (repinLine (s.modWarp r fun w => { w with loaned := f.loaned }) r i l).bind (repinList r exact rest)

/-- An entry whose wait has ended and whose lines are back. -/
def Entry.settled (e : Entry) : Entry := { e with woken := false }

/-- The entry at a place after its wait has ended: its parked lines come back before it issues (05 R110); a migration that holds a fetch holds
the entry. -/
def repinEntry (s : State) (r : WarpRef) (k : Nat) : State :=
  match s.warp? r, s.entry? r k, s.kernelOf? r.b with
  | some w, some e, some kern =>
    if !e.woken || !e.runs then s
    else match repinList r kern.exact (w.parkedIn e.mask) s with
      | some s => s.modWarp r fun w => { w with entries := w.entries.modify k Entry.settled }.returnLoans
      | none => s.modWarp r fun w => { w with entries := w.entries.modify k fun e =>
          { e with st := .waiting .migration, since := s.cycle, stay := some (e.stay.getD s.cycle) } }
  | _, _, _ => s

/-! ## The end of waits -/

/-- An entry with the priority of the clause its lanes stand at (02 R33). -/
def Entry.reprice (s : State) (core : Nat) (g : Grid) (e : Entry) : Entry :=
  if e.mask = 0 then e
  else match e.begun.filter fun x => (x.from? e.pc).isSome with
    | some x => { e with prio := (unpackHeader x.hdr).prio }
    | none => { e with prio := s.prioAt core g e.pc e.prio }

/-- The entries of a warp with their priorities brought up to date. -/
def Warp.reprice (s : State) (core : Nat) (g : Grid) (w : Warp) : Warp := { w with entries := w.entries.map (Entry.reprice s core g) }

/-- Priorities brought up to date, Runnable entries merged, the overflow area told apart (02 R33-R36). -/
def mergeWarp (s : State) (r : WarpRef) : State :=
  match s.seat? r.b with
  | none => s
  | some (core, g) => s.modWarp r fun w => (w.reprice s core g).mergeRunnable.dropEmpty.markOverflow

/-- The frontier after a word: priorities brought up to date, at most sixteen entries outside the overflow area (02 R36). -/
def rankWarp (s : State) (r : WarpRef) : State :=
  match s.seat? r.b with
  | none => s
  | some (core, g) => s.modWarp r fun w => (w.reprice s core g).markOverflow

/-- A step made for every entry place of a warp. -/
def eachEntry (f : State → WarpRef → Nat → State) (r : WarpRef) (s : State) : State :=
  (List.range (((s.warp? r).map fun w => w.entries.length).getD 0)).foldl (fun s k => f s r k) s

/-- What ends waits and brings entries together at a warp's clause boundary (02 R33-R43, 05 R107-R110). -/
def settleWaits (s : State) (r : WarpRef) : State :=
  let s := (eachEntry testWait r (s.modWarp r Warp.gather)).modWarp r Warp.gather
  let s := eachEntry repinEntry r (meetTret s r)
  mergeWarp (retryBlocked s r) r

/-- Everything that comes about at a warp's clause boundary before it chooses an entry. A trap that has frozen the module is not delivered (24 R417). -/
def settle (s : State) (r : WarpRef) : State :=
  let s := watchEntries (watchWarp (settleWaits s r) r) r fun _ => true
  if s.frz.frozen then s else deliver s r

/-- A warp has an entry that is Runnable, or that would be at its clause boundary: every wait is tested for it, a word that entries meet at, a TRET, a WAIT
mask, a capacity block and a pending trap among them. -/
def State.resolves (s : State) (r : WarpRef) (w : Warp) : Bool :=
  w.entries.any Entry.runs ||
    (s.going r.b && w.cur.isNone && w.entries.any (·.mask != 0) && ((settle s r).warp? r).any fun x => x.entries.any Entry.runs)

/-! ## Promotion and activation -/

/-- ENTRY_PROMOTE (02 R37). -/
def execEntryPromote (e : EntryRef) (s : State) : Out :=
  .next (s.modWarp { b := e.b, w := e.w } fun w =>
    ({ w with entries := w.entries.modify e.e fun x => x.promote w.promotions, promotions := w.promotions + 1 }).markOverflow)

/-- Native contexts of a warp (02 R40). -/
def Warp.contexts (w : Warp) : Nat := if w.ctxIdx = w.ctxIdx2 then 1 else 2

/-- A warp that may leave its slot's active contexts, unless its wait has resolved (02 R46). -/
def Warp.swappable (w : Warp) : Bool :=
  w.cur.isNone && !w.entries.any Entry.runs && w.entries.any fun e => e.mask != 0 && e.waits && !e.pauses

/-- The active warps of a slot that run or wait there: halted blocks and retired warps take no place among the eight (log 35). -/
def slotActive (s : State) (core slot : Nat) : List (WarpRef × Warp) :=
  s.refs.filterMap fun r =>
    match s.blocks[r.b]?, s.warp? r with
    | some k, some w =>
      if k.place == .resident && !k.halted && k.core == core && w.slot == slot && w.active && !w.lanes.all (·.retired) then some (r, w)
      else none
    | _, _ => none

/-- The contexts of a list of warps. -/
def contextsOf (l : List (WarpRef × Warp)) : Nat := l.foldl (fun n x => n + x.2.contexts) 0

/-- A warp made active or pending. -/
def State.setActive (s : State) (x : Bool) (r : WarpRef) : State := s.modWarp r fun w => { w with active := x, ready := none }

/-- A pending warp whose wait has resolved. -/
def Warp.enters (w : Warp) : Bool := !w.active && w.entries.any Entry.runs

/-- A pending warp whose wait has been seen to have resolved, at its own turn or before. -/
def Warp.waitsToEnter (w : Warp) : Bool := w.enters || (!w.active && w.ready.isSome)

/-- No pending warp of the slot resolved its wait before this one (02 R46); of two in one cycle the first in order of place enters (log 35). -/
def firstReady (s : State) (r : WarpRef) : Bool :=
  match s.warp? r with
  | none => false
  | some w =>
    let at_ (x : Warp) : Nat := x.ready.getD s.cycle
    s.refs.all fun q =>
      match s.warp? q with
      | none => true
      | some x => q == r || !s.going q.b || s.coreOf q.b != s.coreOf r.b || x.slot != w.slot || !x.waitsToEnter || at_ w < at_ x ||
          (at_ w == at_ x && (r.b < q.b || (r.b == q.b && r.w < q.w)))

/-- The shortest run of swappable warps whose leaving lets `need` contexts in among eight. -/
def swapOut (need load : Nat) : List (WarpRef × Warp) → Option (List WarpRef)
  | [] => if load + need ≤ 8 then some [] else none
  | x :: xs => if load + need ≤ 8 then some [] else (swapOut need (load - x.2.contexts) xs).map (x.1 :: ·)

/-- The pending warp whose wait resolved first enters its slot when there is room, or for active warps that can be swapped out (02 R46). -/
def activate (s : State) (r : WarpRef) : State :=
  match s.warp? r with
  | none => s
  | some w =>
    if !w.enters || !firstReady s r then s
    else
      let l := slotActive s (s.coreOf r.b) w.slot
      match swapOut w.contexts (contextsOf l) (l.filter fun x => x.2.swappable && !s.resolves x.1 x.2) with
      | some out => (out.foldl (fun s o => s.setActive false o) s).setActive true r
      | none => s

/-- WARP_SWAP: an active warp that can be swapped out leaves for the pending warp whose wait resolved first (02 R46). -/
def execWarpSwap (out inn : WarpRef) (s : State) : Out :=
  match s.warp? out, s.warp? inn with
  | some a, some b =>
    let l := slotActive s (s.coreOf inn.b) b.slot
    if s.going inn.b && l.any (·.1 == out) && a.swappable && !s.resolves out a && b.enters && firstReady s inn &&
        contextsOf l - a.contexts + b.contexts ≤ 8 then
      .next ((s.setActive false out).setActive true inn)
    else .next s
  | _, _ => .next s

/-! ## The boundary -/

/-- A pending warp notes the cycle in which its wait is first seen to have resolved (02 R46). -/
def Warp.noteReady (w : Warp) (now : Nat) (yes : Bool) : Warp := { w with ready := if yes then w.ready.or (some now) else none }

/-- Every pending warp whose wait has resolved notes the cycle; every wait is tested for it, though its entry goes on at the warp's own turn. -/
def State.noteReady (s : State) : State := s.mapWarps fun r w => if w.active then w else w.noteReady s.cycle (s.resolves r w)

/-- An entry that waits for something before its clause can begin. -/
def Entry.await (e : Entry) (now : Nat) (w : Wait) : Entry := { e with st := .waiting w, since := now }

/-- A warp's entry that waits. -/
def State.awaitAt (s : State) (r : WarpRef) (k : Nat) (w : Wait) : State :=
  s.modWarp r fun x => { x with entries := x.entries.modify k fun e => e.await s.cycle w }

/-- A miss of the translation cache: the entry waits for the page. Each fetch that finds no usable translation is a miss (18 R325, R329, log 49). -/
def missPage (s : State) (r : WarpRef) (k core : Nat) (va : VAddr) : State :=
  (s.modDie (dieOf core) fun d => { d with dgmiss := d.dgmiss + 1 }).awaitAt r k (.translation (pageOf va))

/-- The lanes of an entry that would begin a clause trap at its header (07 R152, R154, 18 R328). -/
def headerTrap (s : State) (r : WarpRef) (k : Nat) (hpc hdr : W64) (f : Nat → LaneTrap) : State :=
  match s.entry? r k with
  | none => s
  | some e =>
    (s.modWarp r fun w => { w with entries := w.entries.modify k fun e => { e with pc := hpc }.park hdr f }).freezeOn
      ((lanesOf e.mask).map f)

/-- The words of a clause from a place on. -/
def clauseWords (t : Tag) (hoff n skip : Nat) : List W64 :=
  (List.range (n - skip)).map fun k => t.word (hoff + 8 + 8 * (skip + k))

/-- An entry that begins a clause (02 R37, 07 R157). -/
def Entry.begin (e : Entry) (pc : W64) (prio : BitVec 12) : Entry :=
  { e with pc := pc, prio := prio, age := 0, promoted := none, begun := none, stay := none }

/-- The clause of an entry from its program counter to its end. -/
def State.putClause (s : State) (r : WarpRef) (k : Nat) (prio : BitVec 12) (first : W64) (c : ClauseCur) : State :=
  s.modWarp r fun w =>
    { w with entries := w.entries.modify k fun e => e.begin first prio,
             cur := some { c with stay := ((w.entries[k]?).bind (·.stay)) } }

/-- The clause begun by an entry, at its header or at the word where it stands (07 R157). -/
def startClause (s : State) (r : WarpRef) (k : Nat) (t : Tag) (hoff : Nat) (hdr hpc : W64) (pc : W64) : State :=
  let h := unpackHeader hdr
  let n := h.count.toNat + 1
  let skip := (pc.toNat - hpc.toNat) / 8 - 1
  let first := if pc = hpc then hpc + 8 else pc
  s.putClause r k h.prio first { e := k, hdr := hdr, hpc := hpc, left := n - skip, word := 0, code := clauseWords t hoff n skip, stay := none }

/-- A clause that an entry has begun goes on with its words as they were, under its header's WAIT mask (07 R157, 18 R331). -/
def resumeClause (s : State) (r : WarpRef) (k : Nat) (w : Warp) (pc : W64) (b : Begun) (code : List W64) : State :=
  let h := unpackHeader b.hdr
  if !flagsClear w h.wait then s.awaitAt r k .clauseWait
  else s.putClause r k h.prio pc { e := k, hdr := b.hdr, hpc := b.hpc, left := code.length, word := 0, code := code, stay := none }

/-- An entry begins the clause at its program counter with a lookup of its translation (07 R150-R161, 18 R325-R328). A broken chain is reported before a
malformed header (log 74). -/
def fetchClause (s : State) (r : WarpRef) (k : Nat) : State :=
  match s.warp? r, s.entry? r k, s.seat? r.b with
  | some w, some e, some (core, g) =>
    let va := g.kernel.codeVa e.pc
    match s.tag? core g va with
    | none => missPage s r k core va
    | some t =>
      let base := e.pc.toNat / 4096 * 4096
      let at_ (hoff : Nat) : W64 := BitVec.ofNat 64 (base + hoff)
      match chainFrom (fun off => some (t.word off)) (e.pc.toNat % 4096) 513 0 with
      | .broken hoff hdr =>
        headerTrap s r k (at_ hoff) hdr fun i => mkTrap i 0x10 1 (g.kernel.codeVa (at_ hoff)) (BitVec.ofNat 32 hoff)
      | .unread => s
      | .clause hoff hdr =>
        let h := unpackHeader hdr
        if h.bad then headerTrap s r k (at_ hoff) hdr fun i => mkTrap i 2 0 0 0
        else if !flagsClear w h.wait then s.awaitAt r k .clauseWait
        else touchTag (startClause s r k t hoff hdr (at_ hoff) e.pc) core g va
  | _, _, _ => s

/-- An entry begins its clause, or goes on with the one it has begun and not finished (18 R331, log 99). -/
def beginClause (s : State) (r : WarpRef) (k : Nat) : State :=
  match s.warp? r, (s.entry? r k).bind fun e => e.begun.bind fun b => (b.from? e.pc).map fun code => (e, b, code) with
  | some w, some (e, b, code) => resumeClause s r k w e.pc b code
  | _, _ => fetchClause s r k

/-- ILLEGAL_OPCODE (07 R170, R171). -/
def execIllegalOpcode (w : W64) (s : State) : Out := badWord w true s

end Sys2Proof.Machine
end

