-- ==== Sys2Proof/Machine/Agents.lean ====
section
/-! DEFINITION. The moves open to the module's agents between turns of the warps (log 1): the engines, the scheduler, the translation
controller, Dergus, Chervil. Each is tried once a round; one whose condition does not hold changes nothing. -/

namespace Sys2Proof.Machine

open Sys2Proof

/-- The moves of a card: its start, its next beat, its completion (11 R264, R272). -/
def cardMoves (c : Card) : List Instr :=
  if !c.queued then []
  else if !c.started then [.cardStart c.id]
  else (if c.op = 0xB3 then [.cpyqBeatPush c.id] else []) ++ [.cardComplete c.id]

/-- Cores whose array is asked for. -/
def grantMoves (s : State) : List Instr :=
  (s.cores.zipIdx.filter fun x => !x.1.reqs.isEmpty || s.cards.any (wantsPush s x.2)).map fun x => .mainsailGrant x.2

/-- Queues with an entry to take. -/
def queueMoves (s : State) : List Instr :=
  (s.queues.filter fun q => q.2.en && q.2.head != q.2.tail).map fun q => .launchEntryTake q.1

/-- Saved blocks to return, then the service of every partition that has blocks to place (20 R360, R361). -/
def placeMoves (s : State) : List Instr :=
  ((s.blocks.zipIdx.filter fun x => x.1.place == .saved).map fun x => .blockRestore x.2) ++
  (List.range 8).flatMap fun p =>
    if (List.range s.grids.length).any (wantsPlace s p) then [.blockPlace p, .gangReserve p, .gangLendCutoff p] else []

/-- Cores that leave an idle state for a placement that needs them, and cores that have been without a block long enough to enter one (20 R371). -/
def idleMoves (s : State) : List Instr :=
  let need := (List.range 8).flatMap (neededBy s)
  s.cores.zipIdx.flatMap fun (c, k) =>
    if c.idle != 0 then (if need.contains k then [.idleExit k] else [])
    else if need.contains k || coreBusy s k || s.cycle - c.emptyAt < s.micros 20 then []
    else match corePart s k with
      | some p => if deepest p.pltol.toNat = 0 then [] else [.idleEntry k]
      | none => []

/-- Grids that are over and not recorded (20 R358). -/
def gridMoves (s : State) : List Instr :=
  (s.grids.zipIdx.filter fun (g, gi) => !g.recorded && gridOver s gi g).map fun x => .gridComplete x.2

/-- Contexts whose fault Chervil answers (21 R396). -/
def faultMoves (s : State) : List Instr :=
  ((s.ctxs.filter fun c => c.2.life == .faulted || c.2.life == .tearing).map fun c => .contextFault c.1) ++
  (match s.dump with | some d => [.contextFault d.ctx] | none => [])

/-- Blocks that an error of their memory ends, whose cards have still to complete (21 R394). -/
def endingMoves (s : State) : List Instr :=
  (s.blocks.zipIdx.filter fun (k, b) => k.ending && k.place == .resident && (s.ctxInfo (s.ctxOf b)).life == .live).map fun x =>
    .scratchUe x.2 { b := x.2, w := 0 } 0 0

/-- The moves of the translation controller: commands taken up, sweeps, completions (19 R346-R350). -/
def commandMoves (s : State) : List Instr :=
  let cs := s.tctl.cmds
  let queued (op : Nat → Bool) (i : Instr) : List Instr := if cs.any fun c => c.phase == 0 && op c.op then [i] else []
  queued (· == 0) .shoot ++ queued (· == 1) .shootctx ++ queued (· == 2) .migrate ++ queued (· == 3) .promote ++
  queued (3 < ·) .badcmd ++
  cs.flatMap fun c =>
    if c.phase = 1 then (c.cores.map fun k => .coreSweep k c.ticket.toNat) ++ [.shootComplete c.ticket.toNat]
    else if c.phase = 2 then [.migrationCopyDone c.ticket.toNat] else []

/-- What the waits of one entry ask of other agents. -/
def entryMoves (s : State) (r : WarpRef) (e : Entry) : List Instr :=
  match e.st with
  | .waiting (.translation page) => [.dergusTranslate (dieOf (s.coreOf r.b)) (s.ctxOf r.b) page]
  | .waiting (.cinv _ _) => [.cinvComplete r]
  | .waiting (.chervil _) => [.chervilAnswer r]
  | .waiting .migration => [.regionEndComplete r]
  | _ => []

/-- What the waits of the resident warps ask. -/
def waitMoves (s : State) : List Instr :=
  (s.refs.flatMap fun r =>
    match s.warp? r with
    | some w => if s.going r.b then w.entries.flatMap (entryMoves s r) else []
    | none => []).eraseDups

/-- Nodes whose records wait (20 R364). -/
def nodeMoves (s : State) : List Instr := (s.nodes.map fun n => Instr.nodeFlushTimer n.ctx n.node).eraseDups

/-- One of each warp's relaxed stores performed, or none, by a free choice; its oldest at every 64th step, so that none waits for ever
(06 R136, R141, log 3). -/
def storeMoves (s : State) : List Move :=
  s.refs.zipIdx.filterMap fun (r, n) => (s.warp? r).bind fun w =>
    if w.stores.isEmpty then none
    else
      let k := Config.performs (s.tick + n) % (w.stores.length + 1)
      if k < w.stores.length then some (.perform r k) else if s.tick % 64 = 0 then some (.perform r 0) else none

/-- A move is left to the held access that stands for it among those to be replayed (19 R351). -/
def State.leftToReplay (s : State) (i : Instr) : Bool :=
  s.replays.any fun x => match x, i with
    | .fetch die ctx page, .dergusTranslate d c va => d == die && c == ctx && pageOf va == page
    | .command _, .promote => true
    | .command t, .shootComplete n => t.toNat == n
    | _, _ => false

/-- Accesses from outside are to be replayed. -/
def State.outsideReplays (s : State) : Bool := s.replays.any fun x => match x with | .outside _ => true | _ => false

/-- The moves of the engines, the controllers, the scheduler and Chervil. -/
def agentMoves (s : State) : List Instr :=
  waitMoves s ++ (s.cards.filter fun c => !s.replays.contains (.card c.id)).flatMap cardMoves ++ grantMoves s ++ commandMoves s ++ nodeMoves s ++
    gridMoves s ++ faultMoves s ++ endingMoves s ++ queueMoves s ++ idleMoves s ++ placeMoves s

/-- One round of every agent's moves. -/
def roundMoves (s : State) : List Move :=
  storeMoves s ++ ((agentMoves s).filter fun i => !s.leftToReplay i).map Move.event ++
    (if s.preempts.isEmpty then [] else [.preempt]) ++ (if s.inbox.isEmpty || s.outsideReplays then [] else [.inbox]) ++
    (if s.boot.isNone then [] else [.boot])

end Sys2Proof.Machine
end

