-- ==== Sys2Proof/Machine/Move.lean ====
section
/-! DEFINITION. The moves MOV, MOVI, MOVS, SMOVV and SEL (08 R184). -/

namespace Sys2Proof.Machine

open Sys2Proof

/-- A register, or the two registers of a pair, copied with their own poison bits. -/
def copyWords (wp : Warp) (r : Reg) (pair : Bool) (l : Nat) : List PW :=
  if pair then [wp.reg r l, wp.reg (regPlus r 1) l] else [wp.reg r l]

/-- MOV copies a with its poison bits. -/
def execMov (o : MovOp) (s : State) : Out :=
  computeWord 0x28 (.mov o) o.g false (some o.d) (fun c l =>
    { words := copyWords c.wp o.a o.pair l, preds := [], fl := 0 }) s

/-- MOVI writes IMM32, or a pair sign- or zero-extended; never poisoned. -/
def execMovi (o : MoviOp) (s : State) : Out :=
  computeWord 0x29 (.movi o) o.g false (some (Reg.vec o.d)) (fun _ _ =>
    if o.sz = 0 then res32 o.imm false
    else res64 (if o.sz = 1 then o.imm.signExtend 64 else o.imm.setWidth 64) false) s

/-- MOVS reads s-register (A + b) mod 64 in each lane; poisoned also when b is. -/
def execMovs (o : MovsOp) (s : State) : Out :=
  computeWord 0x2A (.movs o) o.g false (some o.d) (fun c l =>
    let b := c.wp.reg o.b l
    let x := nth zeroPW c.wp.s ((o.sa.toNat + b.val.toNat) % 64)
    res32 x.val (x.poison || b.poison)) s

/-- SMOVV: the value and poison of a in the lowest lane of Active that is not a helper. -/
def execSmovv (o : SmovvOp) (s : State) : Out :=
  issueWord 0x2B (.smovv o) o.g (fun s c act _ =>
    .done (s.modWarp c.r fun w =>
      match act with
      | [] => w
      | l :: _ => if c.spoiled o.g then w else w.setSs o.sd.toNat [c.wp.reg (Reg.vec o.a) l]) [] []) s

/-- SEL: a when p is true, b when it is false; a poisoned p poisons d. -/
def execSel (o : SelOp) (s : State) : Out :=
  computeWord 0x2F (.sel o) o.g false (some o.d) (fun c l =>
    let p := (c.wp.lane l).pred o.p
    let ws := copyWords c.wp (if p.val then o.a else o.b) o.pair l
    { words := ws.map fun x => { x with poison := x.poison || p.poison }, preds := [], fl := 0 }) s

end Sys2Proof.Machine
end

