-- ==== Sys2Proof/Machine/Pred.lean ====
section
/-! DEFINITION. Compares and predicate words, opcodes 0x60-0x66 (08 R195-R198). -/

namespace Sys2Proof.Machine

open Sys2Proof

/-- The integer comparison of a code (08 Table 8.14). -/
def icompare (cmp : Nat) (a b : Int) : Bool :=
  match cmp with
  | 0 => a == b
  | 1 => a != b
  | 2 => a < b
  | 3 => a ≤ b
  | 4 => b < a
  | _ => b ≤ a

/-- The combine of a comparison with pc (08 R195). -/
def combine (comb : BitVec 2) (c p : Bool) : Bool :=
  match comb.toNat with
  | 0 => c
  | 1 => c && p
  | 2 => c || p
  | _ => c != p

/-- The poison of a used pc. -/
def pcPoison (comb : BitVec 2) (p : PB) : Bool := comb != 0 && p.poison

/-- The comparison of two integer operands, 32- or 64-bit, and their poison. -/
def intCompare (wp : Warp) (u pair : Bool) (cmp : Nat) (a b : Reg) (l : Nat) : Bool × Bool :=
  if pair then
    (icompare cmp (readInt u (wp.pair a l).val) (readInt u (wp.pair b l).val), (wp.pair a l).poison || (wp.pair b l).poison)
  else (icompare cmp (readInt u (wp.reg a l).val) (readInt u (wp.reg b l).val), (wp.reg a l).poison || (wp.reg b l).poison)

/-- ISETP and NSETP. -/
def isetpLane (u : Bool) (o : SetpOp) (c : Ctx) (l : Nat) : LaneRes :=
  let (r, q) := intCompare c.wp u o.pair o.cmp.toNat o.a o.b l
  let p := (c.wp.lane l).pred o.pc
  resP o.pd (combine o.comb r p.val) (q || pcPoison o.comb p)

def execIsetp (o : SetpOp) (s : State) : Out := computeWord 0x60 (.isetp o) o.g false none (isetpLane false o) s
def execNsetp (o : SetpOp) (s : State) : Out := computeWord 0x61 (.nsetp o) o.g false none (isetpLane true o) s

def execFsetp (o : SetpOp) (s : State) : Out :=
  computeWord 0x62 (.fsetp o) o.g o.nf none (fun c l =>
    let a := c.wp.reg o.a l
    let b := c.wp.reg o.b l
    let (r, fl) := fcompare o.cmp.toNat a.val.toNat b.val.toNat
    let p := (c.wp.lane l).pred o.pc
    { resP o.pd (combine o.comb r p.val) (a.poison || b.poison || pcPoison o.comb p) with fl := fl }) s

/-- PLOP: the truth table of three predicates (08 R198). -/
def execPlop (o : PlopOp) (s : State) : Out :=
  computeWord 0x63 (.plop o) o.g false none (fun c l =>
    let a := (c.wp.lane l).pred o.pa
    let b := (c.wp.lane l).pred o.pb
    let x := (c.wp.lane l).pred o.pc
    resP o.pd (lutBit o.lut a.val b.val x.val) (a.poison || b.poison || x.poison)) s

/-- PMOV.get: bit k is pk, bit 7 is 1; poisoned when any of p0-p6 is. -/
def execPmovGet (o : PmovGetOp) (s : State) : Out :=
  computeWord 0x64 (.pmovGet o) o.g false (some (Reg.vec o.d)) (fun c l =>
    let ps := (List.range 7).map fun k => (c.wp.lane l).pred (BitVec.ofNat 3 k)
    res32 (BitVec.ofNat 32 (128 + boolsNat (ps.map (·.val)))) (ps.any (·.poison))) s

/-- PMOV.set: each predicate of the mask takes a's bit and poison. -/
def execPmovSet (o : PmovSetOp) (s : State) : Out :=
  computeWord 0x64 (.pmovSet o) o.g false none (fun c l =>
    let a := c.wp.reg o.a l
    { words := [], fl := 0,
      preds := ((List.range 7).filter fun k => o.mask.getLsbD k).map fun k =>
        (BitVec.ofNat 3 k, { val := a.val.getLsbD k, poison := a.poison }) }) s

def execFset (o : SetOp) (s : State) : Out :=
  computeWord 0x65 (.fset o) o.g o.nf (some o.d) (fun c l =>
    let a := c.wp.reg o.a l
    let b := c.wp.reg o.b l
    let (r, fl) := fcompare o.cmp.toNat a.val.toNat b.val.toNat
    let p := (c.wp.lane l).pred o.pc
    { res32 (if combine o.comb r p.val then 0x3F800000 else 0) (a.poison || b.poison || pcPoison o.comb p) with fl := fl }) s

def execIset (o : SetOp) (s : State) : Out :=
  computeWord 0x66 (.iset o) o.g false (some o.d) (fun c l =>
    let (r, q) := intCompare c.wp o.u o.pair o.cmp.toNat o.a o.b l
    let p := (c.wp.lane l).pred o.pc
    res32 (if combine o.comb r p.val then 0xFFFFFFFF else 0) (q || pcPoison o.comb p)) s

end Sys2Proof.Machine
end

