-- ==== Sys2Proof/Machine/CrossLane.lean ====
section
/-! DEFINITION. The cross-lane words, opcodes 0x70-0x7B (09 R213-R221). Every value is read before any lane is written. A moved value
carries its poison bit and its lane's poison origin. -/

namespace Sys2Proof.Machine

open Sys2Proof

/-- What a cross-lane word leaves in one lane: the result, and the origin that comes with it. -/
structure CrossRes where
  res    : LaneRes
  origin : Option VAddr
  deriving DecidableEq, Repr

/-- The lanes that take an origin with the value they receive (05 R112): none for a scalar destination, and none that traps and keeps its
destination. -/
def originLanes (wp : Warp) (nf : Bool) (d : Option Reg) (act : List Nat) (f : Nat → LaneRes) : List Nat :=
  if (d.map (·.s)).getD false then [] else act.filter fun i => !raises nf (f i).fl (wp.lane i).fpctl

/-- A cross-lane word over the active lanes (09 R213). -/
def crossWord (op : Nat) (i : Instr) (g : Guard) (nf : Bool) (d : Option Reg) (f : Ctx → List Nat → Nat → CrossRes)
    (s : State) : Out :=
  issueWord op i g (fun s c act _ =>
    let h (l : Nat) : LaneRes := (f c act l).res
    .done (s.modWarp c.r fun w =>
        (w.compute nf d (c.spoiled g) act [] h).mapLanes (originLanes w nf d act h) fun l x => x.takeOrigin (f c act l).origin)
      (c.wp.fpTraps nf act h) []) s

/-- One value, a word or a pair, of a source. -/
def copyReg (wp : Warp) (r : Reg) (pair : Bool) (l : Nat) : List PW := copyWords wp r pair l

/-- The poison of a copied value. -/
def anyPoison (ws : List PW) : Bool := ws.any (·.poison)

/-- The origin of the lowest-numbered lane that contributes a poisoned value (09 R213). -/
def lowestOrigin (wp : Warp) (lanes : List Nat) (poison : Nat → Bool) : Option VAddr :=
  (lanes.find? poison).bind fun l => (wp.lane l).origin

/-- The source lane of SHFL, none outside the segment (09 R215). -/
def shflSource (m : BitVec 2) (w : BitVec 3) (i : Nat) (b : W32) : Option Nat :=
  let sg := 2 ^ w.toNat
  let s := i / sg * sg
  let n := b.toNat
  match m.toNat with
  | 0 => some (s + n % sg)
  | 1 => some (s + (i - s + n) % sg)
  | 2 =>
    let j : Int := (i : Int) + b.toInt
    if j < s || (s + sg : Int) ≤ j then none else some j.toNat
  | _ => some (s + ((i - s) ^^^ (n % sg)))

def execShfl (o : ShflOp) (s : State) : Out :=
  crossWord 0x70 (.shfl o) o.g false (some (Reg.vec o.d)) (fun c act i =>
    let b := c.wp.reg o.b i
    let j := (shflSource o.m o.w i b.val).filter fun j => act.contains j
    let src := j.getD i
    let ws := (copyReg c.wp o.a o.pair src).map fun x => { x with poison := x.poison || b.poison }
    { res := { words := ws, preds := [(o.pc, { val := j.isSome, poison := b.poison })], fl := 0 },
      origin := if src = i then none else (c.wp.lane src).origin }) s

/-- QXCH and QBCAST write every lane of each quad that holds an active lane other than a helper, helpers included (09 R216). -/
def quadWord (op : Nat) (i : Instr) (o : QuadOp) (src : Nat → Nat) (s : State) : Out :=
  issueWord op i o.g (fun s c act hl =>
    let quads := quadsOf (maskOf act)
    let lanes := (act ++ hl).filter fun l => quads.getLsbD l
    let val (l : Nat) : List PW :=
      if (act ++ hl).contains (src l) then copyReg c.wp o.a o.pair (src l)
      else if o.pair then [poisonPW, poisonPW] else [poisonPW]
    let org (l : Nat) : Option VAddr :=
      if (act ++ hl).contains (src l) && src l != l then (c.wp.lane (src l)).origin else none
    .done (s.modWarp c.r fun w => w.mapLanes lanes fun l x => (x.setVs o.d.toNat (val l)).takeOrigin (org l)) [] []) s

def execQxch (o : QuadOp) (s : State) : Out := quadWord 0x71 (.qxch o) o (fun l => l ^^^ o.k.toNat) s
def execQbcast (o : QuadOp) (s : State) : Out := quadWord 0x72 (.qbcast o) o (fun l => l / 4 * 4 + o.k.toNat) s

/-- x(i) of a VOTE (09 R217). -/
def voteVal (c : Ctx) (pa : BitVec 3) (n : Bool) (i : Nat) : PB :=
  { val := ((c.wp.lane i).pred pa).val != n, poison := ((c.wp.lane i).pred pa).poison }

def execVote (o : VoteOp) (s : State) : Out :=
  crossWord 0x73 (.vote o) o.g false none (fun c act _ =>
    let x := voteVal c o.pa o.n
    let r := match o.op.toNat with
      | 0 => act.all fun i => (x i).val
      | 1 => act.any fun i => (x i).val
      | _ => act.all (fun i => (x i).val) || act.all (fun i => !(x i).val)
    { res := resP o.pd r (act.any fun i => (x i).poison), origin := lowestOrigin c.wp act fun i => (x i).poison }) s

/-- A lane mask as one word, or as a pair in a 64-wide warp (09 R213). -/
def maskWords (wide : Bool) (m : LaneMask) (poison : Bool) : List PW :=
  if wide then pairWords m poison else [{ val := m.extractLsb' 0 32, poison := poison }]

def execVoteBallot (o : BallotOp) (s : State) : Out :=
  crossWord 0x73 (.voteBallot o) o.g false (some o.d) (fun c act _ =>
    let x := voteVal c o.pa o.n
    { res := { words := maskWords o.pair (maskOf (act.filter fun i => (x i).val)) (act.any fun i => (x i).poison),
               preds := [], fl := 0 },
      origin := lowestOrigin c.wp act fun i => (x i).poison }) s

/-- The value of a lane for an integer reduction, as a 64-bit pattern of n bits, and its poison. -/
def redVal (c : Ctx) (o : ReduxOp) (i : Nat) : PW64 :=
  if o.pair then c.wp.pair o.a i else { val := (c.wp.reg o.a i).val.setWidth 64, poison := (c.wp.reg o.a i).poison }

/-- A pattern of the reduction's type as its value. -/
def redInt (o : ReduxOp) (x : W64) : Int :=
  if o.pair then readInt o.u x else readInt o.u (x.extractLsb' 0 32)

/-- The operation of REDUX and PREFIX on values, with add exact (09 R218). -/
def redOp (o : ReduxOp) (a b : Int) : Int :=
  let bits (x : Int) : W64 := BitVec.ofInt 64 x
  match o.op.toNat with
  | 0 => a + b
  | 1 => min a b
  | 2 => max a b
  | 3 => redInt o (bits a &&& bits b)
  | 4 => redInt o (bits a ||| bits b)
  | _ => redInt o (bits a ^^^ bits b)

/-- The identity of the operation. -/
def redId (o : ReduxOp) : Int :=
  let n := if o.pair then 64 else 32
  match o.op.toNat with
  | 1 => intMax o.u n
  | 2 => intMin o.u n
  | 3 => redInt o (BitVec.allOnes 64)
  | _ => 0

/-- A result of the reduction's width. -/
def redWords (o : ReduxOp) (x : Int) (poison : Bool) : List PW :=
  if o.pair then pairWords (narrow o.u o.sat 64 x) poison else [{ val := narrow o.u o.sat 32 x, poison := poison }]

def execRedux (o : ReduxOp) (s : State) : Out :=
  crossWord 0x74 (.redux o) o.g false (some o.d) (fun c act _ =>
    let vs := act.map fun i => redInt o (redVal c o i).val
    let x := match vs with
      | [] => redId o
      | v :: rest => rest.foldl (redOp o) v
    { res := { words := redWords o x (act.any fun i => (redVal c o i).poison), preds := [], fl := 0 },
      origin := lowestOrigin c.wp act fun i => (redVal c o i).poison }) s

/-- Wrapping of the running value of PREFIX to its type. -/
def redWrap (o : ReduxOp) (x : Int) : Int := redInt o (BitVec.ofInt 64 x)

/-- PREFIX folds the lanes up to and including, or before, each lane. -/
def execPrefixScan (o : ReduxOp) (s : State) : Out :=
  crossWord 0x79 (.prefixScan o) o.g false (some o.d) (fun c act i =>
    let before := act.filter fun j => if o.x then j < i else j ≤ i
    let x := before.foldl (fun acc j => redWrap o (redOp o acc (redInt o (redVal c o j).val))) (redId o)
    { res := { words := redWords o x (before.any fun j => (redVal c o j).poison), preds := [], fl := 0 },
      origin := lowestOrigin c.wp before fun j => (redVal c o j).poison }) s

/-- One combine of FREDUX. -/
def fredCombine (o : FreduxOp) (a b : Nat) : FRes :=
  match o.op.toNat with
  | 0 => faddV .f32 o.rm false (fval .f32 a) (fval .f32 b)
  | 1 => fminmax .f32 false a b
  | _ => fminmax .f32 true a b

/-- One level of the tree: neighbours combined, a single present node passed through (09 R219). -/
def fredLevel (o : FreduxOp) : List (Option FRes) → List (Option FRes)
  | some x :: some y :: l =>
    let r := fredCombine o x.bits y.bits
    some { r with fl := r.fl ||| x.fl ||| y.fl } :: fredLevel o l
  | some x :: none :: l => some x :: fredLevel o l
  | none :: y :: l => y :: fredLevel o l
  | [x] => [x]
  | [] => []

/-- The tree of the given number of levels. -/
def fredTree (o : FreduxOp) : Nat → List (Option FRes) → List (Option FRes)
  | 0, l => l
  | n + 1, l => fredTree o n (fredLevel o l)

def execFredux (o : FreduxOp) (s : State) : Out :=
  crossWord 0x75 (.fredux o) o.g o.nf (some o.d) (fun c act _ =>
    let leaf (i : Nat) : Option FRes :=
      if act.contains i then
        some { bits := (c.wp.reg o.a i).val.toNat, fl := if (f32 (c.wp.reg o.a i).val).isSig then flNV else 0 }
      else none
    let root := ((fredTree o 6 ((List.range 64).map leaf)).head?.join).getD { bits := 0, fl := 0 }
    let root := if (fval .f32 root.bits).isSig then { root with bits := Fmt.f32.nan } else root
    { res := resF root (act.any fun i => (c.wp.reg o.a i).poison),
      origin := lowestOrigin c.wp act fun i => (c.wp.reg o.a i).poison }) s

/-- The compared value of MATCH, as bits. -/
def matchVal (c : Ctx) (pair : Bool) (a : Reg) (i : Nat) : PW64 :=
  if pair then c.wp.pair a i else { val := (c.wp.reg a i).val.setWidth 64, poison := (c.wp.reg a i).poison }

def execMatchAny (o : MatchAnyOp) (s : State) : Out :=
  crossWord 0x76 (.matchAny o) o.g false (some (Reg.vec o.d)) (fun c act i =>
    let x := matchVal c o.pair o.a
    { res := { words := maskWords c.kern.wide (maskOf (act.filter fun j => (x j).val == (x i).val)) (act.any fun j => (x j).poison),
               preds := [], fl := 0 },
      origin := lowestOrigin c.wp act fun j => (x j).poison }) s

def execMatchAll (o : MatchAllOp) (s : State) : Out :=
  crossWord 0x76 (.matchAll o) o.g false none (fun c act i =>
    let x := matchVal c o.pair o.a
    { res := resP o.pd (act.all fun j => (x j).val == (x i).val) (act.any fun j => (x j).poison),
      origin := lowestOrigin c.wp act fun j => (x j).poison }) s

/-- ELECT: true in the lowest-numbered lane of Active. -/
def execElect (o : ElectOp) (s : State) : Out :=
  crossWord 0x77 (.elect o) o.g false none (fun _ act i =>
    { res := resP o.pd (act.head? == some i) false, origin := none }) s

/-- READLANE: lane b mod WIDTH; zero marked as poisoned when that lane is not in Active (09 R220). -/
def execReadlane (o : ReadLaneOp) (s : State) : Out :=
  crossWord 0x7A (.readlane o) o.g false (some o.d) (fun c act i =>
    let b := c.wp.src o.b i
    let j := b.val.toNat % c.kern.width
    let ws := if act.contains j then copyReg c.wp (Reg.vec o.a) o.pair j
              else if o.pair then [poisonPW, poisonPW] else [poisonPW]
    { res := { words := ws.map fun x => { x with poison := x.poison || b.poison }, preds := [], fl := 0 },
      origin := if act.contains j && j != i then (c.wp.lane j).origin else none }) s

/-- WRITELANE: the s-register value into d of lane b mod WIDTH when that lane is in Active. -/
def execWritelane (o : WriteLaneOp) (s : State) : Out :=
  issueWord 0x7B (.writelane o) o.g (fun s c act _ =>
    let b := c.wp.src o.b 0
    let j := b.val.toNat % c.kern.width
    let ws := (copyReg c.wp (Reg.sc o.a) o.pair 0).map fun x => { x with poison := x.poison || b.poison }
    .done (if act.contains j then s.modWarp c.r fun w => w.modLane j fun l => l.setVs o.d.toNat ws else s) [] []) s

end Sys2Proof.Machine
end

