-- ==== Sys2Proof/Machine/Hazard.lean ====
section
/-! DEFINITION. The register dependence a word can wait on: the status register of an ATTN card that has not completed (07 R162, 12 R289). -/

namespace Sys2Proof.Machine

open Sys2Proof

/-- Vector register n lies in a run of k registers from r. -/
def Reg.touches (n : Nat) (r : Reg) (k : Nat) : Bool := !r.s && r.n.toNat ≤ n && n < r.n.toNat + k

/-- An operand covers vector register n (07 R164). -/
def opndTouches (k : Kernel) (n : Nat) : Opnd → Bool
  | .word r => Reg.touches n r 1
  | .pair r => Reg.touches n r 2
  | .quad r => Reg.touches n r 4
  | .view _ => false
  | .acc _ => false
  | .coords b v => Reg.touches n b (k.view v).ncoord
  | .run r c => Reg.touches n r c

/-- A word may use vector register n; RDREG and WRREG name theirs by number. -/
def usesReg (k : Kernel) (n : Nat) (i : Instr) : Bool :=
  i.opnds.any (opndTouches k n) || (match i with | .rdreg _ => true | .wrreg _ => true | _ => false)

/-- The registers of a warp that ATTN cards have still to write. -/
def dueRegs (s : State) (r : WarpRef) : List Nat :=
  (s.cards.filter fun c => c.queued && c.op == 0xC0 && c.blk == r.b && c.warp == r.w).map (·.dest)

/-- The word waits for such a card (12 R289). -/
def stalled (s : State) (r : WarpRef) (k : Kernel) (i : Instr) : Bool := (dueRegs s r).any fun n => usesReg k n i

end Sys2Proof.Machine
end

