-- ==== Sys2Proof/Machine/Dispatch.lean ====
section
/-! DEFINITION. The dispatch: one arm per constructor of Instr, each one call of its meaning. -/

namespace Sys2Proof.Machine

open Sys2Proof

def exec (i : Instr) (s : State) : Host.Outcome State Fault Refusal :=
  match i with
  | .nop o => Sys2Proof.Machine.execNop o s
  | .iadd o => Sys2Proof.Machine.execIadd o s
  | .isub o => Sys2Proof.Machine.execIsub o s
  | .imul o => Sys2Proof.Machine.execImul o s
  | .imulh o => Sys2Proof.Machine.execImulh o s
  | .imulhn o => Sys2Proof.Machine.execImulhn o s
  | .imad o => Sys2Proof.Machine.execImad o s
  | .iadd3 o => Sys2Proof.Machine.execIadd3 o s
  | .imin o => Sys2Proof.Machine.execImin o s
  | .imax o => Sys2Proof.Machine.execImax o s
  | .nmin o => Sys2Proof.Machine.execNmin o s
  | .nmax o => Sys2Proof.Machine.execNmax o s
  | .iabs o => Sys2Proof.Machine.execIabs o s
  | .ineg o => Sys2Proof.Machine.execIneg o s
  | .iaddc o => Sys2Proof.Machine.execIaddc o s
  | .isubb o => Sys2Proof.Machine.execIsubb o s
  | .andw o => Sys2Proof.Machine.execAndw o s
  | .orw o => Sys2Proof.Machine.execOrw o s
  | .xorw o => Sys2Proof.Machine.execXorw o s
  | .notw o => Sys2Proof.Machine.execNotw o s
  | .lop3 o => Sys2Proof.Machine.execLop3 o s
  | .shl o => Sys2Proof.Machine.execShl o s
  | .shr o => Sys2Proof.Machine.execShr o s
  | .sar o => Sys2Proof.Machine.execSar o s
  | .rotl o => Sys2Proof.Machine.execRotl o s
  | .funnel o => Sys2Proof.Machine.execFunnel o s
  | .popc o => Sys2Proof.Machine.execPopc o s
  | .clz o => Sys2Proof.Machine.execClz o s
  | .ctz o => Sys2Proof.Machine.execCtz o s
  | .brev o => Sys2Proof.Machine.execBrev o s
  | .bfx o => Sys2Proof.Machine.execBfx o s
  | .bfi o => Sys2Proof.Machine.execBfi o s
  | .idiv o => Sys2Proof.Machine.execIdiv o s
  | .ndiv o => Sys2Proof.Machine.execNdiv o s
  | .irem o => Sys2Proof.Machine.execIrem o s
  | .nrem o => Sys2Proof.Machine.execNrem o s
  | .isad o => Sys2Proof.Machine.execIsad o s
  | .idot4 o => Sys2Proof.Machine.execIdot4 o s
  | .idot2 o => Sys2Proof.Machine.execIdot2 o s
  | .prmt o => Sys2Proof.Machine.execPrmt o s
  | .mov o => Sys2Proof.Machine.execMov o s
  | .movi o => Sys2Proof.Machine.execMovi o s
  | .movs o => Sys2Proof.Machine.execMovs o s
  | .smovv o => Sys2Proof.Machine.execSmovv o s
  | .iadd64 o => Sys2Proof.Machine.execIadd64 o s
  | .isub64 o => Sys2Proof.Machine.execIsub64 o s
  | .imul64 o => Sys2Proof.Machine.execImul64 o s
  | .sel o => Sys2Proof.Machine.execSel o s
  | .fadd o => Sys2Proof.Machine.execFadd o s
  | .fsub o => Sys2Proof.Machine.execFsub o s
  | .fmul o => Sys2Proof.Machine.execFmul o s
  | .ffma o => Sys2Proof.Machine.execFfma o s
  | .fmin o => Sys2Proof.Machine.execFmin o s
  | .fmax o => Sys2Proof.Machine.execFmax o s
  | .fabs o => Sys2Proof.Machine.execFabs o s
  | .fneg o => Sys2Proof.Machine.execFneg o s
  | .fdiv o => Sys2Proof.Machine.execFdiv o s
  | .fsqrt o => Sys2Proof.Machine.execFsqrt o s
  | .frcp o => Sys2Proof.Machine.execFrcp o s
  | .frsq o => Sys2Proof.Machine.execFrsq o s
  | .fexp2 o => Sys2Proof.Machine.execFexp2 o s
  | .flog2 o => Sys2Proof.Machine.execFlog2 o s
  | .fsin o => Sys2Proof.Machine.execFsin o s
  | .fcos o => Sys2Proof.Machine.execFcos o s
  | .ftanh o => Sys2Proof.Machine.execFtanh o s
  | .fclass o => Sys2Proof.Machine.execFclass o s
  | .fcopysign o => Sys2Proof.Machine.execFcopysign o s
  | .ffract o => Sys2Proof.Machine.execFfract o s
  | .fround o => Sys2Proof.Machine.execFround o s
  | .fscale o => Sys2Proof.Machine.execFscale o s
  | .fgetexp o => Sys2Proof.Machine.execFgetexp o s
  | .hadd2 o => Sys2Proof.Machine.execHadd2 o s
  | .hmul2 o => Sys2Proof.Machine.execHmul2 o s
  | .hfma2 o => Sys2Proof.Machine.execHfma2 o s
  | .hmin2 o => Sys2Proof.Machine.execHmin2 o s
  | .hmax2 o => Sys2Proof.Machine.execHmax2 o s
  | .hdot2 o => Sys2Proof.Machine.execHdot2 o s
  | .qdot4 o => Sys2Proof.Machine.execQdot4 o s
  | .cvtf2i o => Sys2Proof.Machine.execCvtf2i o s
  | .cvti2f o => Sys2Proof.Machine.execCvti2f o s
  | .cvtf2f o => Sys2Proof.Machine.execCvtf2f o s
  | .cvti2i o => Sys2Proof.Machine.execCvti2i o s
  | .pack o => Sys2Proof.Machine.execPack o s
  | .unpack o => Sys2Proof.Machine.execUnpack o s
  | .qnt8Scale o => Sys2Proof.Machine.execQnt8Scale o s
  | .qnt8 o => Sys2Proof.Machine.execQnt8 o s
  | .dqnt8 o => Sys2Proof.Machine.execDqnt8 o s
  | .isetp o => Sys2Proof.Machine.execIsetp o s
  | .nsetp o => Sys2Proof.Machine.execNsetp o s
  | .fsetp o => Sys2Proof.Machine.execFsetp o s
  | .plop o => Sys2Proof.Machine.execPlop o s
  | .pmovGet o => Sys2Proof.Machine.execPmovGet o s
  | .pmovSet o => Sys2Proof.Machine.execPmovSet o s
  | .fset o => Sys2Proof.Machine.execFset o s
  | .iset o => Sys2Proof.Machine.execIset o s
  | .shfl o => Sys2Proof.Machine.execShfl o s
  | .qxch o => Sys2Proof.Machine.execQxch o s
  | .qbcast o => Sys2Proof.Machine.execQbcast o s
  | .vote o => Sys2Proof.Machine.execVote o s
  | .voteBallot o => Sys2Proof.Machine.execVoteBallot o s
  | .redux o => Sys2Proof.Machine.execRedux o s
  | .fredux o => Sys2Proof.Machine.execFredux o s
  | .matchAny o => Sys2Proof.Machine.execMatchAny o s
  | .matchAll o => Sys2Proof.Machine.execMatchAll o s
  | .elect o => Sys2Proof.Machine.execElect o s
  | .prefixScan o => Sys2Proof.Machine.execPrefixScan o s
  | .readlane o => Sys2Proof.Machine.execReadlane o s
  | .writelane o => Sys2Proof.Machine.execWritelane o s
  | .bra o => Sys2Proof.Machine.execBra o s
  | .brx o => Sys2Proof.Machine.execBrx o s
  | .call o => Sys2Proof.Machine.execCall o s
  | .callx o => Sys2Proof.Machine.execCallx o s
  | .ret o => Sys2Proof.Machine.execRet o s
  | .join o => Sys2Proof.Machine.execJoin o s
  | .exitw o => Sys2Proof.Machine.execExitw o s
  | .trapw o => Sys2Proof.Machine.execTrapw o s
  | .brk o => Sys2Proof.Machine.execBrk o s
  | .yieldw o => Sys2Proof.Machine.execYieldw o s
  | .pause o => Sys2Proof.Machine.execPause o s
  | .openl o => Sys2Proof.Machine.execOpenl o s
  | .reopen o => Sys2Proof.Machine.execReopen o s
  | .recall o => Sys2Proof.Machine.execRecall o s
  | .flushl o => Sys2Proof.Machine.execFlushl o s
  | .ldl o => Sys2Proof.Machine.execLdl o s
  | .stl o => Sys2Proof.Machine.execStl o s
  | .atoml o => Sys2Proof.Machine.execAtoml o s
  | .lineq o => Sys2Proof.Machine.execLineq o s
  | .viewq o => Sys2Proof.Machine.execViewq o s
  | .pref o => Sys2Proof.Machine.execPref o s
  | .lds o => Sys2Proof.Machine.execLds o s
  | .sts o => Sys2Proof.Machine.execSts o s
  | .atoms o => Sys2Proof.Machine.execAtoms o s
  | .ldsmB64 o => Sys2Proof.Machine.execLdsmB64 o s
  | .ldsmB128 o => Sys2Proof.Machine.execLdsmB128 o s
  | .waita o => Sys2Proof.Machine.execWaita o s
  | .siga o => Sys2Proof.Machine.execSiga o s
  | .fence o => Sys2Proof.Machine.execFence o s
  | .bar o => Sys2Proof.Machine.execBar o s
  | .barbPost o => Sys2Proof.Machine.execBarbPost o s
  | .barbWait o => Sys2Proof.Machine.execBarbWait o s
  | .gbar o => Sys2Proof.Machine.execGbar o s
  | .waitf o => Sys2Proof.Machine.execWaitf o s
  | .send o => Sys2Proof.Machine.execSend o s
  | .ringadv o => Sys2Proof.Machine.execRingadv o s
  | .cpy o => Sys2Proof.Machine.execCpy o s
  | .cpyf o => Sys2Proof.Machine.execCpyf o s
  | .cpyp o => Sys2Proof.Machine.execCpyp o s
  | .cpyq o => Sys2Proof.Machine.execCpyq o s
  | .gset o => Sys2Proof.Machine.execGset o s
  | .engwait o => Sys2Proof.Machine.execEngwait o s
  | .mma o => Sys2Proof.Machine.execMma o s
  | .mmalease o => Sys2Proof.Machine.execMmalease o s
  | .mmadrain o => Sys2Proof.Machine.execMmadrain o s
  | .mmazero o => Sys2Proof.Machine.execMmazero o s
  | .attn o => Sys2Proof.Machine.execAttn o s
  | .kvappend o => Sys2Proof.Machine.execKvappend o s
  | .kvmap o => Sys2Proof.Machine.execKvmap o s
  | .kvrot o => Sys2Proof.Machine.execKvrot o s
  | .embg o => Sys2Proof.Machine.execEmbg o s
  | .embu o => Sys2Proof.Machine.execEmbu o s
  | .embswap o => Sys2Proof.Machine.execEmbswap o s
  | .emit o => Sys2Proof.Machine.execEmit o s
  | .launch o => Sys2Proof.Machine.execLaunch o s
  | .csrr o => Sys2Proof.Machine.execCsrr o s
  | .csrw o => Sys2Proof.Machine.execCsrw o s
  | .clock o => Sys2Proof.Machine.execClock o s
  | .rdreg o => Sys2Proof.Machine.execRdreg o s
  | .wrreg o => Sys2Proof.Machine.execWrreg o s
  | .tret o => Sys2Proof.Machine.execTret o s
  | .cinv o => Sys2Proof.Machine.execCinv o s
  | .haltb o => Sys2Proof.Machine.execHaltb o s
  | .resumeb o => Sys2Proof.Machine.execResumeb o s
  | .rdwreg o => Sys2Proof.Machine.execRdwreg o s
  | .wrwreg o => Sys2Proof.Machine.execWrwreg o s
  | .rdline o => Sys2Proof.Machine.execRdline o s
  | .drain0 o => Sys2Proof.Machine.execDrain0 o s
  | .drain1 o => Sys2Proof.Machine.execDrain1 o s
  | .callcv o => Sys2Proof.Machine.execCallcv o s
  | .clauseWaitPass e => Sys2Proof.Machine.execClauseWaitPass e s
  | .maskResolve w => Sys2Proof.Machine.execMaskResolve w s
  | .entryPromote e => Sys2Proof.Machine.execEntryPromote e s
  | .warpSwap out inn => Sys2Proof.Machine.execWarpSwap out inn s
  | .joinTimeout e => Sys2Proof.Machine.execJoinTimeout e s
  | .waitaTimeout e => Sys2Proof.Machine.execWaitaTimeout e s
  | .pauseExpire e => Sys2Proof.Machine.execPauseExpire e s
  | .capacityRetry e => Sys2Proof.Machine.execCapacityRetry e s
  | .regionEndComplete w => Sys2Proof.Machine.execRegionEndComplete w s
  | .watchdogWarp w => Sys2Proof.Machine.execWatchdogWarp w s
  | .watchdogEntry e => Sys2Proof.Machine.execWatchdogEntry e s
  | .trapDeliver w => Sys2Proof.Machine.execTrapDeliver w s
  | .contextFault ctx => Sys2Proof.Machine.execContextFault ctx s
  | .engineErrorDeliver w => Sys2Proof.Machine.execEngineErrorDeliver w s
  | .dergusTranslate die ctx va => Sys2Proof.Machine.execDergusTranslate die ctx va s
  | .pageWalk core ctx va acc => Sys2Proof.Machine.execPageWalk core ctx va acc s
  | .cinvComplete w => Sys2Proof.Machine.execCinvComplete w s
  | .cardEnqueueResume e => Sys2Proof.Machine.execCardEnqueueResume e s
  | .cardStart c => Sys2Proof.Machine.execCardStart c s
  | .cardComplete c => Sys2Proof.Machine.execCardComplete c s
  | .byteBarrierDelivery c n => Sys2Proof.Machine.execByteBarrierDelivery c n s
  | .cpyqBeatPush c => Sys2Proof.Machine.execCpyqBeatPush c s
  | .mainsailGrant core => Sys2Proof.Machine.execMainsailGrant core s
  | .sorrelHotMigrate ctx tid row into => Sys2Proof.Machine.execSorrelHotMigrate ctx tid row into s
  | .queueEnable q => Sys2Proof.Machine.execQueueEnable q s
  | .queueDisable q => Sys2Proof.Machine.execQueueDisable q s
  | .qtailWrite q v => Sys2Proof.Machine.execQtailWrite q v s
  | .qenergyRead q => Sys2Proof.Machine.execQenergyRead q s
  | .qenergyWrite q v => Sys2Proof.Machine.execQenergyWrite q v s
  | .registerWrite off v => Sys2Proof.Machine.execRegisterWrite off v s
  | .launchEntryTake q => Sys2Proof.Machine.execLaunchEntryTake q s
  | .blockPlace p => Sys2Proof.Machine.execBlockPlace p s
  | .gangReserve p => Sys2Proof.Machine.execGangReserve p s
  | .gangLendCutoff p => Sys2Proof.Machine.execGangLendCutoff p s
  | .gridComplete g => Sys2Proof.Machine.execGridComplete g s
  | .nodeFlushTimer ctx node => Sys2Proof.Machine.execNodeFlushTimer ctx node s
  | .preemptRequest pcmd0 pcmd1 => Sys2Proof.Machine.execPreemptRequest pcmd0 pcmd1 s
  | .blockRestore b => Sys2Proof.Machine.execBlockRestore b s
  | .pcfgCommit p => Sys2Proof.Machine.execPcfgCommit p s
  | .powerWindow p watts input cores mem => Sys2Proof.Machine.execPowerWindow p watts input cores mem s
  | .thermalThrottle mhz temp => Sys2Proof.Machine.execThermalThrottle mhz temp s
  | .idleEntry core => Sys2Proof.Machine.execIdleEntry core s
  | .idleExit core => Sys2Proof.Machine.execIdleExit core s
  | .coreSweep core ticket => Sys2Proof.Machine.execCoreSweep core ticket s
  | .shootComplete ticket => Sys2Proof.Machine.execShootComplete ticket s
  | .migrationCopyDone ticket => Sys2Proof.Machine.execMigrationCopyDone ticket s
  | .secfuseRaise authentic => Sys2Proof.Machine.execSecfuseRaise authentic s
  | .getMeasurements index => Sys2Proof.Machine.execGetMeasurements index s
  | .reset rom img => Sys2Proof.Machine.execReset rom img s
  | .frzsel sel => Sys2Proof.Machine.execFrzsel sel s
  | .scratchUe owner r lanes off => Sys2Proof.Machine.execScratchUe owner r lanes off s
  | .correctableError unit addr => Sys2Proof.Machine.execCorrectableError unit addr s
  | .hbmSectorUe pa => Sys2Proof.Machine.execHbmSectorUe pa s
  | .lineStoreUe b w line => Sys2Proof.Machine.execLineStoreUe b w line s
  | .registerUe b w lane num => Sys2Proof.Machine.execRegisterUe b w lane num s
  | .mainsailUe c tile => Sys2Proof.Machine.execMainsailUe c tile s
  | .translationParityError x => Sys2Proof.Machine.execTranslationParityError x s
  | .stayFlitRetry port => Sys2Proof.Machine.execStayFlitRetry port s
  | .linkTimeout c => Sys2Proof.Machine.execLinkTimeout c s
  | .stayRequestArrive port req => Sys2Proof.Machine.execStayRequestArrive port req s
  | .roceIncoming port ctx op => Sys2Proof.Machine.execRoceIncoming port ctx op s
  | .roceWorkRequest qp ctx w => Sys2Proof.Machine.execRoceWorkRequest qp ctx w s
  | .ucieDegrade modules => Sys2Proof.Machine.execUcieDegrade modules s
  | .illegalOpcode word => Sys2Proof.Machine.execIllegalOpcode word s
  | .chervilAnswer w => Sys2Proof.Machine.execChervilAnswer w s
  | .stayLinkUp port => Sys2Proof.Machine.execStayLinkUp port s
  | .shoot => Sys2Proof.Machine.execShoot s
  | .shootctx => Sys2Proof.Machine.execShootctx s
  | .migrate => Sys2Proof.Machine.execMigrate s
  | .promote => Sys2Proof.Machine.execPromote s
  | .badcmd => Sys2Proof.Machine.execBadcmd s
  | .freezePin => Sys2Proof.Machine.execFreezePin s
  | .freezeCounter => Sys2Proof.Machine.execFreezeCounter s
  | .idcode => Sys2Proof.Machine.execIdcode s
  | .bypass => Sys2Proof.Machine.execBypass s
  | .frzdata => Sys2Proof.Machine.execFrzdata s

end Sys2Proof.Machine
end

