-- ==== Sys2Proof/Machine/Turn.lean ====
section
/-! DEFINITION. The step of the module: time, the agenda of the agents' moves, the turn of a warp, the words of a clause, fused pairs and
freeze (02 R35, R45-R47, 24 R417, R418), and the placing of one word to be run. -/

namespace Sys2Proof.Machine

open Sys2Proof

/-! ## Time -/

/-- n cycles go by: what stands at a JOIN at the end of each is decided, and lanes that have all arrived go on at once (02 R43). -/
def runCycles (n : Nat) (s : State) : State := { s.decideJoins (s.cycle + n) with cycle := s.cycle + n }

/-- n cycles pass; the counter trigger freezes the module at its count (24 R417). -/
def passCycles (n : Nat) (s : State) : State :=
  if s.frz.arm && s.frz.fsrc.getLsbD 2 && s.cycle ≤ s.frz.fcnt.toNat && s.frz.fcnt.toNat ≤ s.cycle + n then
    freeze (runCycles (s.frz.fcnt.toNat - s.cycle) s) 4
  else runCycles n s

/-- A warp of a block that stands on its core. -/
def State.onCore (s : State) (r : WarpRef) : Bool := ((s.blocks[r.b]?).map fun k => k.place == .resident).getD false

/-- The warps of a warp's slot, itself among them. -/
def slotRefs (s : State) (r : WarpRef) : List WarpRef :=
  s.refs.filter fun q => s.onCore q && s.coreOf q.b == s.coreOf r.b && (s.warp? q).map (·.slot) == (s.warp? r).map (·.slot)

/-- A warp has a clause in progress. -/
def State.midClause (s : State) (r : WarpRef) : Bool := (s.warp? r).any fun w => w.cur.isSome

/-- The slot of a warp has issued a word in this cycle (02 R45). -/
def slotIssued (s : State) (r : WarpRef) : Bool := (slotRefs s r).any fun q => (s.warp? q).any fun w => w.issued == some s.cycle

/-- The time of one step (log 2): at least a cycle before the slot of the turn's warp issues again (02 R45). -/
def stepCycles (s : State) : Nat :=
  let n := Config.elapsed s.tick
  if s.agenda.isEmpty && slotIssued s s.turn then max 1 n else n

/-- The time of one step passes. -/
def advance (s : State) : State := { (passCycles (stepCycles s) s).noteReady.noteStays.noteCommands with tick := s.tick + 1 }

/-! ## Turns -/

/-- Another warp of the slot that has a clause in progress (02 R45); with the turn's clause in progress too, the other of a fused pair. -/
def partner? (s : State) (r : WarpRef) : Option WarpRef := (slotRefs s r).find? fun q => q != r && s.midClause q

/-- Another warp of the slot has a clause in progress (02 R45). -/
def slotBusy (s : State) (r : WarpRef) : Bool := (partner? s r).isSome

/-- The order of turns: by block, then by warp. -/
def WarpRef.follows (q r : WarpRef) : Bool := r.b < q.b || (r.b == q.b && r.w < q.w)

/-- The warp after another in the order of turns, and whether the order starts again; a warp that has left keeps its place in the order. -/
def nextTurn (rs : List WarpRef) (r : WarpRef) : WarpRef × Bool :=
  match rs.find? (WarpRef.follows · r) with
  | some x => (x, false)
  | none => (rs.headD r, true)

/-- The turn passes to the next warp, or back from a held access that went on (19 R351); when every warp has had one, the agents move (log 1). -/
def passTurn (s : State) : State :=
  match s.replays with
  | .back r :: xs => { s with turn := r, replays := xs }
  | _ =>
    let (r, again) := nextTurn (s.refs.filter s.onCore) s.turn
    if again then { s with turn := r, agenda := s.agenda ++ roundMoves s } else { s with turn := r }

/-- A warp could issue a word at its turn: it is active with a Runnable entry, or its clause is in progress. -/
def State.couldIssue (s : State) (r : WarpRef) : Bool := (s.warp? r).any fun w => w.cur.isSome || (s.going r.b && w.active && s.resolves r w)

/-- The later of two warps in the order of their last issues; of one cycle, the later in the order of turns. -/
def laterIssuer (s : State) (x : Option (WarpRef × Nat)) (q : WarpRef) : Option (WarpRef × Nat) :=
  match (s.warp? q).bind (·.issued), x with
  | some n, some y => if y.2 ≤ n then some (q, n) else x
  | some n, none => some (q, n)
  | none, _ => x

/-- The warp of a slot that issued last, among all that have stood there. -/
def lastIssuer (s : State) (r : WarpRef) : Option WarpRef :=
  ((s.refs.filter fun q => s.coreOf q.b == s.coreOf r.b && (s.warp? q).map (·.slot) == (s.warp? r).map (·.slot)).foldl (laterIssuer s) none).map (·.1)

/-- The warps of a slot in the order in which it takes them: those after the one that issued last come first (02 R45). -/
def slotOrder (s : State) (r : WarpRef) : List WarpRef :=
  match lastIssuer s r with
  | some q => (slotRefs s r).filter (WarpRef.follows · q) ++ (slotRefs s r).filter fun x => !WarpRef.follows x q
  | none => slotRefs s r

/-- The slot takes a warp next: no warp of the slot that could issue, but for `mate`, comes before it in round-robin order (02 R45). -/
def inTurn (s : State) (r mate : WarpRef) : Bool := ((slotOrder s r).takeWhile (· != r)).all fun q => q == mate || !s.couldIssue q

/-- The turn may go to a warp at once: its slot takes it next, and no held access goes on. -/
def mayChoose (s : State) (r mate : WarpRef) : Bool := s.replays.isEmpty && inTurn s r mate

/-! ## Words -/

/-- The next word of the clause in progress at the turn, with the state in which it is the word in hand. -/
def fetchNext (s : State) : Option (W64 × State) :=
  match s.ctx? with
  | none => none
  | some c =>
    match c.cur.code with
    | [] => none
    | w :: ws =>
      some (w, s.modWarp s.turn fun x =>
        { x with cur := x.cur.map fun k => { k with word := w, code := ws }, issued := some s.cycle })

/-- A word runs: the instruction it decodes to, or the trap of a word that is none (07 R170, R171). -/
def runWord (w : W64) (s : State) : Out :=
  match decodeWord w with
  | .ok i => exec i s
  | .error _ => badWord w false (s.predictBad w)

/-- The word waits for a register that a card has still to write. -/
def waitsForCard (s : State) (w : W64) : Bool :=
  match s.ctx?, decodeWord w with
  | some c, .ok i => stalled s c.r c.kern i
  | _, _ => false

/-- A clause set aside: its entry stands at the word it has not issued, and goes on with the clause as it was begun (18 R331). -/
def Warp.setAside (w : Warp) : Warp :=
  match w.cur with
  | none => w
  | some c =>
    { w with entries := w.entries.modify c.e fun e => { e with begun := some { hdr := c.hdr, hpc := c.hpc, start := e.pc, code := c.code } }, cur := none }

/-- A clause that does not go on for now. -/
def dropClause (s : State) (r : WarpRef) : State := s.modWarp r Warp.setAside

/-- The turn passes in the midst of a clause, by a free choice: warps of other slots issue between its words, and none of its own (02 R45, log 1). -/
def State.yieldsTurn (s : State) : Bool := s.replays.isEmpty && Config.yields s.tick

/-- After a word the frontier keeps sixteen entries (02 R36), and the warp goes on with its clause, unless the turn passes; it passes at the clause's end
(02 R45). -/
def afterWord (r : WarpRef) (o : Out) : Out :=
  match o with
  | .next s =>
    let s := rankWarp s r
    .next (if s.midClause r && !s.yieldsTurn then s else passTurn s)
  | x => x

/-- A warp at a clause boundary: what came about, then the clause of the entry it chooses (02 R35). -/
def boundary (s : State) (r : WarpRef) : State :=
  if !s.going r.b then passTurn s
  else
    let t := settle s r
    if !t.agenda.isEmpty || t.frz.frozen then t
    else
      let t := activate t r
      match t.warp? r with
      | none => passTurn t
      | some w =>
        if !w.active || slotBusy t r || !inTurn t r r then passTurn t
        else match w.choose with
          | some k => beginClause t r k
          | none => passTurn t

/-- The turn of a warp whose word waits for a card: the slot stalls, and the watchdog runs (02 R45, 21 R381); the clause of a halted block ends. -/
def stallTurn (s : State) (r : WarpRef) : State :=
  passTurn (if s.going r.b then watchEntries (watchWarp s r) r fun _ => true else dropClause s r)

/-! ## Fused pairs -/

/-- A warp's boundary in a fused pair: its clause begins beside that of the other warp of the slot. -/
def pairBegin (s : State) (r : WarpRef) : State :=
  match s.warp? r with
  | some w =>
    if w.cur.isSome || !s.going r.b then s
    else
      let t := activate (settle s r) r
      match (t.warp? r).bind Warp.choose with
      | some k => if ((t.warp? r).map (·.active)).getD false then beginClause t r k else s
      | none => s
  | none => s

/-- Two warps may issue their next words together, and with them the rest of the clause (02 R45, R47). -/
def mayFuse (a b : Ctx) : Bool :=
  a.r != b.r && a.r.b == b.r.b && a.wp.slot == b.wp.slot && !a.kern.wide && a.ent.pc == b.ent.pc && a.ent.mask &&& b.ent.mask == 0 &&
  a.cur.code == b.cur.code && (unpackHeader a.cur.hdr).cls != 1 && (unpackHeader b.cur.hdr).cls != 1 &&
  a.cur.code.all fun w => (wideWait (w.toNat / 2 ^ 56)).isNone

/-- One more fused word of a warp. -/
def Warp.noteFused (w : Warp) : Warp := { w with fuseCnt := w.fuseCnt + 1 }

/-- A word of a fused pair has run: the frontier keeps sixteen entries (02 R36). -/
def rankAfter (r : WarpRef) (o : Out) : Out :=
  match o with
  | .next s => .next (rankWarp s r)
  | x => x

/-- The next word of the warp at the turn. -/
def oneWord (s : State) : Out :=
  match fetchNext s with
  | none => .next s
  | some (x, t) => rankAfter s.turn (runWord x t)

/-- Both warps of a pair may issue the word that stands next, and neither waits for a card. -/
def pairReady (a b : WarpRef) (s : State) : Bool :=
  match ({ s with turn := a }).ctx?, ({ s with turn := b }).ctx? with
  | some x, some y =>
    let waits (r : WarpRef) : Bool := waitsForCard { s with turn := r } (x.cur.code.headD 0)
    mayFuse x y && !x.cur.code.isEmpty && !waits a && !waits b
  | _, _ => false

/-- The turn after a fused word: the pair goes on with its clause, one of them alone when the other's has ended; at the end of both it passes. -/
def afterPair (a b : WarpRef) (s : State) : State :=
  if (s.midClause a || s.midClause b) && s.yieldsTurn then passTurn { s with turn := a }
  else if s.midClause a then { s with turn := a } else if s.midClause b then { s with turn := b } else passTurn { s with turn := a }

/-- A fused word: for one warp, then for the other, and FUSECNT in each (02 R47). -/
def pairWord (a b : WarpRef) (s : State) : Out :=
  let s2 := (s.modWarp a Warp.noteFused).modWarp b Warp.noteFused
  match oneWord { s2 with turn := a } with
  | .next s3 => (match oneWord { s3 with turn := b } with
    | .next s4 => .next (afterPair a b s4)
    | o => o)
  | o => o

/-- A fused pair begins: the slot chooses the first warp, and the second, which stands at the same word, issues with it (02 R45, R47). A clause of a
third warp keeps it out, and so does a word that the slot has issued in this cycle. -/
def fuse (a b : WarpRef) (s : State) : Out :=
  let s1 := pairBegin (pairBegin s a) b
  if mayChoose s a b && !slotIssued s a && ((slotRefs s a).all fun q => q == a || q == b || !s.midClause q) && s1.agenda == s.agenda &&
    !s1.frz.frozen && pairReady a b s1 then pairWord a b s1 else .next s

/-- The next word of the clause in progress at the turn: alone, or with the other warp of a fused pair (02 R45, R47). -/
def clauseTurn (s : State) : Out :=
  let r := s.turn
  match fetchNext s with
  | none => .next (passTurn (dropClause s r))
  | some (x, t) =>
    match partner? s r with
    | none => if waitsForCard s x then .next (stallTurn s r) else afterWord r (runWord x t)
    | some q =>
      if pairReady r q s then pairWord r q s
      else if waitsForCard s x || waitsForCard { s with turn := q } x then .next (stallTurn s r)
      else afterWord r (runWord x t)

/-! ## The turn of a warp -/

/-- A warp has an error to take before it issues again (11 R267). -/
def State.errDue (s : State) (r : WarpRef) : Bool := s.going r.b && (s.warp? r).any Warp.errDue

/-- The turn of a warp: an error delivered, its own or that of the other warp of a fused pair; the next word of its clause, or its boundary. -/
def warpTurn (s : State) : Out :=
  let r := s.turn
  match s.warp? r with
  | none => .next (passTurn s)
  | some w =>
    if !s.onCore r then .next (passTurn s)
    else if s.errDue r then .next (deliverErr s r)
    else match w.cur, (partner? s r).filter s.errDue with
      | none, _ => .next (boundary s r)
      | some _, some q => .next (deliverErr s q)
      | some _, none => clauseTurn s

/-- The first held access that goes on, an entry's, begins its clause, and its warp has the turn until the clause ends (19 R351); none while its slot or
its warp has a clause in progress, or its warp must wait to enter the slot. -/
def beginReplay (s : State) (r : WarpRef) (m : LaneMask) (xs : List Replay) : Option State :=
  if !s.going r.b then some { s with replays := xs }
  else if slotBusy s r || s.midClause r then none
  else
    let t := settle (replayEntry { s with replays := xs } r m) r
    if !t.agenda.isEmpty || t.frz.frozen then some t
    else
      let t := activate t r
      match t.warp? r with
      | none => some t
      | some w =>
        match w.entries.findIdx? fun e => e.runs && (e.mask &&& m) != 0 with
        | none => some t
        | some k => if w.active then some { beginClause t r k with turn := r, replays := .back s.turn :: xs } else none

/-- What comes before the turn's warp when it has no clause in progress: the held accesses that go on, in their order (19 R351, log 49). -/
def replayTurn (s : State) : Option State :=
  if s.midClause s.turn then none
  else match s.replays with
    | [] => none
    | .back _ :: _ => some (passTurn s)
    | .card id :: xs => some (forceCard { s with replays := xs } id)
    | .fetch die ctx page :: xs => some (outState (execDergusTranslate die ctx page { s with replays := xs }) s)
    | .command ticket :: xs => some (retryCmd { s with replays := xs } ticket)
    | .outside place :: xs => some (retryAt { s with replays := xs } place)
    | .entry r m :: xs => beginReplay s r m xs
    | .finish ticket status :: xs => some (finishCmd { s with replays := xs } ticket status)

/-- The turn: a held access that goes on, or the turn of a warp. -/
def turnStep (s : State) : Out :=
  match replayTurn s with
  | some t => .next t
  | none => warpTurn s

/-! ## Moves -/

/-- A move of the agenda. Only a step of another agent runs as an event. -/
def runMove (m : Move) (s : State) : Out :=
  match m with
  | .event i => if i.fields.isNone then exec i s else .next s
  | .issue r => .next (if s.onCore r && !slotBusy s r && mayChoose s r r then { s with turn := r } else s)
  | .perform r k => .next (s.performOne r k)
  | .fused a b => fuse a b s
  | .preempt => .next (servePreempt s)
  | .inbox => .next (serveInbox s)
  | .boot => .next (bootStep s)
  | .cycles n => .next (passCycles n s)

/-- Moves that a frozen module takes: the test port, reset, and the registers that answer (24 R418). -/
def movesFrozen (m : Move) : Bool :=
  match m with
  | .event (.registerWrite off _) => answersFrozen off
  | .event (.reset _ _) => true
  | .event (.frzsel _) => true
  | .event .frzdata => true
  | .event .idcode => true
  | .event .bypass => true
  | _ => false

/-- A step of a frozen module: no time passes, and other moves are lost (24 R417, R418). -/
def frozenStep (s : State) : Out :=
  match s.agenda with
  | [] => .next s
  | m :: ms => if movesFrozen m then runMove m { s with agenda := ms } else .next { s with agenda := ms }

/-- A step of a module that runs: the first move of the agenda, else the turn of a warp. -/
def liveStep (s : State) : Out :=
  match s.agenda with
  | [] => turnStep s
  | m :: ms => runMove m { s with agenda := ms }

/-- A trigger of the freeze has fired: the next word of the clause in progress is still issued when the slot has not issued in this cycle, and a trap
that it raises is recorded with the other triggers (24 R417, log 22). Nothing is delivered. -/
def freezeCycle (s : State) : Out :=
  if s.onCore s.turn && s.midClause s.turn && !slotIssued s s.turn then
    match clauseTurn { s with frz := { s.frz with frozen := false } } with
    | .next t => .next { t with frz := { t.frz with frozen := true, fcause := t.frz.fcause ||| s.frz.fcause } }
    | o => o
  else .next s

/-- A move that froze the module; a word that did so was the one of its cycle. -/
def afterMove (moved : Bool) (o : Out) : Out :=
  match o with
  | .next t => if moved && t.frz.frozen then freezeCycle t else .next t
  | x => x

/-- One step of the module. -/
def stepModule (s : State) : Out :=
  if s.frz.frozen then frozenStep s
  else
    let t := advance s
    if t.frz.frozen then freezeCycle t else afterMove (!t.agenda.isEmpty) (liveStep t)

/-! ## One word placed -/

/-- The element type of the views a placed word finds: the size its opcode needs (05 Table 5.3). -/
def placedType (i : Instr) : BitVec 4 :=
  match i with
  | .lds o => (match o.sz.toNat with | 0 => 4 | 1 => 6 | 2 => 0 | _ => 2)
  | .sts o => (match o.sz.toNat with | 0 => 4 | 1 => 6 | 2 => 0 | _ => 2)
  | .atoms o => if o.pair then 6 else 4
  | .barbPost _ => 6
  | .barbWait _ => 6
  | _ => 4

/-- A view of scratchpad, or of memory for the words that bind lines. -/
def placedView (i : Instr) : View :=
  let mem := match i with | .openl _ => true | .reopen _ => true | _ => false
  { base := 0, rank := 1, etype := placedType i, space := if mem then 0 else 1, rd := true, wr := true, oobZero := false, bpmask := 0,
    ext := [1024], str := [1], peer := 0 }

/-- The kernel of a placed word: every register, view and tile exists. -/
def placedKernel (i : Instr) (priv : Bool) : Kernel :=
  { noKernel with
    obj := { va := 0, codeOff := 0, codeLen := 4096, khOff := 0, nkern := 1, secver := 0, stepping := Config.dieStepping, signed := false },
    nv := 256, wide := (match i with | .voteBallot o => o.pair | _ => false), nacc := 8, quota := 8,
    views := List.replicate 64 (placedView i), priv := priv }

/-- The class of a clause that may hold an opcode alone (07 Table 7.2). -/
def classFor (op : Nat) : Nat :=
  if op < 0x70 then 0 else if op < 0x80 then 1 else if op < 0x90 then 5 else if op < 0xB0 then 2 else if op < 0xD0 then 3 else 4

/-- The grid of a placed word. -/
def placedGrid (k : Kernel) : Grid :=
  { queue := 0, part := 0, index := 0, ctx := if k.priv then sysCtx else 0, kernel := k, gx := 1, gy := 1, gz := 1, threads := k.width, args := [],
    next := 1, status := .running, cpl := none, recorded := false, waits := [], fill := [], die := none, pends := [], waitAt := none, il := false,
    sysCtx := k.priv }

/-- A warp in a one-word clause whose word comes next. -/
def Warp.atWord (w : Warp) (word hdr : W64) : Warp :=
  { w with active := true,
           entries := w.entries.map fun e => { e with pc := 8, st := .runnable },
           cur := some { e := 0, hdr := hdr, hpc := 0, left := 1, word := 0, code := [word], stay := none } }

/-- The state with one word placed where the next step fetches it: a block of one warp on core 0 in a one-word clause that holds it
(log 6). -/
def placeWord (s : State) (word : W64) : State :=
  let i := match decodeWord word with | .ok i => i | .error _ => .illegalOpcode word
  let op := word.toNat / 2 ^ 56
  let g := placedGrid (placedKernel i (privileged op))
  let b := newBlock s s.grids.length g 0 0 [(0, 0, if g.kernel.wide then 1 else 0)] 0 0
  let hdr : W64 := BitVec.ofNat 64 (classFor op * 2 ^ 60)
  { s with grids := s.grids ++ [g], turn := { b := s.blocks.length, w := 0 }, agenda := [], replays := [], frz := { s.frz with frozen := false },
           blocks := s.blocks ++ [{ b with warps := b.warps.map fun w => w.atWord word hdr }] }

end Sys2Proof.Machine
end

