-- ==== Sys2Proof/Machine/Step.lean ====
section
/-! DEFINITION. The step function of the machine, and the placing of an instruction for the next step. -/

namespace Sys2Proof.Machine

open Sys2Proof

/-- One step of the module; what it does is `stepModule`. -/
def step (s : State) : Host.Outcome State Fault Refusal := stepModule s

/-- `s` with the instruction of `nbits` bits `w` where the next step fetches. -/
def State.withFetchWord (s : State) (nbits w : Nat) : State := placeWord s (BitVec.ofNat 64 (w % 2 ^ nbits))

end Sys2Proof.Machine
end

