-- ==== Sys2Proof/Safety.lean ====
section
/-! DEFINITION. The terms in which claims about the machine are stated: a word that issues normally, what it leaves of its warp, and the
invariants of the state. -/

namespace Sys2Proof.Machine

open Sys2Proof

/-! ## A word that issues -/

/-- OP of an instruction word (07 R164). -/
def opcodeOf (i : Instr) : Nat := (i.fields.map fun f => f.op.toNat).getD 0

/-- The guard of an instruction word (07 R164). -/
def guardOf (i : Instr) : Guard := (i.fields.map fun f => f.g).getD { neg := false, pred := 7 }

/-- Word `i` is in hand for a Runnable entry of the warp seen as `c`, and issues normally: a warp-wide word or quad word has its lanes together
(02 R41, R42), no selected lane has a poisoned guard, some lane is active (07 R165), and no check of 07 R171 fails. -/
structure Issues (s : State) (c : Ctx) (i : Instr) : Prop where
  ctx    : s.ctx? = some c
  runs   : c.ent.st = .runnable
  wide   : ∀ w, wideWait (opcodeOf i) = some w → c.together w = true
  guard  : c.guardPoisoned (guardOf i) = []
  active : c.active (guardOf i) ≠ []
  decode : c.decodeTrap (opcodeOf i) (fieldsOk i c.kern) = none

/-- The active lanes of a word. -/
def Ctx.lanesFor (c : Ctx) (i : Instr) : List Nat := c.active (guardOf i)

/-- The lowest active lane of a word. -/
def Ctx.first (c : Ctx) (i : Instr) : Nat := (c.lanesFor i).headD 0

/-! ## What a word leaves -/

/-- An entry but for its ages, which every issue of the warp moves (02 R37). -/
def Entry.ageless (e : Entry) : Entry := { e with age := 0, promoted := none, overflow := false }

/-- The entries that a word parts off the issuing one, in order: its trapping lanes, then the lanes that leave and do not trap. -/
def partedOff (c : Ctx) (now : Nat) (traps : List LaneTrap) (leaves : List Leave) : List Entry :=
  let t := c.ent.mask &&& maskOf (traps.map (·.lane))
  (if t = 0 then [] else [c.ent.split now { mask := t, pc := c.ent.pc, st := .trapParked traps c.cur.word }]) ++
    ((leaves.map (Leave.without t)).filter fun l => l.mask != 0).map (c.ent.partOff c.cur now)

/-- The lanes that a word parts off the issuing entry. -/
def partedMask (c : Ctx) (traps : List LaneTrap) (leaves : List Leave) : LaneMask :=
  let t := c.ent.mask &&& maskOf (traps.map (·.lane))
  ((leaves.map (Leave.without t)).filter fun l => l.mask != 0).foldl (fun m l => m ||| l.mask) t

/-- From warp `v` to warp `w` the lanes of the issuing entry of `c` that neither part off nor have retired go on to the next word, those that
part off form entries of their own, and every other entry stands as before. -/
structure Parts (c : Ctx) (now : Nat) (v w : Warp) (traps : List LaneTrap) (leaves : List Leave) : Prop where
  entry  : w.entries[c.cur.e]? =
    some { c.ent with pc := c.ent.pc + 8, mask := c.ent.mask &&& ~~~ (partedMask c traps leaves ||| v.retiredMask), retry := false }
  others : ∀ k, k < v.entries.length → k ≠ c.cur.e → (w.entries[k]?).map Entry.ageless = (v.entries[k]?).map Entry.ageless
  parted : w.entries.drop v.entries.length = partedOff c now traps leaves

/-- From warp `v` to warp `w` the issuing entry of `c` goes on to the next word, without the lanes that have retired; every other entry
stands as before. -/
structure GoesOn (c : Ctx) (v w : Warp) : Prop where
  entry  : w.entries[c.cur.e]? =
    some { c.ent with pc := c.ent.pc + 8, mask := c.ent.mask &&& ~~~ v.retiredMask, retry := false }
  others : ∀ k, k ≠ c.cur.e → (w.entries[k]?).map Entry.ageless = (v.entries[k]?).map Entry.ageless

/-- A warp but for its lanes, s-registers, entries, clause and issue record. -/
def Warp.rest (w : Warp) : Warp := { w with lanes := [], s := [], entries := [], cur := none, lastIssue := 0, promotions := 0 }

/-- `t` is `s` but for the issuing warp, which becomes `w`; `w` is `v` but for its lanes, s-registers, entries, clause and issue record. -/
structure WarpOnly (s t : State) (c : Ctx) (v w : Warp) : Prop where
  state  : t = s.modWarp c.r fun _ => w
  rest   : w.rest = v.rest
  issued : w.lastIssue = s.cycle

/-- A lane after a result: words from vector register `d` on, predicates, and the sticky flags when the word raises them. -/
def Lane.given (l : Lane) (d : Option Nat) (sticky : Bool) (x : LaneRes) : Lane :=
  { l with v := (match d with | some n => (l.setVs n x.words).v | none => l.v),
           p := (l.setPreds x.preds).p,
           flags := if sticky then l.flags ||| x.fl else l.flags }

/-- The result of a helper lane in the place of FP_EXCEPTION: poisoned zero (02 R44). -/
def LaneRes.spoil (x : LaneRes) : LaneRes :=
  { words := x.words.map fun _ => poisonPW, preds := x.preds.map fun p => (p.1, { val := false, poison := true }), fl := 0 }

/-- The destination is an s-register. -/
def scalarDest : Option Reg → Bool
  | some r => r.s
  | none => false

/-- The vector register a destination starts at. -/
def vectorDest : Option Reg → Option Nat
  | some r => if r.s then none else some r.n.toNat
  | none => none

/-- The s-registers after a word: only a scalar destination changes them. -/
def scalarsAfter (wp : Warp) (d : Option Reg) (ws : List PW) : List PW :=
  match d with
  | some q => if q.s then (wp.setSs q.n.toNat ws).s else wp.s
  | none => wp.s

/-- Lane `l` of `w` is lane `l` of `v` changed by `f`. -/
def LaneIs (v w : Warp) (l : Nat) (f : Lane → Lane) : Prop := w.lanes[l]? = (v.lanes[l]?).map f

/-- The active lane whose result a scalar destination takes; a free choice where the results differ (07 R169, log 54). -/
def Ctx.decides (c : Ctx) (i : Instr) (r : Nat → LaneRes) : Nat := scalarLane (c.lanesFor i) fun l => (r l).words

/-- A computing word has run: every active lane holds its result `r` in destination `d`, a scalar destination holds that of one active
lane, helper lanes have computed on their own registers, and nothing else has changed (07 R169, 08 R176, 02 R44). -/
structure Computed (s t : State) (c : Ctx) (i : Instr) (d : Option Reg) (nf : Bool) (r : Nat → LaneRes) (w : Warp) : Prop where
  only    : WarpOnly s t c c.wp w
  entry   : GoesOn c c.wp w
  active  : ∀ l ∈ c.lanesFor i, LaneIs c.wp w l fun x => x.given (vectorDest d) (!nf) (r l)
  helpers : ∀ l ∈ c.helpers, LaneIs c.wp w l fun x =>
    x.given (vectorDest d) false (if raises nf (r l).fl x.fpctl then (r l).spoil else r l)
  others  : ∀ l, l ∉ c.lanesFor i → l ∉ c.helpers → w.lanes[l]? = c.wp.lanes[l]?
  scalars : w.s = scalarsAfter c.wp d (r (c.decides i r)).words

/-- Word `i` completes as a computing word. -/
def Gives (s : State) (c : Ctx) (i : Instr) (d : Option Reg) (nf : Bool) (r : Nat → LaneRes) : Prop :=
  ∃ t w, exec i s = .next t ∧ Computed s t c i d nf r w

/-- No active lane raises an enabled floating flag (04 R82). -/
def Calm (c : Ctx) (i : Instr) (nf : Bool) (r : Nat → LaneRes) : Prop :=
  ∀ l ∈ c.lanesFor i, raises nf (r l).fl (c.wp.lane l).fpctl = false

/-- Word `i` completes as a floating word when no active lane raises an enabled flag. -/
def GivesCalm (s : State) (c : Ctx) (i : Instr) (d : Option Reg) (nf : Bool) (r : Nat → LaneRes) : Prop :=
  Calm c i nf r → Gives s c i d nf r

/-- The traps of the active lanes that raise an enabled flag: TFAUX holds the flags raised (04 R82). -/
def fpTrapsOf (c : Ctx) (i : Instr) (nf : Bool) (r : Nat → LaneRes) : List LaneTrap :=
  ((c.lanesFor i).filter fun l => raises nf (r l).fl (c.wp.lane l).fpctl).map fun l => fpTrap l (r l).fl

/-- A floating word some lanes of which raise an enabled flag has run (04 R82): those lanes keep their destination, gain the flags and part
off at the word with FP_EXCEPTION; the other active lanes hold their results; a scalar destination keeps its value. -/
structure Excepted (s t : State) (c : Ctx) (i : Instr) (d : Option Reg) (nf : Bool) (r : Nat → LaneRes) (w : Warp) : Prop where
  state   : t = (s.modWarp c.r fun _ => w).freezeOn (fpTrapsOf c i nf r)
  rest    : w.rest = c.wp.rest
  parts   : Parts c s.cycle c.wp w (fpTrapsOf c i nf r) []
  active  : ∀ l ∈ c.lanesFor i, LaneIs c.wp w l fun x =>
    if raises nf (r l).fl x.fpctl then { x with flags := x.flags ||| (r l).fl } else x.given (vectorDest d) (!nf) (r l)
  others  : ∀ l, l ∉ c.lanesFor i → l ∉ c.helpers → w.lanes[l]? = c.wp.lanes[l]?
  scalars : w.s = c.wp.s

/-- Word `i` runs with the lanes that raise an enabled flag parted off. -/
def Excepts (s : State) (c : Ctx) (i : Instr) (d : Option Reg) (nf : Bool) (r : Nat → LaneRes) : Prop :=
  ¬ Calm c i nf r → ∃ t w, exec i s = .next t ∧ Excepted s t c i d nf r w

/-- A word that changes lanes and s-registers of its warp has run: lane `l` is changed by `f l`, the s-registers are `ss`, the entry goes on,
and nothing else has changed. -/
structure Edited (s t : State) (c : Ctx) (f : Nat → Lane → Lane) (ss : List PW) (w : Warp) : Prop where
  only    : WarpOnly s t c c.wp w
  entry   : GoesOn c c.wp w
  lanes   : ∀ l, LaneIs c.wp w l (f l)
  scalars : w.s = ss

/-- Word `i` completes and edits its warp. -/
def Edits (s : State) (c : Ctx) (i : Instr) (f : Nat → Lane → Lane) (ss : List PW) : Prop :=
  ∃ t w, exec i s = .next t ∧ Edited s t c f ss w

/-- A cross-lane word completes: each active lane holds its result and, when its own origin is clear, the origin that comes with a value into it
(05 R112, 09 R213); a scalar destination leaves the origins alone, and every other lane keeps its registers. -/
def Crosses (s : State) (c : Ctx) (i : Instr) (d : Option Reg) (nf : Bool) (r : Nat → LaneRes) (org : Nat → Option VAddr) : Prop :=
  Edits s c i
    (fun l x => if l ∈ c.lanesFor i then { x.given (vectorDest d) (!nf) (r l) with origin := if scalarDest d then x.origin else x.origin.or (org l) } else x)
    (scalarsAfter c.wp d (r (c.decides i r)).words)

/-- The origin of the lowest of some lanes whose value is poisoned (09 R213). -/
def firstOrigin (c : Ctx) (ls : List Nat) (bad : Nat → Bool) : Option VAddr :=
  match ls.filter bad with
  | [] => none
  | l :: _ => (c.wp.lane l).origin

/-! ## A word and the state its effect leaves -/

/-- `o` is the end of a word whose effect left the state `u`, in which the issuing entry then goes on, with the lanes that trap and those that
leave parted off, and nothing else changes. -/
def EndsAs (o : Out) (c : Ctx) (u : State) (traps : List LaneTrap) (leaves : List Leave) : Prop :=
  ∃ v w, u.warp? c.r = some v ∧ o = .next ((u.modWarp c.r fun _ => w).freezeOn traps) ∧
    w.rest = v.rest ∧ w.lanes = v.lanes ∧ w.s = v.s ∧ w.lastIssue = u.cycle ∧ Parts c u.cycle v w traps leaves

/-- Word `i` completes and leaves `u`, with `traps` and `leaves` parted off. -/
def Ends (s : State) (c : Ctx) (i : Instr) (u : State) (traps : List LaneTrap) (leaves : List Leave) : Prop :=
  EndsAs (exec i s) c u traps leaves

/-- The lanes of a list grouped by target, one group per target, targets ascending (09 R203, R208). -/
structure Grouped (ls : List Nat) (target : Nat → W64) (leaves : List Leave) : Prop where
  masks  : ∀ x ∈ leaves, x.mask = maskOf (ls.filter fun l => target l == x.pc)
  rising : leaves.Pairwise fun x y => x.pc < y.pc
  every  : ∀ l ∈ ls, ∃ x ∈ leaves, x.pc = target l
  only   : ∀ x ∈ leaves, ∃ l ∈ ls, x.pc = target l

/-! ## Accesses -/

/-- Lane `l` reaches a line whose copy its warp holds pinned: bound as `b`, the copy of home line `home` present, fresh and registered in the region
(05 R100, 06 R127). -/
structure Pinned (c : Ctx) (l : Nat) (ln : BitVec 3) (b : Bind) (line : VAddr) (home : PAddr) (write : Bool) : Prop where
  bind : (c.wp.lane l).bind ln = b
  held : ∃ h, c.wp.held? line = some h ∧ h.pinned = true ∧ h.parked = false ∧ h.stale = false ∧ h.lost = false ∧ h.home = home
  regd : c.wp.registered home write = true

/-- Lane `l` reaches `size` bytes at `pa` through a line bound as `b` in mode .S: translated with the rights it needs, no conflict whatever memory
holds, no dirty byte of the warp's own on the line, no marked sector (10 R232). -/
structure Synced (s : State) (c : Ctx) (l : Nat) (ln : BitVec 3) (b : Bind) (line : VAddr) (off size : Nat) (wr : Bool) (pa : PAddr) :
    Prop where
  bind  : (c.wp.lane l).bind ln = b
  held  : ∃ h, c.wp.held? line = some h ∧ h.parked = false ∧ h.lost = false
  own   : ∃ w, s.warp? c.r = some w ∧ (∃ h, w.held? line = some h ∧ h.lost = false) ∧ w.lanes = c.wp.lanes ∧ w.s = c.wp.s ∧
    ∀ h ∈ w.held, h.pinned = true → h.home = lineOf pa → h.dirty = 0
  home  : ∃ x, s.cached { core := c.blk.core, lane := some (c.r, l) } c.grid.ctx (elemAt line off) = some x ∧ x.addr (elemAt line off) = pa ∧
    x.rd = true ∧ (wr = true → x.wr = true)
  reach : s.unreachable c.grid.ctx pa = false
  calm  : ∀ m d, ({ s with mem := m, bad := d } : State).conflict c.r (lineOf pa) wr true = none
  sound : s.badRange pa size = false

/-- The core's part of an .S access to `pa`: before a read the warp's own earlier stores to the line are performed, and a write marks its pinned copies
stale (06 R123, R139). -/
def State.reaches (u : State) (r : WarpRef) (pa : PAddr) (rd wr : Bool) : State :=
  let t := if rd then u.performBy r (PendStore.on (lineOf pa)) else u
  if wr then t.modWarp r (·.modHome (lineOf pa) HeldLine.markStale) else t

/-! ## Reductions -/

/-- The operations of REDUX and PREFIX on n-bit patterns (09 R218). -/
def foldOp {n : Nat} (u : Bool) (op : BitVec 3) (x y : BitVec n) : BitVec n :=
  if op = 0 then x + y
  else if op = 1 then (if readInt u y < readInt u x then y else x)
  else if op = 2 then (if readInt u x < readInt u y then y else x)
  else if op = 3 then x &&& y
  else if op = 4 then x ||| y
  else x ^^^ y

/-- Their identities (09 R218). -/
def foldId (n : Nat) (u : Bool) (op : BitVec 3) : BitVec n :=
  if op = 1 then (if u then BitVec.allOnes n else BitVec.ofInt n (2 ^ (n - 1) - 1))
  else if op = 2 then (if u then 0 else BitVec.ofInt n (-2 ^ (n - 1)))
  else if op = 3 then BitVec.allOnes n
  else 0

/-- Node i of level k of FREDUX's tree over leaves (09 R219). -/
def treeNode (comb : FRes → FRes → FRes) (leaf : Nat → Option FRes) : Nat → Nat → Option FRes
  | 0, i => leaf i
  | k + 1, i =>
    match treeNode comb leaf k (2 * i), treeNode comb leaf k (2 * i + 1) with
    | some x, some y => some (comb x y)
    | some x, none => some x
    | none, y => y

/-! ## Sources -/

/-- A 32-bit source register in a lane, and its poison bit. -/
def Ctx.val (c : Ctx) (r : Reg) (l : Nat) : W32 := (c.wp.reg r l).val
def Ctx.bad (c : Ctx) (r : Reg) (l : Nat) : Bool := (c.wp.reg r l).poison
/-- A 32-bit source that may be IMM32. -/
def Ctx.srcVal (c : Ctx) (b : Src) (l : Nat) : W32 := (c.wp.src b l).val
def Ctx.srcBad (c : Ctx) (b : Src) (l : Nat) : Bool := (c.wp.src b l).poison
/-- A pair. -/
def Ctx.pairVal (c : Ctx) (r : Reg) (l : Nat) : W64 := (c.wp.pair r l).val
def Ctx.pairBad (c : Ctx) (r : Reg) (l : Nat) : Bool := (c.wp.pair r l).poison
/-- A 64-bit source that may be IMM32. -/
def Ctx.src64Val (c : Ctx) (b : Src) (l : Nat) : W64 := (c.wp.src64 b l).val
def Ctx.src64Bad (c : Ctx) (b : Src) (l : Nat) : Bool := (c.wp.src64 b l).poison
/-- A predicate in a lane. -/
def Ctx.predVal (c : Ctx) (p : BitVec 3) (l : Nat) : Bool := ((c.wp.lane l).pred p).val
def Ctx.predBad (c : Ctx) (p : BitVec 3) (l : Nat) : Bool := ((c.wp.lane l).pred p).poison

/-- Narrowing to an n-bit type: clamped to its range under SAT, else modulo 2^n (08 R180). -/
def narrowed (u sat : Bool) (n : Nat) (x : Int) : BitVec n :=
  if !sat then BitVec.ofInt n x
  else if u then (if x < 0 then 0 else if 2 ^ n ≤ x then BitVec.allOnes n else BitVec.ofInt n x)
  else if x < -2 ^ (n - 1) then BitVec.ofInt n (-2 ^ (n - 1))
  else if 2 ^ (n - 1) ≤ x then BitVec.ofInt n (2 ^ (n - 1) - 1)
  else BitVec.ofInt n x

/-! ## What every step keeps -/

/-- Every memory of the module keeps its canonical form, and the registers of the module stay in the ranges their rules give them: WDLIM (21 R382),
LTO, FCLK and BOOT (24 R408), PDUTY (20 R368) and the security fuses (18 R329). -/
structure Inv (s : State) : Prop where
  mem     : Memory.wf s.mem = true
  scratch : ∀ b ∈ s.blocks, Memory.wf b.bytes = true
  fills   : ∀ g ∈ s.grids, Memory.wf g.fill = true
  wdlim   : ∀ d ∈ s.dies, d.wdlim = 0 ∨ (20 ≤ d.wdlim.toNat ∧ d.wdlim.toNat ≤ 40)
  lto     : 10 ≤ s.mstat.lto.toNat ∧ s.mstat.lto.toNat ≤ 100000
  fclk    : s.mstat.fclk.toNat ≤ 3300
  boot    : s.mstat.boot.toNat ≤ 4
  duty    : ∀ p ∈ s.parts, 1 ≤ p.duty.toNat ∧ p.duty.toNat ≤ 64
  fuses   : s.fuses ≤ 128

end Sys2Proof.Machine
end

