-- ==== Sys2Proof/Certificates/Slice0/Obligations.lean ====
section
/-! DEFINITION. The statements about the machine. -/

open Sys2Proof Sys2Proof.Machine

/-! ## Integer and move words (08 R179-R184) -/

/-- 08 R180 (Table 8.2): IADD, ISUB, IADD3, IMAD, IABS, INEG, ISAD, IDOT4, IDOT2, IADD64 and ISUB64 compute an exact value and narrow it. The
result is poisoned when a source is; the frame is that of `Computed`. 08 R180: IMUL, IMULH, IMULHN and IMUL64 deliver bits of the product; IMIN and IMAX compare as INT32, NMIN and NMAX as UINT32. -/
def Obligations.IntegerArithmetic : Prop :=
  (∀ (s : State) (c : Ctx),
     (∀ o, Issues s c (.iadd o) → Gives s c (.iadd o) (some o.d) false fun l =>
       res32 (narrowed o.u o.sat 32 (readInt o.u (c.val o.a l) + readInt o.u (c.srcVal o.b l))) (c.bad o.a l || c.srcBad o.b l)) ∧
     (∀ o, Issues s c (.isub o) → Gives s c (.isub o) (some o.d) false fun l =>
       res32 (narrowed o.u o.sat 32 (readInt o.u (c.val o.a l) - readInt o.u (c.srcVal o.b l))) (c.bad o.a l || c.srcBad o.b l)) ∧
     (∀ o, Issues s c (.iadd3 o) → Gives s c (.iadd3 o) (some o.d) false fun l =>
       res32 (narrowed o.u o.sat 32 (readInt o.u (c.val o.a l) + readInt o.u (c.val o.b l) + readInt o.u (c.val o.c l)))
         (c.bad o.a l || c.bad o.b l || c.bad o.c l)) ∧
     (∀ o, Issues s c (.imad o) → Gives s c (.imad o) (some o.d) false fun l =>
       res32 (narrowed o.u o.sat 32 (readInt o.u (c.val o.a l) * readInt o.u (c.val o.b l) + readInt o.u (c.val o.c l)))
         (c.bad o.a l || c.bad o.b l || c.bad o.c l)) ∧
     (∀ o, Issues s c (.iabs o) → Gives s c (.iabs o) (some o.d) false fun l =>
       res32 (narrowed false o.sat 32 |(c.val o.a l).toInt|) (c.bad o.a l)) ∧
     (∀ o, Issues s c (.ineg o) → Gives s c (.ineg o) (some o.d) false fun l =>
       res32 (narrowed false o.sat 32 (-(c.val o.a l).toInt)) (c.bad o.a l)) ∧
     (∀ o, Issues s c (.isad o) → Gives s c (.isad o) (some o.d) false fun l =>
       res32 (narrowed o.u o.sat 32 (|readInt o.u (c.val o.a l) - readInt o.u (c.val o.b l)| + readInt o.u (c.val o.c l)))
         (c.bad o.a l || c.bad o.b l || c.bad o.c l)) ∧
     (∀ o, Issues s c (.idot4 o) → Gives s c (.idot4 o) (some o.d) false fun l =>
       let ea (k : Nat) : Int := readInt o.u ((c.val o.a l).extractLsb' (8 * k) 8)
       let eb (k : Nat) : Int := readInt o.u1 ((c.val o.b l).extractLsb' (8 * k) 8)
       res32 (narrowed (o.u && o.u1) o.sat 32
           (readInt (o.u && o.u1) (c.val o.c l) + ea 0 * eb 0 + ea 1 * eb 1 + ea 2 * eb 2 + ea 3 * eb 3))
         (c.bad o.a l || c.bad o.b l || c.bad o.c l)) ∧
     (∀ o, Issues s c (.idot2 o) → Gives s c (.idot2 o) (some o.d) false fun l =>
       let ea (k : Nat) : Int := readInt o.u ((c.val o.a l).extractLsb' (16 * k) 16)
       let eb (k : Nat) : Int := readInt o.u1 ((c.val o.b l).extractLsb' (16 * k) 16)
       res32 (narrowed (o.u && o.u1) o.sat 32 (readInt (o.u && o.u1) (c.val o.c l) + ea 0 * eb 0 + ea 1 * eb 1))
         (c.bad o.a l || c.bad o.b l || c.bad o.c l)) ∧
     (∀ o, Issues s c (.iadd64 o) → Gives s c (.iadd64 o) (some o.d) false fun l =>
       res64 (narrowed o.u o.sat 64 (readInt o.u (c.pairVal o.a l) + readInt o.u (c.src64Val o.b l)))
         (c.pairBad o.a l || c.src64Bad o.b l)) ∧
     (∀ o, Issues s c (.isub64 o) → Gives s c (.isub64 o) (some o.d) false fun l =>
       res64 (narrowed o.u o.sat 64 (readInt o.u (c.pairVal o.a l) - readInt o.u (c.src64Val o.b l)))
         (c.pairBad o.a l || c.src64Bad o.b l))) ∧
  (∀ (s : State) (c : Ctx),
     (∀ o, Issues s c (.imul o) → Gives s c (.imul o) (some o.d) false fun l =>
       res32 (BitVec.ofNat 32 ((c.val o.a l).toNat * (c.srcVal o.b l).toNat)) (c.bad o.a l || c.srcBad o.b l)) ∧
     (∀ o, Issues s c (.imulh o) → Gives s c (.imulh o) (some o.d) false fun l =>
       res32 (BitVec.ofInt 32 ((c.val o.a l).toInt * (c.srcVal o.b l).toInt / 2 ^ 32)) (c.bad o.a l || c.srcBad o.b l)) ∧
     (∀ o, Issues s c (.imulhn o) → Gives s c (.imulhn o) (some o.d) false fun l =>
       res32 (BitVec.ofNat 32 ((c.val o.a l).toNat * (c.srcVal o.b l).toNat / 2 ^ 32)) (c.bad o.a l || c.srcBad o.b l)) ∧
     (∀ o, Issues s c (.imul64 o) → Gives s c (.imul64 o) (some o.d) false fun l =>
       res64 (BitVec.ofNat 64 ((c.pairVal o.a l).toNat * (c.src64Val o.b l).toNat)) (c.pairBad o.a l || c.src64Bad o.b l)) ∧
     (∀ o, Issues s c (.imin o) → Gives s c (.imin o) (some o.d) false fun l =>
       res32 (if (c.srcVal o.b l).toInt < (c.val o.a l).toInt then c.srcVal o.b l else c.val o.a l) (c.bad o.a l || c.srcBad o.b l)) ∧
     (∀ o, Issues s c (.imax o) → Gives s c (.imax o) (some o.d) false fun l =>
       res32 (if (c.srcVal o.b l).toInt < (c.val o.a l).toInt then c.val o.a l else c.srcVal o.b l) (c.bad o.a l || c.srcBad o.b l)) ∧
     (∀ o, Issues s c (.nmin o) → Gives s c (.nmin o) (some o.d) false fun l =>
       res32 (if c.srcVal o.b l < c.val o.a l then c.srcVal o.b l else c.val o.a l) (c.bad o.a l || c.srcBad o.b l)) ∧
     (∀ o, Issues s c (.nmax o) → Gives s c (.nmax o) (some o.d) false fun l =>
       res32 (if c.srcVal o.b l < c.val o.a l then c.val o.a l else c.srcVal o.b l) (c.bad o.a l || c.srcBad o.b l)))

/-- 08 R181: IADDC adds the carry of pin and puts the carry into pout; ISUBB takes pin as "no borrow" and gives it on. A poisoned pin poisons both
results. 08 R182: IDIV, NDIV, IREM and NREM use truncated division; a zero divisor gives 0xFFFFFFFF and the dividend, and -2^31 by -1 gives -2^31
and 0. -/
def Obligations.CarriesAndDivisions : Prop :=
  (∀ (s : State) (c : Ctx) (o : Carry),
     let ci (l : Nat) : Nat := if c.predVal o.pin l then 1 else 0
     let q (l : Nat) : Bool := c.bad o.a l || c.bad o.b l || c.predBad o.pin l
     (Issues s c (.iaddc o) → Gives s c (.iaddc o) (some o.d) false fun l =>
       let x : Nat := (c.val o.a l).toNat + (c.val o.b l).toNat + ci l
       { words := [{ val := BitVec.ofNat 32 (x % 2 ^ 32), poison := q l }],
         preds := [(o.pout, { val := 2 ^ 32 ≤ x, poison := q l })], fl := 0 }) ∧
     (Issues s c (.isubb o) → Gives s c (.isubb o) (some o.d) false fun l =>
       { words := [{ val := BitVec.ofInt 32 ((c.val o.a l).toNat - (c.val o.b l).toNat - (1 - ci l)), poison := q l }],
         preds := [(o.pout, { val := (c.val o.b l).toNat + (1 - ci l) ≤ (c.val o.a l).toNat, poison := q l })], fl := 0 })) ∧
  (∀ (s : State) (c : Ctx) (o : IBin),
     let a (l : Nat) : W32 := c.val o.a l
     let b (l : Nat) : W32 := c.srcVal o.b l
     let q (l : Nat) : Bool := c.bad o.a l || c.srcBad o.b l
     (Issues s c (.idiv o) → Gives s c (.idiv o) (some o.d) false fun l =>
       res32 (if b l = 0 then 0xFFFFFFFF
              else if a l = 0x80000000 ∧ b l = 0xFFFFFFFF then 0x80000000
              else BitVec.ofInt 32 ((a l).toInt.tdiv (b l).toInt)) (q l)) ∧
     (Issues s c (.irem o) → Gives s c (.irem o) (some o.d) false fun l =>
       res32 (if b l = 0 then a l
              else if a l = 0x80000000 ∧ b l = 0xFFFFFFFF then 0
              else BitVec.ofInt 32 ((a l).toInt - (a l).toInt.tdiv (b l).toInt * (b l).toInt)) (q l)) ∧
     (Issues s c (.ndiv o) → Gives s c (.ndiv o) (some o.d) false fun l =>
       res32 (if b l = 0 then 0xFFFFFFFF else a l / b l) (q l)) ∧
     (Issues s c (.nrem o) → Gives s c (.nrem o) (some o.d) false fun l =>
       res32 (if b l = 0 then a l else a l - a l / b l * b l) (q l)))

/-- 08 R183 (Table 8.4), the bitwise words, shifts and rotations: AND, OR, XOR, NOT, SHL, SHR, SAR, ROTL and FUNNEL. -/
def Obligations.BitwiseAndShiftWords : Prop :=
  ∀ (s : State) (c : Ctx),
    (∀ o, Issues s c (.andw o) → Gives s c (.andw o) (some o.d) false fun l =>
      res32 (c.val o.a l &&& c.srcVal o.b l) (c.bad o.a l || c.srcBad o.b l)) ∧
    (∀ o, Issues s c (.orw o) → Gives s c (.orw o) (some o.d) false fun l =>
      res32 (c.val o.a l ||| c.srcVal o.b l) (c.bad o.a l || c.srcBad o.b l)) ∧
    (∀ o, Issues s c (.xorw o) → Gives s c (.xorw o) (some o.d) false fun l =>
      res32 (c.val o.a l ^^^ c.srcVal o.b l) (c.bad o.a l || c.srcBad o.b l)) ∧
    (∀ o, Issues s c (.notw o) → Gives s c (.notw o) (some o.d) false fun l => res32 (~~~ c.val o.a l) (c.bad o.a l)) ∧
    (∀ o, Issues s c (.shl o) → Gives s c (.shl o) (some o.d) false fun l =>
      res32 (BitVec.ofNat 32 ((c.val o.a l).toNat * 2 ^ (c.srcVal o.b l).toNat)) (c.bad o.a l || c.srcBad o.b l)) ∧
    (∀ o, Issues s c (.shr o) → Gives s c (.shr o) (some o.d) false fun l =>
      res32 (BitVec.ofNat 32 ((c.val o.a l).toNat / 2 ^ (c.srcVal o.b l).toNat)) (c.bad o.a l || c.srcBad o.b l)) ∧
    (∀ o, Issues s c (.sar o) → Gives s c (.sar o) (some o.d) false fun l =>
      res32 (BitVec.ofInt 32 ((c.val o.a l).toInt / 2 ^ (c.srcVal o.b l).toNat)) (c.bad o.a l || c.srcBad o.b l)) ∧
    (∀ o, Issues s c (.rotl o) → ∃ x : Nat → W32,
      Gives s c (.rotl o) (some o.d) false (fun l => res32 (x l) (c.bad o.a l || c.srcBad o.b l)) ∧
      ∀ l j, j < 32 → (x l).getLsbD ((j + (c.srcVal o.b l).toNat) % 32) = (c.val o.a l).getLsbD j) ∧
    (∀ o, Issues s c (.funnel o) → Gives s c (.funnel o) (some o.d) false fun l =>
      let y : Nat := (c.val o.b l).toNat * 2 ^ 32 + (c.val o.a l).toNat
      let n : Nat := (c.val o.c l).toNat % 32
      res32 (BitVec.ofNat 32 (if o.u then y * 2 ^ n / 2 ^ 32 else y / 2 ^ n)) (c.bad o.a l || c.bad o.b l || c.bad o.c l))

/-- 08 R183 (Table 8.4), the words on bit positions: LOP3, POPC, CLZ, CTZ, BREV, BFX, BFI and PRMT. -/
def Obligations.BitFieldWords : Prop :=
  ∀ (s : State) (c : Ctx),
    (∀ o, Issues s c (.lop3 o) → ∃ x : Nat → W32,
      Gives s c (.lop3 o) (some o.d) false (fun l => res32 (x l) (c.bad o.a l || c.bad o.b l || c.bad o.c l)) ∧
      ∀ l j, j < 32 → (x l).getLsbD j = o.lut.getLsbD (((c.val o.a l).getLsbD j).toNat + 2 * ((c.val o.b l).getLsbD j).toNat +
        4 * ((c.val o.c l).getLsbD j).toNat)) ∧
    (∀ o, Issues s c (.popc o) → Gives s c (.popc o) (some o.d) false fun l =>
      res32 (BitVec.ofNat 32 ((List.range 32).countP fun j => (c.val o.a l).getLsbD j)) (c.bad o.a l)) ∧
    (∀ o, Issues s c (.clz o) → ∃ n : Nat → Nat,
      Gives s c (.clz o) (some o.d) false (fun l => res32 (BitVec.ofNat 32 (n l)) (c.bad o.a l)) ∧
      ∀ l, n l ≤ 32 ∧ (∀ j, j < n l → (c.val o.a l).getLsbD (31 - j) = false) ∧ (n l < 32 → (c.val o.a l).getLsbD (31 - n l) = true)) ∧
    (∀ o, Issues s c (.ctz o) → ∃ n : Nat → Nat,
      Gives s c (.ctz o) (some o.d) false (fun l => res32 (BitVec.ofNat 32 (n l)) (c.bad o.a l)) ∧
      ∀ l, n l ≤ 32 ∧ (∀ j, j < n l → (c.val o.a l).getLsbD j = false) ∧ (n l < 32 → (c.val o.a l).getLsbD (n l) = true)) ∧
    (∀ o, Issues s c (.brev o) → ∃ x : Nat → W32, Gives s c (.brev o) (some o.d) false (fun l => res32 (x l) (c.bad o.a l)) ∧
      ∀ l j, j < 32 → (x l).getLsbD j = (c.val o.a l).getLsbD (31 - j)) ∧
    (∀ o, Issues s c (.bfx o) → Gives s c (.bfx o) (some o.d) false fun l =>
      let pos : Nat := min (c.val o.b l).toNat 32
      let len : Nat := min (c.val o.c l).toNat 32
      let f : Int := readInt o.u (c.val o.a l) / 2 ^ pos % 2 ^ len
      res32 (BitVec.ofInt 32 (if o.u = false ∧ 0 < len ∧ 2 ^ (len - 1) ≤ f then f - 2 ^ len else f))
        (c.bad o.a l || c.bad o.b l || c.bad o.c l)) ∧
    (∀ o, Issues s c (.bfi o) → ∃ x : Nat → W32,
      Gives s c (.bfi o) (some o.d) false (fun l => res32 (x l) (c.bad o.a l || c.bad o.b l || c.bad o.c l)) ∧
      ∀ l j, j < 32 →
        let pos : Nat := min ((c.val o.c l).toNat % 256) 32
        let len : Nat := min ((c.val o.c l).toNat / 256 % 256) 32
        (x l).getLsbD j = if pos ≤ j ∧ j < pos + len then (c.val o.a l).getLsbD (j - pos) else (c.val o.b l).getLsbD j) ∧
    (∀ o, Issues s c (.prmt o) → ∃ x : Nat → W32,
      Gives s c (.prmt o) (some o.d) false (fun l => res32 (x l) (c.bad o.a l || c.bad o.b l || c.bad o.c l)) ∧
      ∀ l k, k < 4 →
        let y : W64 := c.val o.b l ++ c.val o.a l
        let n : Nat := ((c.val o.c l).toNat / 16 ^ k) % 16
        let b : BitVec 8 := y.extractLsb' (8 * (n % 8)) 8
        (x l).extractLsb' (8 * k) 8 = if n < 8 then b else if b.getLsbD 7 then 0xFF else 0)

/-- 08 R184 and Table 8.1: NOP changes nothing; MOV, MOVI, MOVS and SEL write their destination with the poison R184 says, and SMOVV an
s-register from the lowest active lane. -/
def Obligations.MovesCopy : Prop :=
  ∀ (s : State) (c : Ctx),
    (∀ o, Issues s c (.nop o) → Gives s c (.nop o) none false fun _ => { words := [], preds := [], fl := 0 }) ∧
    (∀ o, Issues s c (.mov o) → Gives s c (.mov o) (some o.d) false fun l =>
      { words := if o.pair then [c.wp.reg o.a l, c.wp.reg (regPlus o.a 1) l] else [c.wp.reg o.a l], preds := [], fl := 0 }) ∧
    (∀ o, Issues s c (.movi o) → Gives s c (.movi o) (some (Reg.vec o.d)) false fun _ =>
      if o.sz = 0 then res32 o.imm false
      else if o.sz = 1 then res64 (BitVec.ofInt 64 o.imm.toInt) false
      else res64 (BitVec.ofNat 64 o.imm.toNat) false) ∧
    (∀ o, Issues s c (.movs o) → Gives s c (.movs o) (some o.d) false fun l =>
      let x : PW := c.wp.reg (Reg.sc (BitVec.ofNat 8 ((o.sa.toNat + (c.val o.b l).toNat) % 64))) l
      res32 x.val (x.poison || c.bad o.b l)) ∧
    (∀ o, Issues s c (.smovv o) → Gives s c (.smovv o) (some (Reg.sc o.sd)) false fun _ =>
      { words := [c.wp.reg (Reg.vec o.a) (c.first (.smovv o))], preds := [], fl := 0 }) ∧
    (∀ o, Issues s c (.sel o) → Gives s c (.sel o) (some o.d) false fun l =>
      let r : Reg := if c.predVal o.p l then o.a else o.b
      { words := if o.pair then [{ val := c.val r l, poison := c.bad r l || c.predBad o.p l },
                                 { val := c.val (regPlus r 1) l, poison := c.bad (regPlus r 1) l || c.predBad o.p l }]
                 else [{ val := c.val r l, poison := c.bad r l || c.predBad o.p l }], preds := [], fl := 0 })

/-! ## Floating-point, packed and conversion words (08 R185-R194) -/

/-- 08 R186, R187: FADD, FSUB, FMUL, FFMA, FDIV, FMIN, FMAX, FSQRT, FROUND, FSCALE, FFRACT and FGETEXP write the IEEE result of their sources and
OR its flags into FLAGS, unless NF is set. -/
def Obligations.FloatArithmeticCompletes : Prop :=
  ∀ (s : State) (c : Ctx),
    (∀ o, Issues s c (.fadd o) → GivesCalm s c (.fadd o) (some o.d) o.nf fun l =>
      resF (faddV .f32 o.rm o.sat (f32 (c.val o.a l)) (f32 (c.srcVal o.b l))) (c.bad o.a l || c.srcBad o.b l)) ∧
    (∀ o, Issues s c (.fsub o) → GivesCalm s c (.fsub o) (some o.d) o.nf fun l =>
      resF (faddV .f32 o.rm o.sat (f32 (c.val o.a l)) (f32 (c.srcVal o.b l)).flip) (c.bad o.a l || c.srcBad o.b l)) ∧
    (∀ o, Issues s c (.fmul o) → GivesCalm s c (.fmul o) (some o.d) o.nf fun l =>
      resF (fmulV .f32 o.rm o.sat (f32 (c.val o.a l)) (f32 (c.srcVal o.b l))) (c.bad o.a l || c.srcBad o.b l)) ∧
    (∀ o, Issues s c (.ffma o) → GivesCalm s c (.ffma o) (some o.d) o.nf fun l =>
      resF (ffmaV .f32 o.rm o.sat (f32 (c.val o.a l)) (f32 (c.val o.b l)) (f32 (c.val o.c l)))
        (c.bad o.a l || c.bad o.b l || c.bad o.c l)) ∧
    (∀ o, Issues s c (.fdiv o) → GivesCalm s c (.fdiv o) (some o.d) o.nf fun l =>
      resF (fdivV .f32 o.rm o.sat (f32 (c.val o.a l)) (f32 (c.srcVal o.b l))) (c.bad o.a l || c.srcBad o.b l)) ∧
    (∀ o, Issues s c (.fmin o) → GivesCalm s c (.fmin o) (some o.d) o.nf fun l =>
      resF (fminmax .f32 false (c.val o.a l).toNat (c.srcVal o.b l).toNat) (c.bad o.a l || c.srcBad o.b l)) ∧
    (∀ o, Issues s c (.fmax o) → GivesCalm s c (.fmax o) (some o.d) o.nf fun l =>
      resF (fminmax .f32 true (c.val o.a l).toNat (c.srcVal o.b l).toNat) (c.bad o.a l || c.srcBad o.b l)) ∧
    (∀ o, Issues s c (.fsqrt o) → GivesCalm s c (.fsqrt o) (some o.d) o.nf fun l =>
      resF (fsqrtV .f32 o.rm (f32 (c.val o.a l))) (c.bad o.a l)) ∧
    (∀ o, Issues s c (.fround o) → GivesCalm s c (.fround o) (some o.d) o.nf fun l =>
      resF (froundV o.rm o.x (f32 (c.val o.a l))) (c.bad o.a l)) ∧
    (∀ o, Issues s c (.fscale o) → GivesCalm s c (.fscale o) (some o.d) o.nf fun l =>
      resF (fscaleV o.rm o.sat (f32 (c.val o.a l)) (c.srcVal o.b l).toInt) (c.bad o.a l || c.srcBad o.b l)) ∧
    (∀ o, Issues s c (.ffract o) → GivesCalm s c (.ffract o) (some o.d) o.nf fun l =>
      resF (ffractV (f32 (c.val o.a l))) (c.bad o.a l)) ∧
    (∀ o, Issues s c (.fgetexp o) → GivesCalm s c (.fgetexp o) (some o.d) o.nf fun l =>
      resF (fgetexpV (f32 (c.val o.a l))) (c.bad o.a l))

/-- 08 R186, R187, R189: FRCP, FRSQ, FEXP2, FLOG2, FSIN, FCOS and FTANH write their function of the source.
Where the spec bounds the error and names no result, the value is the free place of log 7 among those the bound admits. -/
def Obligations.FloatFunctionsComplete : Prop :=
  ∀ (s : State) (c : Ctx),
    (∀ o, Issues s c (.frcp o) → GivesCalm s c (.frcp o) (some o.d) o.nf fun l => resF (frcpV (c.val o.a l)) (c.bad o.a l)) ∧
    (∀ o, Issues s c (.frsq o) → GivesCalm s c (.frsq o) (some o.d) o.nf fun l => resF (frsqV (c.val o.a l)) (c.bad o.a l)) ∧
    (∀ o, Issues s c (.fexp2 o) → GivesCalm s c (.fexp2 o) (some o.d) o.nf fun l => resF (fexp2V (c.val o.a l)) (c.bad o.a l)) ∧
    (∀ o, Issues s c (.flog2 o) → GivesCalm s c (.flog2 o) (some o.d) o.nf fun l => resF (flog2V (c.val o.a l)) (c.bad o.a l)) ∧
    (∀ o, Issues s c (.fsin o) → GivesCalm s c (.fsin o) (some o.d) o.nf fun l => resF (fsinV (c.val o.a l)) (c.bad o.a l)) ∧
    (∀ o, Issues s c (.fcos o) → GivesCalm s c (.fcos o) (some o.d) o.nf fun l => resF (fcosV (c.val o.a l)) (c.bad o.a l)) ∧
    (∀ o, Issues s c (.ftanh o) → GivesCalm s c (.ftanh o) (some o.d) o.nf fun l => resF (ftanhV (c.val o.a l)) (c.bad o.a l))

/-- 08 R187, R188: FABS clears the sign bit, FNEG inverts it, FCOPYSIGN takes the sign bit of b, and FCLASS sets exactly one bit; none raises a
flag, NaNs included. 08 R190, R191: the packed words compute each 16-bit element as the FP32 form of their name does in the element type, and HDOT2 and QDOT4
round the exact sum of their products and the addend once. -/
def Obligations.FloatBitAndPackedWords : Prop :=
  (∀ (s : State) (c : Ctx),
     (∀ o, Issues s c (.fabs o) → ∃ x : Nat → W32, Gives s c (.fabs o) (some o.d) o.nf (fun l => res32 (x l) (c.bad o.a l)) ∧
       ∀ l j, j < 32 → (x l).getLsbD j = (decide (j < 31) && (c.val o.a l).getLsbD j)) ∧
     (∀ o, Issues s c (.fneg o) → ∃ x : Nat → W32, Gives s c (.fneg o) (some o.d) o.nf (fun l => res32 (x l) (c.bad o.a l)) ∧
       ∀ l j, j < 32 → (x l).getLsbD j = (decide (j = 31) != (c.val o.a l).getLsbD j)) ∧
     (∀ o, Issues s c (.fcopysign o) → ∃ x : Nat → W32,
       Gives s c (.fcopysign o) (some o.d) o.nf (fun l => res32 (x l) (c.bad o.a l || c.srcBad o.b l)) ∧
       ∀ l j, j < 32 → (x l).getLsbD j = if j = 31 then (c.srcVal o.b l).getLsbD 31 else (c.val o.a l).getLsbD j) ∧
     (∀ o, Issues s c (.fclass o) → ∃ k : Nat → Nat,
       Gives s c (.fclass o) (some o.d) o.nf (fun l => res32 (BitVec.ofNat 32 (2 ^ k l)) (c.bad o.a l)) ∧
       ∀ l, k l < 10 ∧
         let e : Nat := (c.val o.a l).toNat / 2 ^ 23 % 256
         let m : Nat := (c.val o.a l).toNat % 2 ^ 23
         let n : Bool := (c.val o.a l).getLsbD 31
         (e = 255 → m = 0 → k l = if n then 0 else 7) ∧ (e = 255 → m ≠ 0 → k l = if m < 2 ^ 22 then 8 else 9) ∧
         (e = 0 → m = 0 → k l = if n then 3 else 4) ∧ (e = 0 → m ≠ 0 → k l = if n then 2 else 5) ∧
         (0 < e → e < 255 → k l = if n then 1 else 6))) ∧
  (∀ (s : State) (c : Ctx),
     (∀ o, Issues s c (.hadd2 o) → GivesCalm s c (.hadd2 o) (some o.d) o.nf fun l =>
       let t := fmt16 o.bf
       resF (pack2 fun k => faddV t o.rm o.sat (fval t (elem16 (c.val o.a l) k)) (fval t (elem16 (c.srcVal o.b l) k)))
         (c.bad o.a l || c.srcBad o.b l)) ∧
     (∀ o, Issues s c (.hmul2 o) → GivesCalm s c (.hmul2 o) (some o.d) o.nf fun l =>
       let t := fmt16 o.bf
       resF (pack2 fun k => fmulV t o.rm o.sat (fval t (elem16 (c.val o.a l) k)) (fval t (elem16 (c.srcVal o.b l) k)))
         (c.bad o.a l || c.srcBad o.b l)) ∧
     (∀ o, Issues s c (.hfma2 o) → GivesCalm s c (.hfma2 o) (some o.d) o.nf fun l =>
       let t := fmt16 (o.sz == 1)
       resF (pack2 fun k => ffmaV t o.rm o.sat (fval t (elem16 (c.val o.a l) k)) (fval t (elem16 (c.val o.b l) k))
           (fval t (elem16 (c.val o.c l) k))) (c.bad o.a l || c.bad o.b l || c.bad o.c l)) ∧
     (∀ o, Issues s c (.hmin2 o) → GivesCalm s c (.hmin2 o) (some o.d) o.nf fun l =>
       resF (pack2 fun k => fminmax (fmt16 o.bf) false (elem16 (c.val o.a l) k) (elem16 (c.srcVal o.b l) k))
         (c.bad o.a l || c.srcBad o.b l)) ∧
     (∀ o, Issues s c (.hmax2 o) → GivesCalm s c (.hmax2 o) (some o.d) o.nf fun l =>
       resF (pack2 fun k => fminmax (fmt16 o.bf) true (elem16 (c.val o.a l) k) (elem16 (c.srcVal o.b l) k))
         (c.bad o.a l || c.srcBad o.b l)) ∧
     (∀ o, Issues s c (.hdot2 o) → GivesCalm s c (.hdot2 o) (some o.d) o.nf fun l =>
       let t := fmt16 (o.sz == 1)
       let x (k : Nat) : FVal := fval t (elem16 (c.val o.a l) k)
       let y (k : Nat) : FVal := fval t (elem16 (c.val o.b l) k)
       resF (dotRes o.rm o.sat [(x 0, y 0), (x 1, y 1)] (f32 (c.val o.c l))) (c.bad o.a l || c.bad o.b l || c.bad o.c l)) ∧
     (∀ o, Issues s c (.qdot4 o) → GivesCalm s c (.qdot4 o) (some o.d) o.nf fun l =>
       let ta : Fmt := if o.sz = 0 ∨ o.sz = 2 then .e4m3 else .e5m2
       let tb : Fmt := if o.sz = 0 ∨ o.sz = 3 then .e4m3 else .e5m2
       let x (k : Nat) : FVal := fval ta (elem8 (c.val o.a l) k)
       let y (k : Nat) : FVal := fval tb (elem8 (c.val o.b l) k)
       resF (dotRes o.rm o.sat [(x 0, y 0), (x 1, y 1), (x 2, y 2), (x 3, y 3)] (f32 (c.val o.c l)))
         (c.bad o.a l || c.bad o.b l || c.bad o.c l)))

/-- 08 R192-R194: CVTF2I, CVTI2F, CVTF2F, CVTI2I, PACK, UNPACK, QNT8.scale, QNT8 and DQNT8 write the converted elements. Between two equal types CVTF2F
is taken to clamp an infinity under SAT and to raise the flags of 04 Table 4.7 as between any others, which is the model's reading (log 75). That an element
of QNT8 raises NV for a signalling operand beside a quiet NaN is the model's choice where 08 R194 and 04 R73 differ (log 76). -/
def Obligations.ConversionsComplete : Prop :=
  ∀ (s : State) (c : Ctx),
    (∀ o, Issues s c (.cvtf2i o) → GivesCalm s c (.cvtf2i o) (some o.d) o.nf fun l =>
      let x := cvtSource c.wp o l
      let y := ftoi o.rm (o.dst.toNat % 2 == 0) (typeBits o.dst.toNat) (fval (fmtOf o.src.toNat) x.1)
      { words := intWords o.dst.toNat y.1 x.2, preds := [], fl := y.2 }) ∧
    (∀ o, Issues s c (.cvti2f o) → GivesCalm s c (.cvti2f o) (some o.d) o.nf fun l =>
      let x := cvtSource c.wp o l
      resF (roundInt (fmtOf o.dst.toNat) o.rm o.sat (intOf o.src.toNat x.1) 0 false) x.2) ∧
    (∀ o, Issues s c (.cvtf2f o) → GivesCalm s c (.cvtf2f o) (some o.d) o.nf fun l =>
      let x := cvtSource c.wp o l
      resF (cvtff (fmtOf o.dst.toNat) o.rm o.sat (fval (fmtOf o.src.toNat) x.1)) x.2) ∧
    (∀ o, Issues s c (.cvti2i o) → Gives s c (.cvti2i o) (some o.d) false fun l =>
      let x := cvtSource c.wp o l
      let t := o.dst.toNat
      let v := intOf o.src.toNat x.1
      let y := if o.sat then max (intMin (typeUnsigned t) (typeBits t)) (min (intMax (typeUnsigned t) (typeBits t)) v) else v
      { words := intWords t y x.2, preds := [], fl := 0 }) ∧
    (∀ o, Issues s c (.pack o) → Gives s c (.pack o) (some o.d) false fun l =>
      let lo := packElem o.t.toNat o.rm o.sat (c.val o.a l)
      let hi := packElem o.t.toNat o.rm o.sat (c.val o.b l)
      let old := (c.val o.d l).toNat
      if typeBits o.t.toNat = 16 then res32 (BitVec.ofNat 32 (lo + 2 ^ 16 * hi)) (c.bad o.a l || c.bad o.b l)
      else res32 (BitVec.ofNat 32 (if o.sz = 0 then old / 2 ^ 16 * 2 ^ 16 + (lo + 2 ^ 8 * hi) else old % 2 ^ 16 + 2 ^ 16 * (lo + 2 ^ 8 * hi)))
        (c.bad o.a l || c.bad o.b l || c.bad o.d l)) ∧
    (∀ o, Issues s c (.unpack o) → Gives s c (.unpack o) (some o.d) false fun l =>
      let n := typeBits o.t.toNat
      let e (k : Nat) : Nat := (c.val o.a l).toNat / 2 ^ (n * (2 * o.sz.toNat + k)) % 2 ^ n
      { words := [{ val := unpackElem o.t.toNat (e 0), poison := c.bad o.a l }, { val := unpackElem o.t.toNat (e 1), poison := c.bad o.a l }],
        preds := [], fl := 0 }) ∧
    (∀ o, Issues s c (.qnt8Scale o) → GivesCalm s c (.qnt8Scale o) (some o.d) o.nf fun l =>
      resF (qntScale o.e5 (c.val o.a l)) (c.bad o.a l)) ∧
    (∀ o, Issues s c (.qnt8 o) → GivesCalm s c (.qnt8 o) (some o.d) o.nf fun l =>
      let y (j : Nat) : FRes := qntElem o.e5 (f32 (c.val (regPlus o.a j) l)) (f32 (c.val o.b l))
      resF { bits := (y 0).bits + 2 ^ 8 * (y 1).bits + 2 ^ 16 * (y 2).bits + 2 ^ 24 * (y 3).bits,
             fl := (y 0).fl ||| (y 1).fl ||| (y 2).fl ||| (y 3).fl }
        (c.bad o.b l || c.bad (regPlus o.a 0) l || c.bad (regPlus o.a 1) l || c.bad (regPlus o.a 2) l || c.bad (regPlus o.a 3) l)) ∧
    (∀ o, Issues s c (.dqnt8 o) → GivesCalm s c (.dqnt8 o) (some o.d) o.nf fun l =>
      let y (j : Nat) : FRes := fmulV .f32 .rne false (fval (if o.e5 then .e5m2 else .e4m3) (elem8 (c.val o.a l) j)) (f32 (c.val o.b l))
      let w (j : Nat) : PW := { val := BitVec.ofNat 32 (y j).bits, poison := c.bad o.a l || c.bad o.b l }
      { words := [w 0, w 1, w 2, w 3], preds := [], fl := (y 0).fl ||| (y 1).fl ||| (y 2).fl ||| (y 3).fl })

/-- 04 R82: a lane of FADD, FSUB, FMUL, FDIV or FFMA that raises, with NF clear, a flag whose enable is set in its FPCTL keeps its destination,
gains the flags in FLAGS, and parts off at the word with FP_EXCEPTION and the flags in TFAUX; the other active lanes complete. -/
def Obligations.FpExceptionPartsItsLanes : Prop :=
  ∀ (s : State) (c : Ctx),
    (∀ o, Issues s c (.fadd o) → Excepts s c (.fadd o) (some o.d) o.nf fun l =>
      resF (faddV .f32 o.rm o.sat (f32 (c.val o.a l)) (f32 (c.srcVal o.b l))) (c.bad o.a l || c.srcBad o.b l)) ∧
    (∀ o, Issues s c (.fsub o) → Excepts s c (.fsub o) (some o.d) o.nf fun l =>
      resF (faddV .f32 o.rm o.sat (f32 (c.val o.a l)) (f32 (c.srcVal o.b l)).flip) (c.bad o.a l || c.srcBad o.b l)) ∧
    (∀ o, Issues s c (.fmul o) → Excepts s c (.fmul o) (some o.d) o.nf fun l =>
      resF (fmulV .f32 o.rm o.sat (f32 (c.val o.a l)) (f32 (c.srcVal o.b l))) (c.bad o.a l || c.srcBad o.b l)) ∧
    (∀ o, Issues s c (.fdiv o) → Excepts s c (.fdiv o) (some o.d) o.nf fun l =>
      resF (fdivV .f32 o.rm o.sat (f32 (c.val o.a l)) (f32 (c.srcVal o.b l))) (c.bad o.a l || c.srcBad o.b l)) ∧
    (∀ o, Issues s c (.ffma o) → Excepts s c (.ffma o) (some o.d) o.nf fun l =>
      resF (ffmaV .f32 o.rm o.sat (f32 (c.val o.a l)) (f32 (c.val o.b l)) (f32 (c.val o.c l)))
        (c.bad o.a l || c.bad o.b l || c.bad o.c l))

/-- 04 R72, R80 and 08 R187: every NaN that FADD, FSUB, FMUL, FFMA, FDIV, FSQRT, FFRACT, FROUND, FSCALE and FGETEXP deliver is the canonical NaN; that of a
NaN operand is so in the seven approximated forms too; and a signalling NaN operand raises NV. The invalid operations inf - inf, 0 x inf, 0 / 0, inf / inf, and
FSQRT, FRSQ and FLOG2 of a negative number, deliver it with NV. 08 R187 (Table 8.6): the special results at the infinities and zeros, with their flags. -/
def Obligations.NaNAndSpecialResults : Prop :=
  ((∀ (rm : RMode) (sat sig : Bool) (y : FVal),
     (faddV .f32 rm sat (.nan sig) y).bits = 0x7FC00000 ∧ (faddV .f32 rm sat y (.nan sig)).bits = 0x7FC00000 ∧
     (fmulV .f32 rm sat (.nan sig) y).bits = 0x7FC00000 ∧ (fmulV .f32 rm sat y (.nan sig)).bits = 0x7FC00000 ∧
     (fdivV .f32 rm sat (.nan sig) y).bits = 0x7FC00000 ∧ (fdivV .f32 rm sat y (.nan sig)).bits = 0x7FC00000 ∧
     (sig = true → (faddV .f32 rm sat (.nan sig) y).fl = flNV ∧ (faddV .f32 rm sat y (.nan sig)).fl = flNV ∧
       (fmulV .f32 rm sat (.nan sig) y).fl = flNV ∧ (fmulV .f32 rm sat y (.nan sig)).fl = flNV ∧
       (fdivV .f32 rm sat (.nan sig) y).fl = flNV ∧ (fdivV .f32 rm sat y (.nan sig)).fl = flNV)) ∧
   (∀ (a : W32), (f32 a).isNaN = true → ∀ (rm : RMode) (sat x : Bool) (n : Int),
     ∀ r ∈ [fsqrtV .f32 rm (f32 a), frcpV a, frsqV a, fexp2V a, flog2V a, fsinV a, fcosV a, ftanhV a, ffractV (f32 a), froundV rm x (f32 a),
            fscaleV rm sat (f32 a) n, fgetexpV (f32 a)],
       r.bits = 0x7FC00000 ∧ r.fl = if (f32 a).isSig then flNV else 0) ∧
   (∀ (rm : RMode) (sat b : Bool) (x y z : FVal) (n : Int),
     ∀ r ∈ [faddV .f32 rm sat x y, fmulV .f32 rm sat x y, fdivV .f32 rm sat x y, ffmaV .f32 rm sat x y z, fsqrtV .f32 rm x, ffractV x,
            froundV rm b x, fscaleV rm sat x n, fgetexpV x],
       (fval .f32 r.bits).isNaN = true → r.bits = 0x7FC00000) ∧
   (∀ (rm : RMode) (sat n k : Bool) (e f : Int),
     let zero (b : Bool) (e : Int) : FVal := .fin b 0 e
     ∀ r ∈ [faddV .f32 rm sat (.inf n) (.inf !n), fmulV .f32 rm sat (.inf n) (zero k e), fmulV .f32 rm sat (zero k e) (.inf n),
            ffmaV .f32 rm sat (.inf n) (zero k e) (zero n f), ffmaV .f32 rm sat (zero k e) (.inf n) (.inf n),
            fdivV .f32 rm sat (.inf n) (.inf k), fdivV .f32 rm sat (zero n e) (zero k f)],
       r = { bits := 0x7FC00000, fl := flNV }) ∧
   (∀ (a : W32) (m : Nat) (e : Int), f32 a = .fin true m e → m ≠ 0 → ∀ rm : RMode,
     ∀ r ∈ [fsqrtV .f32 rm (f32 a), frsqV a, flog2V a], r = { bits := 0x7FC00000, fl := flNV })) ∧
  ((∀ rm, fsqrtV .f32 rm (f32 0xFF800000) = { bits := 0x7FC00000, fl := flNV } ∧ fsqrtV .f32 rm (f32 0x80000000) = { bits := 0x80000000, fl := 0 } ∧
     fsqrtV .f32 rm (f32 0) = { bits := 0, fl := 0 } ∧ fsqrtV .f32 rm (f32 0x7F800000) = { bits := 0x7F800000, fl := 0 }) ∧
   [frcpV 0xFF800000, frcpV 0x80000000, frcpV 0, frcpV 0x7F800000] =
     [{ bits := 0x80000000, fl := 0 }, { bits := 0xFF800000, fl := flDZ }, { bits := 0x7F800000, fl := flDZ }, { bits := 0, fl := 0 }] ∧
   [frsqV 0xFF800000, frsqV 0x80000000, frsqV 0, frsqV 0x7F800000] =
     [{ bits := 0x7FC00000, fl := flNV }, { bits := 0xFF800000, fl := flDZ }, { bits := 0x7F800000, fl := flDZ }, { bits := 0, fl := 0 }] ∧
   [fexp2V 0xFF800000, fexp2V 0x80000000, fexp2V 0, fexp2V 0x7F800000] =
     [{ bits := 0, fl := 0 }, { bits := 0x3F800000, fl := 0 }, { bits := 0x3F800000, fl := 0 }, { bits := 0x7F800000, fl := 0 }] ∧
   [flog2V 0xFF800000, flog2V 0x80000000, flog2V 0, flog2V 0x7F800000, flog2V 0x3F800000] =
     [{ bits := 0x7FC00000, fl := flNV }, { bits := 0xFF800000, fl := flDZ }, { bits := 0xFF800000, fl := flDZ }, { bits := 0x7F800000, fl := 0 },
      { bits := 0, fl := 0 }] ∧
   [fsinV 0xFF800000, fsinV 0x80000000, fsinV 0, fsinV 0x7F800000] =
     [{ bits := 0x7FC00000, fl := flNV }, { bits := 0x80000000, fl := 0 }, { bits := 0, fl := 0 }, { bits := 0x7FC00000, fl := flNV }] ∧
   [fcosV 0xFF800000, fcosV 0x80000000, fcosV 0, fcosV 0x7F800000] =
     [{ bits := 0x7FC00000, fl := flNV }, { bits := 0x3F800000, fl := 0 }, { bits := 0x3F800000, fl := 0 }, { bits := 0x7FC00000, fl := flNV }] ∧
   [ftanhV 0xFF800000, ftanhV 0x80000000, ftanhV 0, ftanhV 0x7F800000] =
     [{ bits := 0xBF800000, fl := 0 }, { bits := 0x80000000, fl := 0 }, { bits := 0, fl := 0 }, { bits := 0x3F800000, fl := 0 }] ∧
   [ffractV (f32 0xFF800000), ffractV (f32 0x80000000), ffractV (f32 0), ffractV (f32 0x7F800000)] =
     [{ bits := 0x7FC00000, fl := flNV }, { bits := 0, fl := 0 }, { bits := 0, fl := 0 }, { bits := 0x7FC00000, fl := flNV }] ∧
   (∀ rm x, [froundV rm x (f32 0xFF800000), froundV rm x (f32 0x80000000), froundV rm x (f32 0), froundV rm x (f32 0x7F800000)] =
     [{ bits := 0xFF800000, fl := 0 }, { bits := 0x80000000, fl := 0 }, { bits := 0, fl := 0 }, { bits := 0x7F800000, fl := 0 }]) ∧
   (∀ rm n, [fscaleV rm false (f32 0xFF800000) n, fscaleV rm false (f32 0x80000000) n, fscaleV rm false (f32 0) n, fscaleV rm false (f32 0x7F800000) n] =
     [{ bits := 0xFF800000, fl := 0 }, { bits := 0x80000000, fl := 0 }, { bits := 0, fl := 0 }, { bits := 0x7F800000, fl := 0 }]) ∧
   [fgetexpV (f32 0xFF800000), fgetexpV (f32 0x80000000), fgetexpV (f32 0), fgetexpV (f32 0x7F800000)] =
     [{ bits := 0x7F800000, fl := 0 }, { bits := 0xFF800000, fl := flDZ }, { bits := 0xFF800000, fl := flDZ }, { bits := 0x7F800000, fl := 0 }])

/-! ## Compares and predicates (08 R195-R198) -/

/-- 08 R196, R197: the float comparisons on ordered operands of one sign or of two, on NaNs, and their NV; the float and integer compares ISETP, NSETP and ISET, and 08 R198: PLOP, PMOV.get and PMOV.set. -/
def Obligations.ComparesAndPredicateWords : Prop :=
  (∀ (s : State) (c : Ctx),
    let rel (cmp : BitVec 4) (x y : Int) : Bool :=
      if cmp = 0 then x == y else if cmp = 1 then x != y else if cmp = 2 then x < y else if cmp = 3 then x ≤ y
      else if cmp = 4 then x > y else x ≥ y
    let fold (comb : BitVec 2) (r p : Bool) : Bool :=
      if comb = 0 then r else if comb = 1 then r && p else if comb = 2 then r || p else Bool.xor r p
    let operand (pair u : Bool) (r : Reg) (l : Nat) : Int :=
      if pair then readInt u (c.pairVal r l) else readInt u (c.val r l)
    let bad (pair : Bool) (a b : Reg) (l : Nat) : Bool :=
      if pair then c.pairBad a l || c.pairBad b l else c.bad a l || c.bad b l
    (∀ o, Issues s c (.isetp o) → Gives s c (.isetp o) none false fun l =>
      resP o.pd (fold o.comb (rel o.cmp (operand o.pair false o.a l) (operand o.pair false o.b l)) (c.predVal o.pc l))
        (bad o.pair o.a o.b l || (o.comb != 0 && c.predBad o.pc l))) ∧
    (∀ o, Issues s c (.nsetp o) → Gives s c (.nsetp o) none false fun l =>
      resP o.pd (fold o.comb (rel o.cmp (operand o.pair true o.a l) (operand o.pair true o.b l)) (c.predVal o.pc l))
        (bad o.pair o.a o.b l || (o.comb != 0 && c.predBad o.pc l))) ∧
    (∀ o, Issues s c (.iset o) → Gives s c (.iset o) (some o.d) false fun l =>
      res32 (if fold o.comb (rel o.cmp (operand o.pair o.u o.a l) (operand o.pair o.u o.b l)) (c.predVal o.pc l) then 0xFFFFFFFF else 0)
        (bad o.pair o.a o.b l || (o.comb != 0 && c.predBad o.pc l))) ∧
    (∀ o, Issues s c (.fsetp o) → GivesCalm s c (.fsetp o) none o.nf fun l =>
      let x := fcompare o.cmp.toNat (c.val o.a l).toNat (c.val o.b l).toNat
      { words := [], fl := x.2,
        preds := [(o.pd, { val := fold o.comb x.1 (c.predVal o.pc l),
                           poison := c.bad o.a l || c.bad o.b l || (o.comb != 0 && c.predBad o.pc l) })] }) ∧
    (∀ o, Issues s c (.fset o) → GivesCalm s c (.fset o) (some o.d) o.nf fun l =>
      let x := fcompare o.cmp.toNat (c.val o.a l).toNat (c.val o.b l).toNat
      { words := [{ val := if fold o.comb x.1 (c.predVal o.pc l) then 0x3F800000 else 0,
                    poison := c.bad o.a l || c.bad o.b l || (o.comb != 0 && c.predBad o.pc l) }], preds := [], fl := x.2 }) ∧
    (∀ o, Issues s c (.plop o) → Gives s c (.plop o) none false fun l =>
      resP o.pd (o.lut.getLsbD ((c.predVal o.pa l).toNat + 2 * (c.predVal o.pb l).toNat + 4 * (c.predVal o.pc l).toNat))
        (c.predBad o.pa l || c.predBad o.pb l || c.predBad o.pc l)) ∧
    (∀ o, Issues s c (.pmovGet o) → ∃ x : Nat → W32,
      Gives s c (.pmovGet o) (some (Reg.vec o.d)) false (fun l =>
        res32 (x l) ((List.range 7).any fun k => c.predBad (BitVec.ofNat 3 k) l)) ∧
      ∀ l j, j < 32 → (x l).getLsbD j = if j < 7 then c.predVal (BitVec.ofNat 3 j) l else j == 7) ∧
    (∀ o, Issues s c (.pmovSet o) → Gives s c (.pmovSet o) none false fun l =>
      { words := [], fl := 0,
        preds := ((List.range 7).filter fun k => o.mask.getLsbD k).map fun k =>
          (BitVec.ofNat 3 k, { val := (c.val o.a l).getLsbD k, poison := c.bad o.a l }) })) ∧
  (∀ (a b : W32) (cmp : Nat), cmp ≤ 11 →
    let un : Bool := (f32 a).isNaN || (f32 b).isNaN
    ((fcompare cmp a.toNat b.toNat).2 = if (f32 a).isSig || (f32 b).isSig || (un && 2 ≤ cmp && cmp ≤ 5) then flNV else 0) ∧
    (un = true → (fcompare cmp a.toNat b.toNat).1 = [false, true, false, false, false, false, false, true, true, true, true, true].getD cmp false) ∧
    (un = false → a.getLsbD 31 = false → b.getLsbD 31 = false → (fcompare cmp a.toNat b.toNat).1 =
      [a == b, a != b, a < b, a ≤ b, b < a, b ≤ a, true, false, a < b, a ≤ b, b < a, b ≤ a].getD cmp false) ∧
    (un = false → a.getLsbD 31 = true → b.getLsbD 31 = true → (fcompare cmp a.toNat b.toNat).1 =
      [a == b, a != b, b < a, b ≤ a, a < b, a ≤ b, true, false, b < a, b ≤ a, a < b, a ≤ b].getD cmp false) ∧
    (un = false → a.getLsbD 31 = true → b.getLsbD 31 = false → (fcompare cmp a.toNat b.toNat).1 =
      let z : Bool := a == 0x80000000 && b == 0
      [z, !z, !z, true, false, z, true, false, !z, true, false, z].getD cmp false))

/-! ## Cross-lane words (09 R213-R221) -/

/-- 09 R213, R215: SHFL takes each active lane's value from the lane its mode names in its segment, when that lane is active, and says so in pc;
the value brings its poison and its lane's poison origin, and a poisoned lane operand poisons both results. -/
def Obligations.ShuffleReadsItsSegment : Prop :=
  ∀ (s : State) (c : Ctx) (o : ShflOp), Issues s c (.shfl o) →
    let seg : Nat := 2 ^ o.w.toNat
    let base (i : Nat) : Nat := i - i % seg
    let n (i : Nat) : Nat := (c.val o.b i).toNat
    let place (i : Nat) : Int :=
      if o.m = 0 then ((base i + n i % seg : Nat) : Int)
      else if o.m = 1 then ((base i + (i - base i + n i) % seg : Nat) : Int)
      else if o.m = 2 then (i : Int) + (c.val o.b i).toInt
      else ((base i + ((i - base i) ^^^ (n i % seg)) : Nat) : Int)
    let hit (i : Nat) : Bool :=
      decide ((base i : Int) ≤ place i ∧ place i < ((base i + seg : Nat) : Int)) && (c.lanesFor (.shfl o)).contains (place i).toNat
    let src (i : Nat) : Nat := if hit i then (place i).toNat else i
    let word (i k : Nat) : PW :=
      { val := c.val (regPlus o.a k) (src i), poison := c.bad (regPlus o.a k) (src i) || c.bad o.b i }
    Crosses s c (.shfl o) (some (Reg.vec o.d)) false
      (fun i => { words := if o.pair then [word i 0, word i 1] else [word i 0],
                  preds := [(o.pc, { val := hit i, poison := c.bad o.b i })], fl := 0 })
      (fun i => if src i = i then none else (c.wp.lane (src i)).origin)

/-- 09 R216, 02 R44: QXCH and QBCAST write every lane, helpers included, of each quad that holds an active lane, from the source lane of its quad;
from a lane that is neither active nor a helper, zero marked as poisoned. 09 R220: READLANE gives every active lane the value of lane b mod WIDTH, zero marked as poisoned when that lane is not active; WRITELANE writes
lane b mod WIDTH alone, when it is active. -/
def Obligations.QuadAndLaneWords : Prop :=
  (∀ (s : State) (c : Ctx) (o : QuadOp),
     let rule (i : Instr) (src : Nat → Nat) : Prop :=
       let act : List Nat := c.lanesFor i ++ c.helpers
       let quad (l : Nat) : Bool := (c.lanesFor i).any fun k => k / 4 == l / 4
       Issues s c i → Edits s c i (fun l x =>
         if l ∈ act ∧ quad l = true then
           let ws : List PW :=
             if src l ∈ act then (if o.pair then [c.wp.reg o.a (src l), c.wp.reg (regPlus o.a 1) (src l)] else [c.wp.reg o.a (src l)])
             else if o.pair then [poisonPW, poisonPW] else [poisonPW]
           { (x.setVs o.d.toNat ws) with
             origin := x.origin.or (if src l ∈ act ∧ src l ≠ l then (c.wp.lane (src l)).origin else none) }
         else x) c.wp.s
     rule (.qxch o) (fun l => l ^^^ o.k.toNat) ∧ rule (.qbcast o) (fun l => l - l % 4 + o.k.toNat)) ∧
  (∀ (s : State) (c : Ctx),
     (∀ o, Issues s c (.readlane o) →
       let act := c.lanesFor (.readlane o)
       let j (i : Nat) : Nat := (c.srcVal o.b i).toNat % c.kern.width
       let word (i k : Nat) : PW :=
         if j i ∈ act then { val := c.val (regPlus (Reg.vec o.a) k) (j i), poison := c.bad (regPlus (Reg.vec o.a) k) (j i) || c.srcBad o.b i }
         else poisonPW
       Crosses s c (.readlane o) (some o.d) false
         (fun i => { words := if o.pair then [word i 0, word i 1] else [word i 0], preds := [], fl := 0 })
         (fun i => if j i ∈ act ∧ j i ≠ i then (c.wp.lane (j i)).origin else none)) ∧
     (∀ o, Issues s c (.writelane o) →
       let j : Nat := (c.srcVal o.b 0).toNat % c.kern.width
       let word (k : Nat) : PW :=
         { val := c.val (regPlus (Reg.sc o.a) k) 0, poison := c.bad (regPlus (Reg.sc o.a) k) 0 || c.srcBad o.b 0 }
       Edits s c (.writelane o)
         (fun l x => if l = j ∧ j ∈ c.lanesFor (.writelane o) then x.setVs o.d.toNat (if o.pair then [word 0, word 1] else [word 0]) else x)
         c.wp.s))

/-- 09 R217: VOTE, MATCH and ELECT combine the active lanes. -/
def Obligations.VotesMatchesAndElections : Prop :=
  ∀ (s : State) (c : Ctx),
    (∀ o, Issues s c (.vote o) →
      let x (l : Nat) : Bool := Bool.xor (c.predVal o.pa l) o.n
      let act := c.lanesFor (.vote o)
      Crosses s c (.vote o) none false
        (fun _ => resP o.pd (if o.op = 0 then act.all x else if o.op = 1 then act.any x else act.all x || act.all fun l => !x l)
          (act.any fun l => c.predBad o.pa l))
        (fun _ => firstOrigin c act fun l => c.predBad o.pa l)) ∧
    (∀ o, Issues s c (.voteBallot o) →
      let act := c.lanesFor (.voteBallot o)
      let m : LaneMask := maskOf (act.filter fun l => Bool.xor (c.predVal o.pa l) o.n)
      let q : Bool := act.any fun l => c.predBad o.pa l
      Crosses s c (.voteBallot o) (some o.d) false
        (fun _ => if o.pair then res64 m q else res32 (m.extractLsb' 0 32) q) (fun _ => firstOrigin c act fun l => c.predBad o.pa l)) ∧
    (∀ o, Issues s c (.matchAny o) →
      let act := c.lanesFor (.matchAny o)
      let eq (l k : Nat) : Bool := if o.pair then c.pairVal o.a l == c.pairVal o.a k else c.val o.a l == c.val o.a k
      let bad (l : Nat) : Bool := if o.pair then c.pairBad o.a l else c.bad o.a l
      let m (l : Nat) : LaneMask := maskOf (act.filter fun k => eq k l)
      Crosses s c (.matchAny o) (some (Reg.vec o.d)) false
        (fun l => if c.kern.wide then res64 (m l) (act.any bad) else res32 ((m l).extractLsb' 0 32) (act.any bad))
        (fun _ => firstOrigin c act bad)) ∧
    (∀ o, Issues s c (.matchAll o) →
      let act := c.lanesFor (.matchAll o)
      let eq (l k : Nat) : Bool := if o.pair then c.pairVal o.a l == c.pairVal o.a k else c.val o.a l == c.val o.a k
      let bad (l : Nat) : Bool := if o.pair then c.pairBad o.a l else c.bad o.a l
      Crosses s c (.matchAll o) none false (fun l => resP o.pd (act.all fun k => eq k l) (act.any bad)) (fun _ => firstOrigin c act bad)) ∧
    (∀ o, Issues s c (.elect o) →
      Crosses s c (.elect o) none false (fun l => resP o.pd (l == c.first (.elect o)) false) (fun _ => none))

/-- 09 R218: REDUX folds the active lanes in ascending order, saturated or modulo the width, and PREFIX gives each active lane the fold of the
lanes up to it, or before it under X, from the operation's identity. 09 R219: FREDUX combines the active lanes over the fixed binary tree on lane numbers; the flags of every combine and of every signalling leaf
are ORed together, and a signalling NaN alone becomes canonical. -/
def Obligations.ReductionsFold : Prop :=
  (∀ (s : State) (c : Ctx) (o : ReduxOp),
     let bad (l : Nat) : Bool := if o.pair then c.pairBad o.a l else c.bad o.a l
     let up (ls : List Nat) : LaneRes :=
       if o.pair then res64 ((ls.map (c.pairVal o.a)).foldl (foldOp o.u o.op) (foldId 64 o.u o.op)) (ls.any bad)
       else res32 ((ls.map (c.val o.a)).foldl (foldOp o.u o.op) (foldId 32 o.u o.op)) (ls.any bad)
     let clamped (ls : List Nat) : LaneRes :=
       if o.pair then res64 (narrowed false true 64 (ls.map fun l => (c.pairVal o.a l).toInt).sum) (ls.any bad)
       else res32 (narrowed false true 32 (ls.map fun l => (c.val o.a l).toInt).sum) (ls.any bad)
     (Issues s c (.redux o) → Crosses s c (.redux o) (some o.d) false
       (fun _ => if o.sat then clamped (c.lanesFor (.redux o)) else up (c.lanesFor (.redux o)))
       (fun _ => firstOrigin c (c.lanesFor (.redux o)) bad)) ∧
     (Issues s c (.prefixScan o) →
       let seen (l : Nat) : List Nat := (c.lanesFor (.prefixScan o)).filter fun k => k < l || (!o.x && k == l)
       Crosses s c (.prefixScan o) (some o.d) false (fun l => up (seen l)) (fun l => firstOrigin c (seen l) bad))) ∧
  (∀ (s : State) (c : Ctx) (o : FreduxOp), Issues s c (.fredux o) →
     let act := c.lanesFor (.fredux o)
     let comb (x y : FRes) : FRes :=
       let r : FRes := if o.op = 0 then faddV .f32 o.rm false (fval .f32 x.bits) (fval .f32 y.bits)
                       else fminmax .f32 (o.op != 1) x.bits y.bits
       { r with fl := r.fl ||| x.fl ||| y.fl }
     let leaf (l : Nat) : Option FRes :=
       if l ∈ act then some { bits := (c.val o.a l).toNat, fl := if (f32 (c.val o.a l)).isSig then flNV else 0 } else none
     let root : FRes := (treeNode comb leaf 6 0).getD { bits := 0, fl := 0 }
     let r : Nat → LaneRes := fun _ =>
       resF (if (fval .f32 root.bits).isSig then { root with bits := 0x7FC00000 } else root) (act.any fun l => c.bad o.a l)
     Calm c (.fredux o) o.nf r → Crosses s c (.fredux o) (some o.d) o.nf r (fun _ => firstOrigin c act fun l => c.bad o.a l))

/-! ## Control words (09 R200-R212, 15 R319) -/

/-- 09 R202, R203: the active lanes of BRA leave for the word's address plus 8 times IMM32, or all raise BAD_TARGET; BRX parts its lanes by
their register targets, in ascending order. The other lanes go on. Both act on the state in which the prediction of 15 R319 is made. -/
def Obligations.BranchesPartTheirLanes : Prop :=
  ∀ (s : State) (c : Ctx),
    (∀ o, Issues (s.predict o.g) c (.bra o) →
      let tgt : W64 := c.ent.pc + BitVec.ofInt 64 (8 * o.off.toInt)
      match (s.predict o.g).badTarget c.blk.core c.grid tgt with
      | none => Ends s c (.bra o) (s.predict o.g) [] [{ mask := maskOf (c.lanesFor (.bra o)), pc := tgt, st := .runnable }]
      | some sub => Ends s c (.bra o) (s.predict o.g) ((c.lanesFor (.bra o)).map fun l => mkTrap l 4 sub (BitVec.ofNat 57 tgt.toNat) 0) []) ∧
    (∀ o, Issues (s.predict o.g) c (.brx o) →
      let act := c.lanesFor (.brx o)
      let bad (l : Nat) : Option Nat := (s.predict o.g).badTarget c.blk.core c.grid (c.pairVal o.a l)
      let go := act.filter fun l => !c.pairBad o.a l && (bad l).isNone
      ∃ leaves, Grouped go (c.pairVal o.a) leaves ∧ (∀ x ∈ leaves, x.st = .runnable) ∧
        Ends s c (.brx o) (s.predict o.g)
          (((act.filter fun l => c.pairBad o.a l).map fun l => c.wp.poisonTrap l 3) ++
            (act.filter fun l => !c.pairBad o.a l).filterMap fun l =>
              (bad l).map fun sub => mkTrap l 4 sub (BitVec.ofNat 57 (c.pairVal o.a l).toNat) 0) leaves)

/-- 09 R206, R208: while fewer than four entries of a lane's stack are held on chip CALL pushes the next word's address and leaves for its target; CALLX with
one target does so too, and with several makes a call record whose groups run one after another in ascending order of target. 09 R206, R208: RET pops each lane's youngest entry and leaves for it; a lane that returns from the group of a call record waits at the RET; a
lane with an empty stack raises CALLSTACK_FAULT SUB 3. With four entries on chip CALL writes the two oldest to the slots S and S + 1 of a scratchpad call-stack
view, the oldest first, and a RET with none on chip reads them back; a call that has to spill raises SUB 4 where no view is named and SUB 2 where a slot lies
outside the view. -/
def Obligations.CallsPushReturnsPop : Prop :=
  (∀ (s : State) (c : Ctx),
     let pushed (p : State) (act : List Nat) : State := p.modWarp c.r fun w => w.mapLanes act fun _ l => { l with stack := (c.ent.pc + 8) :: l.stack }
     (∀ o, Issues (s.predict o.g) c (.call o) →
       let tgt : W64 := c.ent.pc + BitVec.ofInt 64 (8 * o.off.toInt)
       let act := c.lanesFor (.call o)
       (s.predict o.g).badTarget c.blk.core c.grid tgt = none → (∀ l ∈ act, (c.wp.lane l).stack.length < 4) →
         Ends s c (.call o) (pushed (s.predict o.g) act) [] [{ mask := maskOf act, pc := tgt, st := .runnable }]) ∧
     (∀ o, Issues (s.predict o.g) c (.callx o) →
       let act := c.lanesFor (.callx o)
       (∀ l ∈ act, c.pairBad o.a l = false ∧ (s.predict o.g).badTarget c.blk.core c.grid (c.pairVal o.a l) = none ∧
         (c.wp.lane l).stack.length < 4) →
       (∀ t : W64, (∀ l ∈ act, c.pairVal o.a l = t) →
         Ends s c (.callx o) (pushed (s.predict o.g) act) [] [{ mask := maskOf act, pc := t, st := .runnable }]) ∧
       ((∃ l ∈ act, ∃ m ∈ act, c.pairVal o.a l ≠ c.pairVal o.a m) → c.wp.records.length < 8 →
         ∃ leaves, Grouped act (c.pairVal o.a) leaves ∧
           (∀ k x, leaves[k]? = some x → x.st = if k = 0 then .runnable else .waiting .callGroup) ∧
           Ends s c (.callx o)
             ((pushed (s.predict o.g) act).modWarp c.r fun w => { w with
               records := w.records ++ [{ ra := c.ent.pc + 8, groups := leaves.map fun x => (x.pc, x.mask), lanes := maskOf act, returned := 0,
                                          depths := (List.range 64).map fun l => (c.wp.lane l).depth }] })
             [] leaves))) ∧
  (∀ (s : State) (c : Ctx) (o : BareOp), Issues (s.predict o.g) c (.ret o) →
     let act := c.lanesFor (.ret o)
     let top (l : Nat) : W64 := (c.wp.lane l).stack.headD 0
     let gone : State := (s.predict o.g).modWarp c.r fun w => w.mapLanes act fun _ l => { l with stack := l.stack.tail }
     ((∀ l ∈ act, (c.wp.lane l).stack ≠ []) → c.wp.records = [] →
       ∃ leaves, Grouped act top leaves ∧ (∀ x ∈ leaves, x.st = .runnable) ∧ Ends s c (.ret o) gone [] leaves) ∧
     (∀ r : CallRecord, c.wp.records = [r] →
       (∀ l ∈ act, (c.wp.lane l).stack ≠ [] ∧ r.lanes.getLsbD l = true ∧ r.returned.getLsbD l = false ∧ r.ra = top l ∧
         r.depths[l]? = some ((c.wp.lane l).depth - 1)) →
       Ends s c (.ret o) (gone.modWarp c.r fun w => { w with records := [{ r with returned := r.returned ||| maskOf act }] }) []
         [{ mask := maskOf act, pc := c.ent.pc, st := .waiting .callReturned }]) ∧
     ((∀ l ∈ act, (c.wp.lane l).stack = [] ∧ (c.wp.lane l).spilled = 0) → c.wp.records = [] →
       Ends s c (.ret o) (s.predict o.g) (act.map fun l => mkTrap l 0x0C 3 0 0) [])) ∧
  (∀ (s : State) (c : Ctx) (l n : Nat) (v : View), c.kern.csview = some n → c.kern.views[n]? = some v →
     let slot (j : Nat) : Elem := v.locate c.kern.gang [(j : Int), (c.r.w * c.kern.width + l : Nat), (c.blk.lin : Nat)]
     (∀ (o : BraOp) (e1 e2 e3 e4 : W64), Issues (s.predict o.g) c (.call o) → c.lanesFor (.call o) = [l] →
       (c.wp.lane l).stack = [e1, e2, e3, e4] →
       let p := s.predict o.g
       let tgt : W64 := c.ent.pc + BitVec.ofInt 64 (8 * o.off.toInt)
       let k := (c.wp.lane l).spilled
       p.badTarget c.blk.core c.grid tgt = none →
       (v.scratch = true → (slot k).outside = none → (slot (k + 1)).outside = none →
         Ends s c (.call o)
           (((p.putScratch c.r.b (slot k).addr.toNat (natLE 8 e4.toNat)).putScratch c.r.b (slot (k + 1)).addr.toNat (natLE 8 e3.toNat)).modWarp c.r
             fun w => w.modLane l fun x => { x with stack := [c.ent.pc + 8, e1, e2], spilled := k + 2 })
           [] [{ mask := maskOf [l], pc := tgt, st := .runnable }]) ∧
       ((slot k).outside ≠ none ∨ (slot (k + 1)).outside ≠ none → Ends s c (.call o) p [mkTrap l 0x0C 2 0 0] [])) ∧
     (∀ (o : BareOp) (k : Nat), Issues (s.predict o.g) c (.ret o) → c.lanesFor (.ret o) = [l] → c.wp.records = [] →
       (c.wp.lane l).stack = [] → (c.wp.lane l).spilled = k + 2 → v.scratch = true → (slot k).outside = none → (slot (k + 1)).outside = none →
       let p := s.predict o.g
       let entry (j : Nat) : W64 := BitVec.ofNat 64 (leNat (p.scratchBytes c.r.b (slot j).addr.toNat 8))
       Ends s c (.ret o) (p.modWarp c.r fun w => w.modLane l fun x => { x with stack := [entry k], spilled := k })
         [] [{ mask := maskOf [l], pc := entry (k + 1), st := .runnable }])) ∧
  (∀ (s : State) (c : Ctx) (o : BraOp), Issues (s.predict o.g) c (.call o) → c.kern.csview = none →
     (s.predict o.g).badTarget c.blk.core c.grid (c.ent.pc + BitVec.ofInt 64 (8 * o.off.toInt)) = none →
     (∀ l ∈ c.lanesFor (.call o), 4 ≤ (c.wp.lane l).stack.length) →
     Ends s c (.call o) (s.predict o.g) ((c.lanesFor (.call o)).map fun l => mkTrap l 0x0C 4 0 0) [])

/-- 09 R209, R211, R212: JOIN, TRAP, BRK, YIELD and PAUSE. -/
def Obligations.JoinTrapBreakYieldPause : Prop :=
  ∀ (s : State) (c : Ctx),
    (∀ o, Issues (s.predict o.g) c (.join o) → Ends s c (.join o) (s.predict o.g) []
      [{ mask := maskOf (c.lanesFor (.join o)), pc := c.ent.pc,
         st := .waiting (.join o.pd (if o.t = 0xFFFFFFFF then none else some (s.cycle + o.t.toNat))) }]) ∧
    (∀ o, Issues (s.predict o.g) c (.trapw o) →
      Ends s c (.trapw o) (s.predict o.g) ((c.lanesFor (.trapw o)).map fun l => mkTrap l 0x12 0 0 o.imm) []) ∧
    (∀ o, Issues (s.predict o.g) c (.brk o) →
      Ends s c (.brk o) (s.predict o.g) ((c.lanesFor (.brk o)).map fun l => mkTrap l 0x11 0 0 o.imm) []) ∧
    (∀ o, Issues (s.predict o.g) c (.yieldw o) →
      Ends s c (.yieldw o) (s.predict o.g) [] [{ mask := maskOf (c.lanesFor (.yieldw o)), pc := c.ent.pc + 8, st := .runnable }]) ∧
    (∀ o, Issues (s.predict o.g) c (.pause o) → Ends s c (.pause o) (s.predict o.g) []
      [{ mask := maskOf (c.lanesFor (.pause o)), pc := c.ent.pc + 8,
         st := if o.n = 0 then .runnable else .waiting (.pause (s.cycle + o.n.toNat)) }])

/-- 09 R210, 02 R32: EXIT retires its active lanes, releases their line registers and takes them off the frontier; no other lane retires. -/
def Obligations.ExitRetires : Prop :=
  ∀ (s : State) (c : Ctx) (o : BareOp), Issues (s.predict o.g) c (.exitw o) → (endRegion (s.predict o.g) c.r).2 = true →
    ∃ t w, exec (.exitw o) s = .next t ∧ t.warp? c.r = some w ∧ w.region = [] ∧
      (∀ l, l < c.wp.lanes.length → (w.lane l).retired = ((c.wp.lane l).retired || (c.lanesFor (.exitw o)).contains l)) ∧
      (∀ l ∈ c.lanesFor (.exitw o), l < c.wp.lanes.length → ∀ b ∈ (w.lane l).binds, b = Bind.unbound) ∧
      ∀ e, w.entries[c.cur.e]? = some e → ∀ l ∈ c.lanesFor (.exitw o), l < c.wp.lanes.length → e.mask.getLsbD l = false

/-- 15 R319, 02 R38: a control word whose GP is not 7 counts in PREDCNT. It is predicted to select the lanes that the guard selected at the warp's previous issue of
the word, met with the issuing entry's mask, and none at the first issue; what it selects now is what the next issue finds. A restore leaves no history, and a
save record holds none. The resolution counts a mask that differs in MISPCNT and its lanes in REPLCNT. Lanes, registers and memory are as without a prediction. That the
resolution is an event still to come on the agenda, ahead of every other, is the model's choice (log 14, DEDUCED, and log 1). -/
def Obligations.PredictionsAreCounted : Prop :=
  (∀ (s : State) (c : Ctx) (g : Guard), s.ctx? = some c → g.pred ≠ 7 →
    ∃ p, (s.predict g).warp? c.r = some { c.wp with
        predCnt := c.wp.predCnt + 1, pred := some p, hist := (c.ent.pc, p.actual) :: c.wp.hist.filter (·.1 != c.ent.pc) } ∧
      p.actual = maskOf (c.selected g) ∧
      p.predicted = (match c.wp.hist.find? (·.1 == c.ent.pc) with | some x => x.2 &&& c.ent.mask | none => 0) ∧ (s.predict g).mem = s.mem ∧ (s.predict g).agenda = .event (.maskResolve c.r) :: s.agenda) ∧
  (∀ (s : State) (g : Guard), g.pred = 7 → s.predict g = s) ∧
  (∀ (w : Warp) (now : Nat), (Warp.restored now w).hist = [] ∧ w.control.hist = [] ∧ w.control.pred = none) ∧
  (∀ (s : State) (r : WarpRef) (w : Warp) (p : Prediction), s.warp? r = some w → w.pred = some p →
    let n := (lanesOf (p.predicted ^^^ p.actual)).length
    exec (.maskResolve r) s = .next (s.modWarp r fun _ =>
      { w with pred := none, mispCnt := if p.predicted = p.actual then w.mispCnt else w.mispCnt + 1,
               replCnt := w.replCnt + BitVec.ofNat 32 n }))

/-! ## Line words (05 R100-R112, 10 R227-R237) -/

/-- 10 R228, 05 R98, R103, R106, R111: OPEN releases the line register in every lane, REOPEN in the active ones. When no lane traps or meets a migration
and no registration conflicts, each lane whose element is in its view and mapped, and whose line fits, is bound to its line with the view, the mode and the
cursor, and its line is held, pinned but in mode .S; one outside its view is bound to the zero line; one whose page gives no access is bound Poisoned; every
other lane is Unbound after OPEN and keeps its binding under REOPEN. Lanes whose lines do not fit part off at the word as one capacity-blocked entry, and
SPLITCNT grows by 1; the other lanes go on. A re-issue after a capacity block releases nothing. 05 R106: all lines fit while the held count stays within the
quota, or with lines from the pool unless LQEXACT; else, in ascending order of lanes, those that are held already and the first new ones up to the quota. 21
R395: a lane whose fill meets a marked sector is bound Poisoned. -/
def Obligations.OpenBindsItsLanes : Prop :=
  (∀ (s : State) (c : Ctx) (o : OpenOp),
    let rule (i : Instr) (released : List Nat) : Prop :=
      ∀ (s1 s2 s4 : State) (xs : List (Nat × OpenLane)) (w : Warp),
        let rel : List Nat := if c.ent.retry then [] else released
        let f := fit w c.kern.exact (s2.lendable c.r.b c.blk.core) ((openNeeds xs).map fun x => (x.1, vlineOf x.2.1))
        Issues s c i →
        releaseIn s c.r o.ln rel = some s1 →
        openLanes s1 c o c.helpers ((List.range 64).filter fun l => (c.lanesFor i).contains l || c.helpers.contains l) = (xs, s2) →
        (∀ x ∈ xs, x.2 ≠ .held ∧ ∀ t, x.2 ≠ .trap t) → s2.warp? c.r = some w → (f.blocked = [] ∨ ∃ l ∈ f.blocked, l ∉ c.helpers) →
        (∀ l va pa, (l, va, pa) ∈ openNeeds xs → s2.badSector (lineOf pa) (va.toNat % 128) = false) →
        bindAll (bindPlain (s2.modWarp c.r (·.takeFit f)) c o xs) c o w ((openNeeds xs).filter fun x => f.bound.contains x.1) = .ok (s4, []) →
        ∃ u v, Ends s c i u []
            (if f.blocked = [] then [] else
              [{ mask := maskOf (f.blocked.filter fun l => !c.helpers.contains l), pc := c.ent.pc, st := .capBlocked }]) ∧
          u.warp? c.r = some v ∧ v.splitCnt = (if f.blocked = [] then w.splitCnt else w.splitCnt + 1) ∧
          (∀ l, LaneIs c.wp v l fun x =>
            match xs.find? (·.1 == l) with
            | some (_, .need va _) =>
              if l ∈ f.blocked then (if l ∈ rel then x.setBind o.ln .unbound else x)
              else x.setBind o.ln (.bound (vlineOf va) o.v o.mode (cursorOf va.toNat))
            | some (_, .zero line cu) => x.setBind o.ln (.zero line o.v o.mode cu)
            | some (_, .poisoned va) => x.setBind o.ln (.poisoned va o.v o.mode (cursorOf va.toNat))
            | _ => if l ∈ rel then x.setBind o.ln .unbound else x) ∧
          ∀ l va pa, (l, va, pa) ∈ openNeeds xs → l ∉ f.blocked →
            ∃ h, v.held? (vlineOf va) = some h ∧ h.parked = false ∧ (o.mode ≠ .s → h.pinned = true)
    rule (.openl o) (List.range c.wp.lanes.length) ∧ rule (.reopen o) (c.lanesFor (.reopen o) ++ c.helpers)) ∧
  (∀ (w : Warp) (exact : Bool) (pool : Nat) (needs : List (Nat × VAddr)),
    let new := (needs.map (·.2)).eraseDups.filter fun a => !w.holds a
    let more := w.heldCount + new.length - w.quota - w.loaned
    let all : List Nat := needs.map (·.1)
    let fits (x : Nat × VAddr) : Bool := w.holds x.2 || (new.take (w.quota - w.heldCount)).contains x.2
    (w.heldCount + new.length ≤ w.quota → fit w exact pool needs = { bound := all, blocked := [], loaned := w.loaned, split := false }) ∧
    (w.quota < w.heldCount + new.length → exact = false → more ≤ pool →
      fit w exact pool needs = { bound := all, blocked := [], loaned := max w.loaned (w.heldCount + new.length - w.quota), split := false }) ∧
    (w.quota < w.heldCount + new.length → exact = true ∨ pool < more →
      fit w exact pool needs = { bound := (needs.filter fits).map (·.1), blocked := (needs.filter fun x => !fits x).map (·.1), loaned := w.loaned,
                                 split := true })) ∧
  (∀ (s t : State) (c : Ctx) (o : OpenOp) (old w : Warp) (l : Nat) (va : VAddr) (pa : PAddr), o.mode ≠ .s →
    register (s.flush c.r (lineOf pa)) c.r (lineOf pa) (modeWrites o.mode) = (t, .ok) → t.warp? c.r = some w → fills old (lineOf pa) o.mode = true →
    t.badSector (lineOf pa) (va.toNat % 128) = true →
    bindLane s c o old l va pa = .ok (t.setBind c.r o.ln l (.poisoned va o.v o.mode (cursorOf va.toNat)), none))

/-- 10 R228, 05 R97-R99: what OPEN finds in one lane, in the order of its checks; the coordinates are exact, and a dimension counts as outside when
the coordinate is negative or not below its extent. 06 R128, R130: a line that one other region has registered is refused to a request when either of the two
is a write, with SUB 4 for an .S access, 3 for a read, 2 for a write that met a write and 1 for a write that met a read, and TFAUX naming that region's warp; a
card's footprint refuses with SUB 5; the lane of OPEN that is refused takes MM_CONFLICT at its element's address and is not bound, and the line is not
registered. -/
def Obligations.OpenChecksInOrder : Prop :=
  (∀ (s : State) (r q : WarpRef) (k : Block) (w : Warp) (g : Registration) (line : PAddr) (write sync : Bool),
    s.ctxOf r.b ≠ sysCtx → s.ctxOf q.b ≠ sysCtx → q ≠ r → s.blocks[q.b]? = some k → k.place ≠ .gone → k.warps[q.w]? = some w →
    w.region.filter (fun x => x.line == line) = [g] →
    (∀ p v, p ≠ q → p ≠ r → s.warp? p = some v → ∀ x ∈ v.region, x.line ≠ line) →
    (∀ x ∈ s.peerRegs, x.line ≠ line) → s.cardConflict none (.line line) write = none → s.sorrelHolds (.line line) = false →
    s.conflict r line write sync =
      if write = false ∧ g.write = false then none
      else some (if sync then 4 else if write = false then 3 else if g.write then 2 else 1, BitVec.ofNat 32 (k.core * 2 ^ 16 + w.ctxIdx))) ∧
  (∀ (s : State) (r : WarpRef) (line : PAddr) (write sync : Bool) (aux : W32),
    s.ctxOf r.b ≠ sysCtx → s.cardConflict none (.line line) write = some aux → s.conflict r line write sync = some (5, aux)) ∧
  (∀ (s : State) (c : Ctx) (o : OpenOp) (old w : Warp) (l : Nat) (va : VAddr) (pa : PAddr) (sub : Nat) (aux : W32),
    let t := s.flush c.r (lineOf pa)
    o.mode ≠ .s → t.warp? c.r = some w → (∀ x ∈ w.region, x.line ≠ lineOf pa) → w.region.length < 256 →
    t.mustQueue c.r w (lineOf pa) = false → t.conflict c.r (lineOf pa) (modeWrites o.mode) false = some (sub, aux) →
    bindLane s c o old l va pa = .ok (t, some (mkTrap l 0x0A sub va aux))) ∧
  ∀ (s : State) (c : Ctx) (o : OpenOp) (l : Nat),
    let v := c.kern.view o.v
    let x (k : Nat) : Int := (c.val (regPlus o.b k) l).toInt
    let out (k : Nat) : Prop := x k < 0 ∨ ((nth 0 v.ext k).toNat : Int) ≤ x k
    let addr : Int := v.base.toNat + ((List.range v.rank).map fun k => x k * (nth 0 v.str k).toInt).sum * v.size
    let via : Via := { core := c.blk.core, lane := some (c.r, l) }
    v.space = 0 → v.rank ≤ v.ext.length → v.rank ≤ v.str.length →
    (∀ k, k < v.rank → c.bad (regPlus o.b k) l = false) →
    (∀ d, d < v.rank → out d → (∀ k, k < d → ¬ out k) → v.oobZero = false →
      openLane s c o false l = (.trap (mkTrap l 7 0 0 (BitVec.ofNat 32 d)), s)) ∧
    (∀ d, d < v.rank → out d → v.oobZero = true → o.mode = .r → v.rd = true →
      openLane s c o false l = (.zero (BitVec.ofInt 57 (addr - addr % 128)) (BitVec.ofInt 7 (addr % 128)), s)) ∧
    ((∀ k, k < v.rank → ¬ out k) → 0 ≤ addr → addr < 2 ^ 57 →
      (modeGrants o.mode v = false → openLane s c o false l = (.trap (mkTrap l 9 0 (BitVec.ofInt 57 addr) 0), s)) ∧
      (modeGrants o.mode v = true →
        match openTranslate s via c.grid.ctx (BitVec.ofInt 57 addr) o.mode with
        | (.fail, t) => openLane s c o false l = (.poisoned (BitVec.ofInt 57 addr), t)
        | (.migrating, t) => openLane s c o false l = (.held, t)
        | (.ok pa, t) => openLane s c o false l =
            if t.unreachable c.grid.ctx pa then (.trap (mkTrap l 9 0 (BitVec.ofInt 57 addr) 2), t)
            else (.need (BitVec.ofInt 57 addr) pa, t)))

/-- 10 R229, 10 R237: RECALL, FLUSHL and PREF complete; RECALL leaves no lane bound in its register, FLUSHL leaves bindings and registers alone. 10 R236: LINEQ gives the state, cursor, mode or view of each lane's binding, VIEWQ a field of a view's descriptor, 0 at or above its rank. -/
def Obligations.RecallFlushPrefetchAndQueries : Prop :=
  (∀ (s : State) (c : Ctx),
     (∀ o u, Issues s c (.recall o) → releaseIn s c.r o.ln (List.range c.wp.lanes.length) = some u →
       Ends s c (.recall o) u [] [] ∧
       ∀ w, u.warp? c.r = some w → ∀ l, l < c.wp.lanes.length → (w.lane l).bind o.ln = .unbound) ∧
     (∀ o u, Issues s c (.flushl o) → writeBackLines s c.r (c.wp.heldIn o.ln (List.range c.wp.lanes.length)) = (u, false) →
       Ends s c (.flushl o) u [] [] ∧
       ∀ w, u.warp? c.r = some w → w.lanes = c.wp.lanes ∧ w.s = c.wp.s) ∧
     (∀ o, Issues s c (.pref o) → Ends s c (.pref o) s [] [])) ∧
  (∀ (s : State) (c : Ctx),
     (∀ o, Issues s c (.lineq o) → ∃ x : Nat → W32,
       Gives s c (.lineq o) (some (Reg.vec o.d)) false (fun l => res32 (x l) false) ∧
       ∀ l, let parked (a : VAddr) : Bool := (c.wp.held? a).any (·.parked)
         match (c.wp.lane l).bind o.ln with
         | .unbound => x l = if o.q = 0 then 0 else 0xFFFFFFFF
         | .bound a v m cu => (x l).toNat = if o.q = 0 then (if parked a then 5 else if m = .s then 2 else 1)
                                        else if o.q = 1 then cu.toNat else if o.q = 2 then modeCode m else v.toNat
         | .zero _ v m cu => (x l).toNat = if o.q = 0 then 3 else if o.q = 1 then cu.toNat else if o.q = 2 then modeCode m else v.toNat
         | .poisoned _ v m cu => (x l).toNat = if o.q = 0 then 4 else if o.q = 1 then cu.toNat else if o.q = 2 then modeCode m else v.toNat) ∧
     (∀ o, Issues s c (.viewq o) →
       let v := c.kern.view o.v
       Gives s c (.viewq o) (some o.d) false fun _ =>
         let x : W32 :=
           if o.f = 0 then BitVec.ofNat 32 v.rank else if o.f = 1 then v.etype.setWidth 32 else if o.f = 2 then v.space.setWidth 32
           else if o.f = 3 then (if v.rd then 1 else 0) + (if v.wr then 2 else 0) else if o.f = 4 then (if v.oobZero then 1 else 0)
           else if o.f.toNat ≤ 9 then (if o.f.toNat - 5 < v.rank then (v.ext[o.f.toNat - 5]?).getD 0 else 0)
           else if o.f.toNat - 10 < v.rank then (v.str[o.f.toNat - 10]?).getD 0 else 0
         res32 x false))

/-- 05 R100, 06 R126: a write-back puts exactly the dirty bytes of a line at its home and leaves the line clean; it reads no other byte and writes
none. Every other line that the warp holds keeps its data and its dirty bytes: that a copy of the same home line at another virtual address stays as dirty as it was
is the model's choice (log 18, DEDUCED). -/
def Obligations.WriteBackSendsTheDirtyBytes : Prop :=
  ∀ (s : State) (r : WarpRef) (h : HeldLine) (x : Xlate),
    Memory.wf s.mem = true → h.dirty ≠ 0 → h.data.length = 128 →
    s.cached { core := s.coreOf r.b, lane := none } (s.ctxOf r.b) h.line = some x → x.wr = true →
    s.unreachable (s.ctxOf r.b) (x.addr h.line) = false →
    ∃ t, writeBackLine s r h = (t, .done) ∧ Memory.wf t.mem = true ∧
      (∀ k b, k < 128 → h.dirty.getLsbD k = true → h.data[k]? = some b → memGet t.mem (x.addr h.line + k) = b) ∧
      (∀ a, (∀ k, k < 128 → h.dirty.getLsbD k = true → a ≠ x.addr h.line + k) → memGet t.mem a = memGet s.mem a) ∧
      ∀ w, s.warp? r = some w → ∃ v, t.warp? r = some v ∧
        v.held = w.held.map fun g => if g.line = h.line then { g with dirty := 0 } else g

/-- 10 R231, R232, 05 R101, R102: LDL and STL of lines held in modes .R, .W, .WZ and .RW read and write the warp's copy: a load gives each active lane its
little-endian bytes, and each helper lane the same of its own line; a store changes those bytes in every copy the warp has of the home line, and in those that
other warps of the core hold, and marks them dirty at the line through which it was made; memory keeps every byte. That the copies of one home line at several
addresses share their bytes while each keeps dirty enables of its own is the model's choice (log 18, DEDUCED). A load from a zero line reads zeros and a store
to one does nothing; a load from a Poisoned binding gives poisoned zeros and the binding's address as origin. 10 R231: what stops a lane of LDL or STL, in the
order of its checks: CLOSED_LINE, POISON_CONSUMED SUB 6 of a poisoned offset, LINE_BOUND with the offset, POISON_CONSUMED SUB 1 of a store through a Poisoned
binding, PROTECTION of a mode that denies the access, POISON_CONSUMED SUB 1 of poisoned data; a helper lane so stopped takes poisoned zeros (02 R44). A lane
whose line's dirty bytes an error took takes SCRATCH_UE SUB 3 first (21 R395). 05 R110: an access to a parked line fits it as OPEN does, parts off
capacity-blocked where it does not, and else pins it again: fetched with the parked dirty bytes over it, or Poisoned in every binding when its page has no
translation any more (log 79, DESIGN CHOICE). 06 R127-R129: an access to a line that is not registered for it, or whose copy is stale, finds the line's home, registers
it there and refills the copy, or takes MM_CONFLICT at its element when a registration conflicts; that it takes PROTECTION TFAUX 3 or 2 when the home is not to be
found or not to be reached, and looks for no home else, is the model's choice (log 70, DEDUCED). -/
def Obligations.HeldLinesAreReadAndWritten : Prop :=
  (∀ (s : State) (c : Ctx) (line : Nat → VAddr) (home : Nat → PAddr) (m : Nat → Mode) (view : Nat → BitVec 6) (cur : Nat → BitVec 7),
    let at_ (off : LineOff) (l : Nat) : Int := match off with | .imm x => ((cur l).toNat : Int) + x.toInt | .reg r => (c.val r l).toInt
    let sound (off : LineOff) (n l : Nat) : Prop :=
      (∀ r, off = .reg r → c.bad r l = false) ∧ 0 ≤ at_ off l ∧ at_ off l % n = 0 ∧ at_ off l + n ≤ 128
    (∀ o, Issues s c (.ldl o) →
      let ls := (List.range 64).filter fun l => (c.lanesFor (.ldl o)).contains l || c.helpers.contains l
      (∀ l ∈ ls, (m l = .r ∨ m l = .rw) ∧ sound o.off (szBytes o.sz) l ∧
        Pinned c l o.ln (.bound (line l) (view l) (m l) (cur l)) (line l) (home l) false) →
      Ends s c (.ldl o) (s.modWarp c.r fun w => w.mapLanes ls fun l x =>
        x.setVs o.d.toNat (extendLoad (szBytes o.sz) o.sx (c.wp.lineBytes (line l) (at_ o.off l).toNat (szBytes o.sz)))) [] []) ∧
    (∀ o, Issues s c (.stl o) →
      (∀ l ∈ c.lanesFor (.stl o), (m l = .w ∨ m l = .wz ∨ m l = .rw) ∧ sound o.off (szBytes o.sz) l ∧ (stlData c.wp o l).2 = false ∧
        Pinned c l o.ln (.bound (line l) (view l) (m l) (cur l)) (line l) (home l) true) →
      let put (l : Nat) : HeldLine → HeldLine := storeLine (at_ o.off l).toNat (stlData c.wp o l).1
      let seen (l : Nat) : HeldLine → HeldLine := HeldLine.show (at_ o.off l).toNat (stlData c.wp o l).1
      let u := (c.lanesFor (.stl o)).foldl (fun u l =>
        (u.modWarp c.r fun w => (w.modHome (home l) (seen l)).modHeld (line l) (put l)).shareCopy c.r (home l) (seen l)) s
      Ends s c (.stl o) u [] [] ∧ u.mem = s.mem)) ∧
  (∀ (s : State) (c : Ctx),
    let binding (ln : BitVec 3) (l : Nat) : Bind := (c.wp.lane l).bind ln
    let at_ (off : LineOff) (ln : BitVec 3) (l : Nat) : Int :=
      match off with | .imm x => ((binding ln l).cursor.toNat : Int) + x.toInt | .reg r => (c.val r l).toInt
    let badOff (off : LineOff) (l : Nat) : Bool := match off with | .imm _ => false | .reg r => c.bad r l
    let inLine (x : Int) (n : Nat) : Bool := decide (0 ≤ x) && decide (x % n = 0) && decide (x + n ≤ 128)
    let denied (store : Bool) (m : Mode) : Bool := if store then m == .r else m == .w || m == .wz
    let stops (store dataBad : Bool) (off : LineOff) (ln : BitVec 3) (n l : Nat) (t : LaneTrap) : Prop :=
      let x := at_ off ln l
      if binding ln l = .unbound then t = mkTrap l 5 0 0 0
      else if badOff off l then t = c.wp.poisonTrap l 6
      else if inLine x n = false then t = mkTrap l 6 0 0 (BitVec.ofInt 32 x)
      else match binding ln l with
        | .poisoned _ _ _ _ => store = true ∧ t = c.wp.poisonTrap l 1
        | .zero a _ m _ => denied store m = true ∧ t = mkTrap l 9 0 (elemAt a x.toNat) 0
        | .bound a _ m _ =>
          if denied store m then t = mkTrap l 9 0 (elemAt a x.toNat) 0 else store = true ∧ dataBad = true ∧ t = c.wp.poisonTrap l 1
        | .unbound => False
    let sound (off : LineOff) (ln : BitVec 3) (n l : Nat) : Prop := badOff off l = false ∧ inLine (at_ off ln l) n = true
    (∀ o (t : Nat → LaneTrap), Issues s c (.ldl o) →
      (∀ l, l ∈ c.lanesFor (.ldl o) ∨ l ∈ c.helpers → stops false false o.off o.ln (szBytes o.sz) l (t l)) →
      Ends s c (.ldl o) (((List.range 64).filter c.helpers.contains).foldl (fun u l => u.setVs c.r l o.d.toNat (poisonLoad (szBytes o.sz))) s)
        ((c.lanesFor (.ldl o)).map t) []) ∧
    (∀ o (t : Nat → LaneTrap), Issues s c (.stl o) →
      (∀ l ∈ c.lanesFor (.stl o), stops true (stlData c.wp o l).2 o.off o.ln (szBytes o.sz) l (t l)) →
      Ends s c (.stl o) s ((c.lanesFor (.stl o)).map t) []) ∧
    (∀ o, Issues s c (.ldl o) → c.helpers = [] →
      (∀ l ∈ c.lanesFor (.ldl o), sound o.off o.ln (szBytes o.sz) l ∧ ∃ a v m k, binding o.ln l = .zero a v m k ∧ denied false m = false) →
      Ends s c (.ldl o) (s.modWarp c.r fun w => w.mapLanes (c.lanesFor (.ldl o)) fun _ x =>
        x.setVs o.d.toNat (extendLoad (szBytes o.sz) o.sx (List.replicate (szBytes o.sz) 0))) [] []) ∧
    (∀ o, Issues s c (.stl o) →
      (∀ l ∈ c.lanesFor (.stl o), sound o.off o.ln (szBytes o.sz) l ∧ ∃ a v m k, binding o.ln l = .zero a v m k ∧ denied true m = false) →
      Ends s c (.stl o) s [] []) ∧
    (∀ o (a : Nat → VAddr), Issues s c (.ldl o) → c.helpers = [] →
      (∀ l ∈ c.lanesFor (.ldl o), sound o.off o.ln (szBytes o.sz) l ∧ ∃ v m k, binding o.ln l = .poisoned (a l) v m k) →
      Ends s c (.ldl o) (s.modWarp c.r fun w => w.mapLanes (c.lanesFor (.ldl o)) fun l x =>
        (x.takeOrigin (some (a l))).setVs o.d.toNat (poisonLoad (szBytes o.sz))) [] []) ∧
    (∀ o (a : Nat → VAddr), Issues s c (.ldl o) → c.helpers = [] →
      (∀ l ∈ c.lanesFor (.ldl o), sound o.off o.ln (szBytes o.sz) l ∧ c.wp.holds (a l) = true ∧ (∃ h, c.wp.held? (a l) = some h ∧ h.lost = true) ∧
        ∃ v m k, binding o.ln l = .bound (a l) v m k ∧ m ≠ .s ∧ denied false m = false) →
      Ends s c (.ldl o) (s.modWarp c.r fun w => { w with held := w.held.map HeldLine.found })
        ((c.lanesFor (.ldl o)).map fun l => mkTrap l 0x0F 3 (a l) 0) []) ∧
    (∀ (l : Nat) (a : VAddr) (v : BitVec 6) (m : Mode) (k : BitVec 7), m ≠ .s →
      let f := fit c.wp c.kern.exact (s.lendable c.r.b c.blk.core) [(l, a)]
      let start : Option State := if c.wp.holds a then some s
        else (repinLine (s.modWarp c.r (·.takeFit f)) c.r l a).map fun t => t.modWarp c.r Warp.release
      let ready (ln : BitVec 3) (w : Warp) : Prop := (w.lane l).bind ln = .bound a v m k ∧ (∀ q, w.reg q l = c.wp.reg q l) ∧
        ∃ h, w.held? a = some h ∧ h.lost = false
      (∀ o u w, Issues s c (.ldl o) → c.helpers = [] → c.lanesFor (.ldl o) = [l] → binding o.ln l = .bound a v m k → denied false m = false →
        sound o.off o.ln (szBytes o.sz) l → (c.wp.holds a = true ∨ f.blocked = []) → start = some u → u.warp? c.r = some w → ready o.ln w →
        let x := (at_ o.off o.ln l).toNat
        (∀ t z, pinnedAccess u c l a x false = .trap t z → Ends s c (.ldl o) z [t] []) ∧
        (∀ z y, pinnedAccess u c l a x false = .ok () z → z.warp? c.r = some y →
          Ends s c (.ldl o) (z.setVs c.r l o.d.toNat (extendLoad (szBytes o.sz) o.sx (y.lineBytes a x (szBytes o.sz)))) [] [])) ∧
      (∀ o u w, Issues s c (.stl o) → c.lanesFor (.stl o) = [l] → binding o.ln l = .bound a v m k → denied true m = false →
        (stlData c.wp o l).2 = false → sound o.off o.ln (szBytes o.sz) l → (c.wp.holds a = true ∨ f.blocked = []) → start = some u →
        u.warp? c.r = some w → ready o.ln w →
        let x := (at_ o.off o.ln l).toNat
        (∀ t z, pinnedAccess u c l a x true = .trap t z → Ends s c (.stl o) z [t] []) ∧
        (∀ z, pinnedAccess u c l a x true = .ok () z → Ends s c (.stl o) (storeHeld z c.r a x (stlData c.wp o l).1) [] [])) ∧
      (c.wp.holds a = false → f.blocked = [l] →
        let off_ : List Leave := [{ mask := maskOf [l], pc := c.ent.pc, st := .capBlocked }]
        let u := (s.modWarp c.r (·.takeFit f)).modWarp c.r Warp.release
        (∀ o, Issues s c (.ldl o) → c.helpers = [] → c.lanesFor (.ldl o) = [l] → binding o.ln l = .bound a v m k → denied false m = false →
          sound o.off o.ln (szBytes o.sz) l → Ends s c (.ldl o) u [] off_) ∧
        (∀ o, Issues s c (.stl o) → c.lanesFor (.stl o) = [l] → binding o.ln l = .bound a v m k → denied true m = false →
          (stlData c.wp o l).2 = false → sound o.off o.ln (szBytes o.sz) l → Ends s c (.stl o) u [] off_)))) ∧
  (∀ (s t : State) (c : Ctx) (l : Nat) (a : VAddr) (off : Nat) (write : Bool) (w : Warp) (h : HeldLine) (x : TRes),
    s.warp? c.r = some w → w.held? a = some h → (w.registered h.home write = false ∨ h.stale = true) →
    s.home { core := c.blk.core, lane := some (c.r, l) } c.grid.ctx a = (x, t) →
    match x with
    | .migrating => pinnedAccess s c l a off write = .held s
    | .fail => pinnedAccess s c l a off write = .trap (mkTrap l 9 0 (elemAt a off) 3) t
    | .ok pa =>
      let u := t.modWarp c.r fun w => w.modHeld a (HeldLine.rehome (lineOf pa))
      if t.unreachable c.grid.ctx pa then pinnedAccess s c l a off write = .trap (mkTrap l 9 0 (elemAt a off) 2) t
      else ∀ v, u.warp? c.r = some v → v.region.length < 256 → v.registered (lineOf pa) write = false →
        (u.mustQueue c.r v (lineOf pa) = true → pinnedAccess s c l a off write = .held u) ∧
        (u.mustQueue c.r v (lineOf pa) = false →
          (∀ sub aux, u.conflict c.r (lineOf pa) write false = some (sub, aux) →
            pinnedAccess s c l a off write = .trap (mkTrap l 0x0A sub (elemAt a off) aux) u) ∧
          (u.conflict c.r (lineOf pa) write false = none → h.pinned = true → h.parked = false →
            ∃ z y g, pinnedAccess s c l a off write = .ok () z ∧ z.warp? c.r = some y ∧ y.registered (lineOf pa) write = true ∧
              y.held? a = some g ∧ g.home = lineOf pa ∧ g.stale = false))) ∧
  (∀ (s t : State) (r : WarpRef) (l : Nat) (a : VAddr) (w : Warp) (h : HeldLine), s.warp? r = some w → w.held? a = some h → h.parked = true →
    h.pinned = true →
    (s.home { core := s.coreOf r.b, lane := some (r, l) } (s.ctxOf r.b) a = (.migrating, t) → repinLine s r l a = none) ∧
    (s.home { core := s.coreOf r.b, lane := some (r, l) } (s.ctxOf r.b) a = (.fail, t) →
      ∃ u v, repinLine s r l a = some u ∧ u.warp? r = some v ∧ ((a, false) ∉ w.bindings.filterMap bindLine? → v.held? a = none) ∧
        ∀ i, i < w.lanes.length → ∀ ln view m k, (w.lane i).bind ln = .bound a view m k →
          (v.lane i).bind ln = if m = .s then .bound a view m k else .poisoned (elemAt a k.toNat) view m k) ∧
    (∀ pa, s.home { core := s.coreOf r.b, lane := some (r, l) } (s.ctxOf r.b) a = (.ok pa, t) → w.stores = [] → w.pins a = true →
      h.home = lineOf pa → h.data.length = 128 → (∀ g ∈ w.held, g.line = a ∨ g.home ≠ lineOf pa) → w.held.filter (fun g => g.line == a) = [h] →
      t.badRange (lineOf pa) 128 = false →
      ∃ u v g, repinLine s r l a = some u ∧ u.warp? r = some v ∧ v.held? a = some g ∧ g.parked = false ∧ g.stale = false ∧ g.pinned = true ∧
        g.dirty = h.dirty ∧ g.data.length = 128 ∧
        ∀ k, k < 128 → g.data[k]? = if h.dirty.getLsbD k then h.data[k]? else (t.bytes (lineOf pa) 128)[k]?)) ∧
  (∀ (h : HeldLine) (off : Nat) (bs : List Byte), h.data.length = 128 → off + bs.length ≤ 128 →
    let g := storeLine off bs h
    g.data.length = 128 ∧ (h.show off bs).data = g.data ∧ (h.show off bs).dirty = h.dirty ∧ ∀ k, k < 128 →
      g.data[k]? = (if off ≤ k ∧ k < off + bs.length then bs[k - off]? else h.data[k]?) ∧
      g.dirty.getLsbD k = (h.dirty.getLsbD k || (decide (off ≤ k) && decide (k < off + bs.length))))

/-- 10 R232, R235, 06 R123, R139: LDL, STL and ATOML in mode .S act at the home, lane after lane in ascending order, a load or an atomic after the warp's own
earlier stores to the line; a write marks the warp's pinned copies of it stale. ATOML gives each lane the old value and leaves the new one. An ordered access
starts where its region end leaves the state. That a relaxed store is put behind those of the warp that are still to be performed, as 06 R136 allows, while
loads, atomics, ordered stores and the dump routine's stores act at once is the model's choice (log 3). 10 R235: what stops a lane of ATOML, in the order of
its checks: CLOSED_LINE, LINE_BOUND with the cursor, PROTECTION of a binding not in mode .S or of a view without the write right, POISON_CONSUMED SUB 2. An STL
through a view without that right raises PROTECTION, and an access that meets a conflicting registration MM_CONFLICT (06 R128). -/
def Obligations.SyncAccessesActAtTheHome : Prop :=
  ∀ (s : State) (c : Ctx) (line : Nat → VAddr) (view : Nat → BitVec 6) (cur : Nat → BitVec 7) (pa : Nat → PAddr),
    let start (ord : Order) : State := if ord = .rlx then s else (endRegion s c.r).1
    let free (ord : Order) : Prop := ord = .rlx ∨ (endRegion s c.r).2 = true
    let at_ (off : LineOff) (l : Nat) : Int := match off with | .imm x => ((cur l).toNat : Int) + x.toInt | .reg r => (c.val r l).toInt
    let sound (off : LineOff) (n l : Nat) : Prop :=
      (∀ r, off = .reg r → c.bad r l = false) ∧ 0 ≤ at_ off l ∧ at_ off l % n = 0 ∧ at_ off l + n ≤ 128
    (∀ o, Issues s c (.ldl o) → c.helpers = [] → free o.ord →
      (∀ l ∈ c.lanesFor (.ldl o), sound o.off (szBytes o.sz) l ∧
        Synced (start o.ord) c l o.ln (.bound (line l) (view l) .s (cur l)) (line l) (at_ o.off l).toNat (szBytes o.sz) false (pa l)) →
      Ends s c (.ldl o) ((c.lanesFor (.ldl o)).foldl (fun u l =>
        let t := u.reaches c.r (pa l) true false
        t.setVs c.r l o.d.toNat (extendLoad (szBytes o.sz) o.sx (t.bytes (pa l) (szBytes o.sz)))) (start o.ord)) [] []) ∧
    (∀ o, Issues s c (.stl o) → free o.ord →
      (∀ l ∈ c.lanesFor (.stl o), sound o.off (szBytes o.sz) l ∧ (stlData c.wp o l).2 = false ∧ (c.kern.view (view l)).wr = true ∧
        Synced (start o.ord) c l o.ln (.bound (line l) (view l) .s (cur l)) (line l) (at_ o.off l).toNat (szBytes o.sz) true (pa l)) →
      Ends s c (.stl o) ((c.lanesFor (.stl o)).foldl (fun u l =>
        let t := u.reaches c.r (pa l) false true
        if o.ord = .rlx ∧ c.grid.ctx ≠ sysCtx then
          t.modWarp c.r fun w => { w with stores := w.stores ++ [{ pa := pa l, bytes := (stlData c.wp o l).1 }] }
        else t.putBytes (pa l) (stlData c.wp o l).1) (start o.ord)) [] []) ∧
    (∀ o, Issues s c (.atoml o) → free o.ord →
      let size := if o.pair then 8 else 4
      (∀ l ∈ c.lanesFor (.atoml o), (cur l).toNat % size = 0 ∧ (atomArg c.wp o.pair o.op o.b l).2.2 = false ∧
        (c.kern.view (view l)).wr = true ∧
        Synced (start o.ord) c l o.ln (.bound (line l) (view l) .s (cur l)) (line l) (cur l).toNat size true (pa l)) →
      Ends s c (.atoml o) ((c.lanesFor (.atoml o)).foldl (fun u l =>
        let t := u.reaches c.r (pa l) true true
        let x := atomApply o.pair o.op (t.bytes (pa l) size) (atomArg c.wp o.pair o.op o.b l).1 (atomArg c.wp o.pair o.op o.b l).2.1
        (t.putBytes (pa l) x.2).setVs c.r l o.d.toNat x.1) (start o.ord)) [] []) ∧
    (∀ o (t : Nat → LaneTrap), Issues s c (.atoml o) →
      (∀ l ∈ c.lanesFor (.atoml o),
        let b := (c.wp.lane l).bind o.ln
        let k := b.cursor.toNat
        let closed (v : BitVec 6) (m : Mode) : Bool := m != .s || !(c.kern.view v).wr
        if b = .unbound then t l = mkTrap l 5 0 0 0
        else if k % (if o.pair then 8 else 4) ≠ 0 then t l = mkTrap l 6 0 0 (BitVec.ofNat 32 k)
        else match b with
          | .zero a _ _ _ => t l = mkTrap l 9 0 (elemAt a k) 0
          | .poisoned a v m _ => t l = if closed v m then mkTrap l 9 0 a 0 else c.wp.poisonTrap l 2
          | .bound a v m _ =>
            if closed v m then t l = mkTrap l 9 0 (elemAt a k) 0 else (atomArg c.wp o.pair o.op o.b l).2.2 = true ∧ t l = c.wp.poisonTrap l 2
          | .unbound => False) →
      Ends s c (.atoml o) s ((c.lanesFor (.atoml o)).map t) []) ∧
    (∀ o, Issues s c (.stl o) → free o.ord →
      (∀ l ∈ c.lanesFor (.stl o), sound o.off (szBytes o.sz) l ∧ (stlData c.wp o l).2 = false ∧ (c.kern.view (view l)).wr = false ∧
        Synced (start o.ord) c l o.ln (.bound (line l) (view l) .s (cur l)) (line l) (at_ o.off l).toNat (szBytes o.sz) true (pa l)) →
      Ends s c (.stl o) (start o.ord) ((c.lanesFor (.stl o)).map fun l => mkTrap l 9 0 (elemAt (line l) (at_ o.off l).toNat) 0) []) ∧
    (∀ (l : Nat) (a : VAddr) (off size : Nat) (rd wr : Bool) (t : State) (pa sub : Nat) (aux : W32),
      syncTranslate s { core := c.blk.core, lane := some (c.r, l) } c.grid.ctx (elemAt a off) rd wr = (.ok pa, t) →
      t.unreachable c.grid.ctx pa = false → t.conflict c.r (lineOf pa) wr true = some (sub, aux) →
      syncAccess s c l a off size rd wr = .trap (mkTrap l 0x0A sub (elemAt a off) aux) t)
/-! ## Scratchpad, waits, barriers and messages (05 R114-R120, 10 R238-R252) -/

/-- 05 R97, 10 R223: where a lane's element of a block-local or a gang's scratchpad view lies, with the bank permutation, and when it is outside; the coordinate behind the
last names the block of the gang, from 0 to G - 1. That the element of a block that has left its core is taken as outside with 5 is the model's choice (log 100).
10 R239, R241: one lane of LDS, LDSM, STS and ATOMS at an element that no card's footprint covers, and of SIGA at any, while no warp watches the scratchpad; a lane
of LDS or LDSM outside the view loads zeros under OOB zero; else it raises VIEW_BOUND, and so does one of STS, ATOMS and SIGA. LDSM raises it with 6 at an element out of
alignment, with 5 where it would pass the end of scratchpad. A poisoned coordinate raises POISON_CONSUMED SUB 6, poisoned data of STS SUB 1 and of ATOMS SUB 2, and an
element in a card's footprint MM_CONFLICT SUB 5; that the element is tested before the datum and the footprint last is the model's choice (log 101). -/
def Obligations.ScratchpadElements : Prop :=
  (∀ (s : State) (c : Ctx) (v : View) (b : Reg) (l : Nat),
     let x (k : Nat) : Int := (c.val (regPlus b k) l).toInt
     let out (k : Nat) : Prop := x k < 0 ∨ ((nth 0 v.ext k).toNat : Int) ≤ x k
     let a : Int := v.base.toNat + ((List.range v.rank).map fun k => x k * (nth 0 v.str k).toInt).sum * v.size
     v.space = 1 → v.rank ≤ v.ext.length → v.rank ≤ v.str.length →
     ((∃ k, k < v.rank ∧ c.bad (regPlus b k) l = true) → scratchElem s c v b l = .poison) ∧
     ((∀ k, k < v.rank → c.bad (regPlus b k) l = false) →
       (∀ d, d < v.rank → out d → (∀ k, k < d → ¬ out k) → scratchElem s c v b l = .outside d) ∧
       ((∀ k, k < v.rank → ¬ out k) →
         let p : Nat := a.toNat ^^^ (((a.toNat / 128 % 32) &&& v.bpmask.toNat) * 4)
         scratchElem s c v b l = if a < 0 ∨ 1572864 ≤ p then .outside 5 else .place c.r.b p))) ∧
  (∀ (s : State) (c : Ctx) (v : View) (b : Reg) (l : Nat),
     let x (k : Nat) : Int := (c.val (regPlus b k) l).toInt
     let out (k : Nat) : Prop := x k < 0 ∨ ((nth 0 v.ext k).toNat : Int) ≤ x k
     let a : Int := v.base.toNat + ((List.range v.rank).map fun k => x k * (nth 0 v.str k).toInt).sum * v.size
     v.space = 2 → v.rank ≤ v.ext.length → v.rank ≤ v.str.length →
     ((∃ k, k < v.rank + 1 ∧ c.bad (regPlus b k) l = true) → scratchElem s c v b l = .poison) ∧
     ((∀ k, k < v.rank + 1 → c.bad (regPlus b k) l = false) →
       (∀ d, d < v.rank → out d → (∀ k, k < d → ¬ out k) → scratchElem s c v b l = .outside d) ∧
       ((∀ k, k < v.rank → ¬ out k) →
         let p : Nat := a.toNat ^^^ (((a.toNat / 128 % 32) &&& v.bpmask.toNat) * 4)
         scratchElem s c v b l =
           if x v.rank < 0 ∨ (c.kern.gang : Int) ≤ x v.rank ∨ a < 0 ∨ 1572864 ≤ p then .outside 5
           else match gangBlock s c.blk.grid c.blk.lin c.kern.gang (x v.rank).toNat with
             | some k => .place k p
             | none => .outside 5))) ∧
  (∀ (s : State) (c : Ctx) (l blk off : Nat), (∀ r w, s.warp? r = some w → w.watches = false) →
     let put (t : State) (bs : List Byte) : State := t.modBlock blk fun k => { k with bytes := memPut k.bytes off bs }
     let here (v : BitVec 6) (b : Reg) (w : Bool) : Prop :=
       scratchElem s c (c.kern.view v) b l = .place blk off ∧ s.scratchConflict c.r blk off w = none
     let spot (v : BitVec 6) (b : Reg) : Prop := scratchElem s c (c.kern.view v) b l = .place blk off
     (∀ o : LdsOp, here o.v o.b false → ldsLane o c s l = .ok () (s.setVs c.r l o.d.toNat
       (extendLoad (c.kern.view o.v).size (etypeSigned (c.kern.view o.v).etype) (s.scratchBytes blk off (c.kern.view o.v).size)))) ∧
     (∀ (o : LdsOp) (d : Nat), scratchElem s c (c.kern.view o.v) o.b l = .outside d → ldsLane o c s l =
       if (c.kern.view o.v).oobZero then .ok () (s.setVs c.r l o.d.toNat (List.replicate (if o.sz = 1 then 2 else 1) zeroPW))
       else .trap (mkTrap l 7 0 0 (BitVec.ofNat 32 d)) s) ∧
     (∀ (o : LdsOp) (n : Nat), (n = 8 ∨ n = 16) → here o.v o.b false → off % n = 0 → off + n ≤ 1572864 →
       ldsmLane o n c s l = .ok () (s.setVs c.r l o.d.toNat ((List.range (n / 4)).map fun k =>
         { val := s.scratchWord blk (off + 4 * k), poison := false }))) ∧
     (∀ (o : LdsOp) (n : Nat), (n = 8 ∨ n = 16) →
       (∀ d, scratchElem s c (c.kern.view o.v) o.b l = .outside d → ldsmLane o n c s l =
         if (c.kern.view o.v).oobZero then .ok () (s.setVs c.r l o.d.toNat (List.replicate (n / 4) zeroPW))
         else .trap (mkTrap l 7 0 0 (BitVec.ofNat 32 d)) s) ∧
       (spot o.v o.b → off % n ≠ 0 → ldsmLane o n c s l = .trap (mkTrap l 7 0 0 6) s) ∧
       (spot o.v o.b → off % n = 0 → 1572864 < off + n → ldsmLane o n c s l = .trap (mkTrap l 7 0 0 5) s)) ∧
     (∀ d, let bound : AccRes Unit := .trap (mkTrap l 7 0 0 (BitVec.ofNat 32 d)) s
       (∀ o : StsOp, scratchElem s c (c.kern.view o.v) o.b l = .outside d → stsLane o c s l = bound) ∧
       (∀ o : AtomsOp, scratchElem s c (c.kern.view o.v) o.b l = .outside d → atomsLane o c s l = bound) ∧
       (∀ o : SigaOp, scratchElem s c (c.kern.view o.v) o.b l = .outside d → sigaLane o c s l = bound)) ∧
     (let poison : AccRes Unit := .trap (c.wp.poisonTrap l 6) s
      (∀ o : LdsOp, scratchElem s c (c.kern.view o.v) o.b l = .poison →
         ldsLane o c s l = poison ∧ ldsmLane o 8 c s l = poison ∧ ldsmLane o 16 c s l = poison) ∧
       (∀ o : StsOp, scratchElem s c (c.kern.view o.v) o.b l = .poison → stsLane o c s l = poison) ∧
       (∀ o : AtomsOp, scratchElem s c (c.kern.view o.v) o.b l = .poison → atomsLane o c s l = poison)) ∧
     (∀ aux, let met : AccRes Unit := .trap (mkTrap l 0x0A 5 (BitVec.ofNat 57 off) aux) s
       (∀ o : LdsOp, spot o.v o.b → s.scratchConflict c.r blk off false = some aux → ldsLane o c s l = met) ∧
       (∀ o : StsOp, spot o.v o.b → s.scratchConflict c.r blk off true = some aux →
         (if o.sz = 1 then c.pairBad o.d l else c.bad o.d l) = false → stsLane o c s l = met) ∧
       (∀ o : AtomsOp, spot o.v o.b → s.scratchConflict c.r blk off true = some aux → (atomArg c.wp o.pair o.op o.c l).2.2 = false →
         atomsLane o c s l = met)) ∧
     (∀ o : StsOp, spot o.v o.b → (if o.sz = 1 then c.pairBad o.d l else c.bad o.d l) = true →
       stsLane o c s l = .trap (c.wp.poisonTrap l 1) s) ∧
     (∀ o : AtomsOp, spot o.v o.b → (atomArg c.wp o.pair o.op o.c l).2.2 = true → atomsLane o c s l = .trap (c.wp.poisonTrap l 2) s) ∧
     (∀ o : StsOp, here o.v o.b true → (if o.sz = 1 then c.pairBad o.d l else c.bad o.d l) = false →
       stsLane o c s l = .ok () (put s (natLE (szBytes o.sz) (if o.sz = 1 then (c.pairVal o.d l).toNat else (c.val o.d l).toNat)))) ∧
     (∀ o : AtomsOp, here o.v o.b true → (atomArg c.wp o.pair o.op o.c l).2.2 = false →
       let x := atomApply o.pair o.op (s.scratchBytes blk off (if o.pair then 8 else 4)) (atomArg c.wp o.pair o.op o.c l).1
         (atomArg c.wp o.pair o.op o.c l).2.1
       atomsLane o c s l = .ok () ((put s x.2).setVs c.r l o.d.toNat x.1)) ∧
     (∀ o : SigaOp, spot o.v o.b → c.bad o.c l = false → sigaLane o c s l = .ok () (put s (natLE 4 (c.val o.c l).toNat))))

/-- 10 R239, R244, R249, R252: LDS, STS, ATOMS, LDSM, SIGA, BARB.post, SEND and RINGADV perform their active lanes in ascending order and complete,
with the lanes that trap parted off. SIGA and an ordered ATOMS start where the region end leaves the state. -/
def Obligations.ScratchpadWordsRunTheirLanes : Prop :=
  ∀ (s : State) (c : Ctx),
    let rule (i : Instr) (f : State → Nat → AccRes Unit) (from_ : State) : Prop :=
      ∀ u ts, Issues s c i → eachLane f (c.lanesFor i) from_ = .ok (u, ts) → Ends s c i u ts []
    (∀ o, c.helpers = [] → rule (.lds o) (ldsLane o c) s) ∧ (∀ o, rule (.sts o) (stsLane o c) s) ∧
    (∀ o, o.ord = .rlx → rule (.atoms o) (atomsLane o c) s) ∧
    (∀ o, o.ord ≠ .rlx → (endRegion s c.r).2 = true → rule (.atoms o) (atomsLane o c) (endRegion s c.r).1) ∧
    (∀ o, c.helpers = [] → rule (.ldsmB64 o) (ldsmLane o 8 c) s) ∧ (∀ o, c.helpers = [] → rule (.ldsmB128 o) (ldsmLane o 16 c) s) ∧
    (∀ o, (endRegion s c.r).2 = true → rule (.siga o) (sigaLane o c) (endRegion s c.r).1) ∧
    (∀ o, rule (.barbPost o) (barbPostLane o c) s) ∧ (∀ o, rule (.send o) (sendLane o c) s) ∧
    (∀ o, rule (.ringadv o) (ringadvLane o (ringadvWho o s c (c.lanesFor (.ringadv o))) c) s)

/-- 10 R252: a lane of SEND puts its message at the slot of TAIL and advances TAIL, or counts a drop when the ring is full; a lane of RINGADV advances HEAD
by at most the messages there are. -/
def Obligations.MessageRingsFillAndDrain : Prop :=
  ∀ (s : State) (c : Ctx) (l blk off : Nat), (∀ r w, s.warp? r = some w → w.watches = false) →
    let x := s.ring blk off
    let put (t : State) (a : Nat) (bs : List Byte) : State := t.modBlock blk fun k => { k with bytes := memPut k.bytes a bs }
    (∀ o : SendOp, scratchElem s c (c.kern.view o.v) o.b l = .place blk off → x.check off (o.n1.toNat + 1) = none →
      (∀ k, k ≤ o.n1.toNat → c.bad (regPlus o.c k) l = false) →
      sendLane o c s l =
        if x.nslot ≤ (x.tail - x.head).toNat then
          .ok () ((put s (off + 12) (natLE 4 (x.drops + 1).toNat)).modWarp c.r (·.modLane l (·.setPred o.pd { val := false, poison := false })))
        else
          let slot := off + 16 + x.tail.toNat % x.nslot * x.slotb
          let body := (List.range (o.n1.toNat + 1)).flatMap fun k => natLE 4 (c.val (regPlus o.c k) l).toNat
          .ok () ((put (put s slot (natLE 4 (4 * (o.n1.toNat + 1)) ++ body)) (off + 4) (natLE 4 (x.tail + 1).toNat)).modWarp c.r
            (·.modLane l (·.setPred o.pd { val := true, poison := false })))) ∧
    (∀ (o : RingadvOp) (who : Option Nat), scratchElem s c (c.kern.view o.v) o.b l = .place blk off → x.check off 0 = none →
      c.bad o.c l = false →
      let k : W32 := if c.val o.c l < x.tail - x.head then c.val o.c l else x.tail - x.head
      let t := put s off (natLE 4 (x.head + k).toNat)
      ringadvLane o who c s l = .ok ()
        (if o.d.s then (if some l = who then t.modWarp c.r (·.setSs o.d.n.toNat [{ val := k, poison := false }]) else t)
         else t.setVs c.r l o.d.n.toNat [{ val := k, poison := false }]))

/-- 10 R242-R245, R248: WAITA ends at once with pd false when every lane's test holds, else its lanes wait for their words; FENCE ends the region; WAITF
goes on when its flags are clear, else waits. A wait that ends at issue is a region end. That the lanes which the guard leaves out go on while the others wait
is the model's choice (log 72). -/
def Obligations.WaitsAndFencesComplete : Prop :=
  ∀ (s : State) (c : Ctx) (u : State), endRegion s c.r = (u, true) →
    (∀ (o : WaitaOp) (blk off : Nat → Nat), Issues s c (.waita o) →
      let act := c.lanesFor (.waita o)
      let holds (l : Nat) : Bool := waitaTest o.cmp (s.scratchWord (blk l) (off l)) (c.val o.c l)
      (∀ l ∈ act, scratchElem s c (c.kern.view o.v) o.b l = .place (blk l) (off l)) →
      ((∀ l ∈ act, holds l = true) → Ends s c (.waita o)
        (u.modWarp c.r fun w => w.mapLanes act fun _ x => x.setPred o.pd { val := false, poison := false }) [] []) ∧
      ((∃ l ∈ act, holds l = false) → Ends s c (.waita o) s []
        [{ mask := maskOf act, pc := c.ent.pc, st := .waiting (.waita (act.map fun l => { lane := l, blk := blk l, off := off l, cmp := o.cmp, c := c.val o.c l, sat := holds l }) o.pd
          (waitaDeadline s.cycle (act.map fun l => c.val (regPlus o.c 1) l))) }])) ∧
    (∀ o, Issues s c (.fence o) → Ends s c (.fence o) u [] []) ∧
    (∀ o, Issues s c (.waitf o) →
      ((∀ k, k < 12 → o.mask.getLsbD k = true → (c.wp.flags[k]?).getD 0 = 0) → Ends s c (.waitf o) u [] []) ∧
      ((∃ k, k < 12 ∧ o.mask.getLsbD k = true ∧ (c.wp.flags[k]?).getD 0 ≠ 0) →
        Ends s c (.waitf o) s [] [{ mask := maskOf (c.lanesFor (.waitf o)), pc := c.ent.pc, st := .waiting (.waitf o.mask) }]))

/-- 10 R247: the arrivals of BAR count their lanes; the barrier passes when the count reaches the threads that have not retired, or the fixed number
of the first arrival; then its phase flips, its count returns to 0 and its waiters go on. A fixed number outside 1 to 1024 raises RESERVED_FIELD after the region end. 10 R247: GBAR counts its lanes for its block; it passes when the arrivals of the gang's blocks reach the threads of the gang that have not retired,
and then every block of the gang flips its phase and its waiters go on. -/
def Obligations.BarriersPass : Prop :=
  (∀ (s : State) (c : Ctx) (o : BarOp), Issues s c (.bar o) →
     let act := c.lanesFor (.bar o)
     let x := c.blk.bar o.k.toNat
     let fix : Option Nat := if x.count = 0 then o.n.map fun r => ((c.wp.s[r.toNat]?).getD zeroPW).val.toNat else none
     (∀ u n, endRegion s c.r = (u, true) → fix = some n → n < 1 ∨ 1024 < n → Ends s c (.bar o) u (act.map fun l => mkTrap l 2 0 0 0) []) ∧
     ∀ (u : State), endRegion s c.r = (u, true) → (∀ n, fix = some n → 1 ≤ n ∧ n ≤ 1024) → o.k.toNat < c.blk.bars.length →
       let fixed : Option Nat := match x.nfix with | some m => some m | none => fix
       let alive : Nat := (c.blk.warps.map fun w => (w.lanes.filter fun l => !l.retired).length).sum
       (x.count + act.length < fixed.getD alive → Ends s c (.bar o)
         (u.modBlock c.r.b fun k => { k with bars := k.bars.modify o.k.toNat fun y =>
           { count := y.count + act.length, arrived := y.arrived ||| (1 <<< c.r.w), phase := y.phase, nfix := fixed } })
         [] [{ mask := maskOf act, pc := c.ent.pc, st := .waiting (.barrier o.k.toNat x.phase) }]) ∧
       (fixed.getD alive ≤ x.count + act.length → Ends s c (.bar o)
         (u.modBlock c.r.b fun k => ({ k with bars := k.bars.modify o.k.toNat fun y =>
           { count := 0, arrived := 0, phase := !y.phase, nfix := none } }).wake (.barrier o.k.toNat x.phase)) [] [])) ∧
  (∀ (s : State) (c : Ctx) (o : GbarOp) (u : State), Issues s c (.gbar o) → endRegion s c.r = (u, true) → o.k.toNat < c.blk.gbars.length →
     let act := c.lanesFor (.gbar o)
     let x := c.blk.gbar o.k.toNat
     let u1 := u.modBlock c.r.b fun k => k.setGbar o.k.toNat fun y => y.arrive act.length c.r.w none
     let gang := gangOf u1 c.r.b
     let came := gangSum u1 gang fun k => (k.gbar o.k.toNat).count
     let alive := gangSum u1 gang Block.alive
     (came < alive → Ends s c (.gbar o) u1 [] [{ mask := maskOf act, pc := c.ent.pc, st := .waiting (.gbarrier o.k.toNat x.phase) }]) ∧
     (alive ≤ came → c.r.b ∈ gang → Ends s c (.gbar o) (checkGbar u1 c.r.b o.k.toNat) [] [] ∧
       ∀ b ∈ gang, ∀ k, u1.blocks[b]? = some k → o.k.toNat < k.gbars.length →
         ∃ k2, (checkGbar u1 c.r.b o.k.toNat).blocks[b]? = some k2 ∧
           k2.gbar o.k.toNat = { count := 0, arrived := 0, phase := !(k.gbar o.k.toNat).phase, nfix := none }))

/-- 05 R120: a byte-barrier record after a post and after a delivery. The phase flips and PENDING clears when a posted record's count reaches 0; an
undershoot sets OVR; a post beyond 2^31 - 1 is refused. 10 R249, 05 R120: a lane of BARB.post replaces its record and receives the phase before the post; BARB.wait goes on when every lane's PHASE differs
from its q, else it waits with its word, and a record with OVR set raises BARRIER_OVERRUN. That the lanes which the guard leaves out go on while the others
wait is the model's choice (log 72). -/
def Obligations.ByteBarriers : Prop :=
  ((∀ (x : BarbRec) (e : Nat), x.count + e ≤ 2 ^ 31 - 1 → e < 2 ^ 31 → -(2 ^ 31) ≤ x.count → ∃ y, x.post e = some y ∧ y.count = x.count + e ∧
     (x.count + e > 0 → y.high = x.high ||| 0x40000000) ∧
     (x.count + e = 0 → y.high = ((x.high ||| 0x40000000) ^^^ 0x20000000) &&& 0xBFFFFFFF) ∧
     (x.count + e < 0 → y.high = x.high ||| 0xC0000000)) ∧
   (∀ (x : BarbRec) (e : Nat), e < 2 ^ 31 → x.count + e > 2 ^ 31 - 1 → x.post e = none) ∧
   (∀ (x : BarbRec) (n : Nat), -(2 ^ 31) ≤ x.count - n →
     (x.deliver n).count = x.count - n ∧
     (x.count - n > 0 → (x.deliver n).high = x.high) ∧
     (x.count - n = 0 → (x.deliver n).high =
       if x.high.getLsbD 30 then (x.high ^^^ 0x20000000) &&& 0xBFFFFFFF else x.high) ∧
     (x.count - n < 0 → (x.deliver n).high = if x.high.getLsbD 30 then x.high ||| 0x80000000 else x.high))) ∧
  (∀ (s : State) (c : Ctx),
     (∀ (o : BarbPostOp) (l blk off : Nat) (y : BarbRec), (∀ r w, s.warp? r = some w → w.watches = false) →
       scratchElem s c (c.kern.view o.v) o.b l = .place blk off → c.bad o.c l = false →
       (s.barb blk off).post (c.val o.c l).toNat = some y →
       barbPostLane o c s l = .ok () ((s.modBlock blk fun k =>
         { k with bytes := memPut k.bytes off (natLE 4 (BitVec.ofInt 32 y.count).toNat ++ natLE 4 y.high.toNat) }).setVs c.r l o.d.toNat
           [{ val := if (s.barb blk off).high.getLsbD 29 then 1 else 0, poison := false }])) ∧
     (∀ (o : BarbWaitOp) (blk off : Nat → Nat) (u : State), Issues s c (.barbWait o) → endRegion s c.r = (u, true) →
       let act := c.lanesFor (.barbWait o)
       let high (l : Nat) : W32 := s.barbWord (blk l) (off l)
       let q (l : Nat) : Bool := (c.val o.c l).getLsbD 0
       (∀ l ∈ act, scratchElem s c (c.kern.view o.v) o.b l = .place (blk l) (off l)) →
       ((∀ l ∈ act, (high l).getLsbD 31 = false ∧ (high l).getLsbD 29 ≠ q l) → Ends s c (.barbWait o) u [] []) ∧
       ((∀ l ∈ act, (high l).getLsbD 31 = false) → (∃ l ∈ act, (high l).getLsbD 29 = q l) → Ends s c (.barbWait o) s []
         [{ mask := maskOf act, pc := c.ent.pc,
            st := .waiting (.barb (act.map fun l => { lane := l, blk := blk l, off := off l, q := q l, word := c.cur.word })) }]) ∧
       ((∀ l ∈ act, (high l).getLsbD 31 = true) → Ends s c (.barbWait o) u (act.map fun l => mkTrap l 0x0D 0 0 0) [])))

/-! ## Job cards, graph nodes and launches (11 R256-R278, 12 R280-R303) -/

/-- 11 R256-R263: each card word acts once, for the lowest active lane; when the record at its coordinates can be read and passes its checks, the region's
registrations of the card's lines end and the card enters its queue, or waits at the word while the queue or its flag has no room. That without room the card is made
and the region's lines are ended first, and the whole entry then waits at the word, is the model's choice (log 68, DEDUCED), where 07 R159 speaks of a word that waits
before it issues. -/
def Obligations.CardWordsEnqueueTheirCard : Prop :=
  ∀ (s : State) (c : Ctx),
    let rule (i : Instr) (x : CardWord) : Prop :=
      ∀ (u : State) (blk off fo fb : Nat) (rb db : List Byte), Issues s c i →
        (c.wp.coords x.b (c.kern.view x.v) (c.first i)).2 = false →
        readRecord s c (c.kern.view x.v) (c.wp.coords x.b (c.kern.view x.v) (c.first i)).1 256 256 = .ok blk off rb →
        readDesc s c x.op rb = .ok fo fb db →
        recordFail c.kern x.op rb db (flagOf c).isSome (x.dest != 256) = none →
        let card := newCard c x (flagOf c) blk off rb db
        endRegionLines s c.r ((cardLines s card).filterMap fun f => match f.at_ with | .virt va => some va | _ => none)
          ((cardLines s card).filterMap fun f => match footOf s c.grid.ctx f.at_ with | some (.line pa) => some pa | _ => none) = (u, true) →
        if hasRoom u card then Ends s c i (enqueue u card) [] []
        else Ends s c i { u with cards := u.cards ++ [{ card with id := u.nextCard }], nextCard := u.nextCard + 1 } []
          [{ mask := c.ent.mask, pc := c.ent.pc, st := .waiting (.cardRoom u.nextCard) }]
    (∀ o, rule (.cpy o) (cpyWord 0xB0 o)) ∧ (∀ o, rule (.cpyf o) (cpyWord 0xB1 o)) ∧ (∀ o, rule (.cpyp o) (cpyWord 0xB2 o)) ∧
    (∀ o, rule (.cpyq o) (cpyWord 0xB3 o)) ∧ (∀ o, rule (.mma o) (engWord 0xB8 4 o)) ∧ (∀ o, rule (.mmadrain o) (engWord 0xBA 4 o)) ∧
    (∀ o, rule (.attn o) { op := 0xC0, eng := 5, v := o.v, b := o.b, gm := o.gm, dest := o.d.toNat }) ∧
    (∀ o, rule (.kvappend o) (engWord 0xC1 5 o)) ∧ (∀ o, rule (.kvmap o) (engWord 0xC2 5 o)) ∧ (∀ o, rule (.kvrot o) (engWord 0xC3 5 o)) ∧
    (∀ o, rule (.embg o) (engWord 0xC4 6 o)) ∧ (∀ o, rule (.embu o) (engWord 0xC5 6 o)) ∧ (∀ o, rule (.embswap o) (engWord 0xC6 6 o))

/-- 11 R256, R258, R262, 05 R113: a card word with a poisoned coordinate, a record out of place, or a record that breaks a rule traps in every active
lane, and no card is made; TFAUX names the engine and the offset of the lowest failing field (its byte: log 47). A KV word whose descriptor is out of place
traps alike, and one whose descriptor breaks 12 Table 12.2 names 0x8000 plus the field's offset (12 R279, R287). -/
def Obligations.CardWordsRefuseBadRecords : Prop :=
  (∀ (s : State) (c : Ctx),
    let rule (i : Instr) (x : CardWord) : Prop :=
      let act := c.lanesFor i
      let at_ := c.wp.coords x.b (c.kern.view x.v) (c.first i)
      Issues s c i →
      (at_.2 = true → Ends s c i s (act.map fun l => c.wp.poisonTrap l 4) []) ∧
      (∀ code sub addr aux, at_.2 = false → readRecord s c (c.kern.view x.v) at_.1 256 256 = .trap code sub addr aux →
        Ends s c i s (act.map fun l => mkTrap l code sub addr aux) []) ∧
      (∀ blk off rb code sub addr aux, at_.2 = false → readRecord s c (c.kern.view x.v) at_.1 256 256 = .ok blk off rb →
        readDesc s c x.op rb = .trap code sub addr aux → Ends s c i s (act.map fun l => mkTrap l code sub addr aux) []) ∧
      (∀ blk off rb fo fb db sub ro, at_.2 = false → readRecord s c (c.kern.view x.v) at_.1 256 256 = .ok blk off rb →
        readDesc s c x.op rb = .ok fo fb db → recordFail c.kern x.op rb db (flagOf c).isSome (x.dest != 256) = some (sub, ro) →
        Ends s c i s (act.map fun l => mkTrap l 0x0E sub 0 (BitVec.ofNat 32 (ro + x.eng * 2 ^ 24))) [])
    (∀ o, rule (.cpy o) (cpyWord 0xB0 o)) ∧ (∀ o, rule (.cpyf o) (cpyWord 0xB1 o)) ∧ (∀ o, rule (.cpyp o) (cpyWord 0xB2 o)) ∧
    (∀ o, rule (.cpyq o) (cpyWord 0xB3 o)) ∧ (∀ o, rule (.mma o) (engWord 0xB8 4 o)) ∧ (∀ o, rule (.mmadrain o) (engWord 0xBA 4 o)) ∧
    (∀ o, rule (.attn o) { op := 0xC0, eng := 5, v := o.v, b := o.b, gm := o.gm, dest := o.d.toNat }) ∧
    (∀ o, rule (.kvappend o) (engWord 0xC1 5 o)) ∧ (∀ o, rule (.kvmap o) (engWord 0xC2 5 o)) ∧ (∀ o, rule (.kvrot o) (engWord 0xC3 5 o)) ∧
    (∀ o, rule (.embg o) (engWord 0xC4 6 o)) ∧ (∀ o, rule (.embu o) (engWord 0xC5 6 o)) ∧ (∀ o, rule (.embswap o) (engWord 0xC6 6 o))) ∧
  (∀ (k : Kernel) (op : Nat) (rb db : List Byte) (flag dest : Bool) (ro : Nat), isKv op = true → spotFail k rb = none → descFail k db = some ro →
    0x8000 ≤ ro ∧ ro < 0x8040 ∧ ((∀ x, recordFail k op rb [] flag dest = some (1, x) → 0x8000 ≤ x) →
      recordFail k op rb db flag dest = some (1, ro)))

/-- 11 R263, 07 R159: what a card's entry into its queue does. A Halyard card takes the next ticket of its engine, which its s-register receives; a
card with a flag raises its count; a Mainsail card asks for the array; memory keeps every byte. -/
def Obligations.QueuesTakeCards : Prop :=
  ∀ (s : State) (c : Card) (k : Core) (w : Warp),
    let r : WarpRef := { b := c.blk, w := c.warp }
    s.cores[c.core]? = some k → k.iss.length = 4 → s.warp? r = some w →
    let t := enqueue s c
    t.mem = s.mem ∧ t.nextCard = s.nextCard + 1 ∧
    (∃ x, t.cards = s.cards ++ [x] ∧ x.id = s.nextCard ∧ x.queued = true ∧ x.record = c.record ∧ x.op = c.op ∧
      x.ticket = if c.eng < 4 ∧ c.ff = false then some ((k.iss[c.eng]?).getD 0 + 1) else none) ∧
    (∃ k2, t.cores[c.core]? = some k2 ∧ k2.seq = k.seq ∧ k2.iss = (if c.eng < 4 ∧ c.ff = false then k.iss.modify c.eng (· + 1) else k.iss) ∧
      k2.reqs = if c.eng = 4 ∧ (s.cards.all fun x => !(x.queued && x.eng == 4 && x.blk == c.blk)) ∧ k.holder ≠ some c.blk
        then k.reqs ++ [(c.blk, 1)] else k.reqs) ∧
    ∃ w2, t.warp? r = some w2 ∧ w2.lanes = w.lanes ∧ w2.entries = w.entries ∧
      w2.flags = (match c.flag with | some f => w.flags.modify f (· + 1) | none => w.flags) ∧
      w2.s = if c.eng < 4 ∧ c.ff = false ∧ c.dest < 64 then w.s.set c.dest { val := (k.iss[c.eng]?).getD 0 + 1, poison := false } else w.s

/-- 11 R268, R269, R274, R278: GSET sets an Unset guard slot, ENGWAIT goes on once its ticket is done, MMALEASE sets the lease of the block that holds the
array or asks for it, and MMAZERO enqueues a card without a record. That the lanes which the guard leaves out go on while the others wait at ENGWAIT or MMALEASE
is the model's choice (log 72). 11 R269: a ticket of an engine that the block has not brought from before a move is done when (SEQ - b) mod 2^32
is below 2^31. -/
def Obligations.EngineCommands : Prop :=
  (∀ (s : State) (c : Ctx) (u : State), endRegion s c.r = (u, true) →
     (∀ o, Issues s c (.gset o) → c.srcBad o.b (c.first (.gset o)) = false →
       ((c.blk.guards[o.slot.toNat]?).getD .unset = .unset → Ends s c (.gset o)
         (s.modBlock c.r.b fun k =>
           { k with guards := k.guards.set o.slot.toNat (if c.srcVal o.b (c.first (.gset o)) = 0 then .isFalse else .isTrue) }) [] []) ∧
       ((c.blk.guards[o.slot.toNat]?).getD .unset ≠ .unset →
         Ends s c (.gset o) s ((c.lanesFor (.gset o)).map fun l => mkTrap l 0x14 0 0 (o.slot.setWidth 32)) [])) ∧
     (∀ o, Issues s c (.engwait o) → c.srcBad o.b (c.first (.engwait o)) = false →
       let x : W32 := c.srcVal o.b (c.first (.engwait o))
       let done : Bool := ticketDone s c.r.b o.e.toNat x
       (done = true → Ends s c (.engwait o) u [] []) ∧
       (done = false → Ends s c (.engwait o) s []
         [{ mask := maskOf (c.lanesFor (.engwait o)), pc := c.ent.pc, st := .waiting (.engwait o.e.toNat x) }])) ∧
     (∀ o k, Issues s c (.mmalease o) → s.cores[c.blk.core]? = some k →
       (k.holder = some c.r.b → Ends s c (.mmalease o)
         (s.modCore c.blk.core fun y =>
           { y with lease := if k.reqs.any (fun x => x.1 != c.r.b) then min o.n.toNat k.lease else o.n.toNat }) [] []) ∧
       (k.holder ≠ some c.r.b → o.n = 0 → Ends s c (.mmalease o) s [] []) ∧
       (k.holder ≠ some c.r.b → o.n ≠ 0 → Ends s c (.mmalease o)
         (s.modCore c.blk.core fun y => { y with reqs := y.reqs ++ [(c.r.b, o.n.toNat)] }) []
         [{ mask := maskOf (c.lanesFor (.mmalease o)), pc := c.ent.pc, st := .waiting .mmaLease }])) ∧
     (∀ o, Issues s c (.mmazero o) →
       let x : CardWord := { op := 0xBB, eng := 4, v := 0, b := { s := false, n := 0 }, gm := o.gm, dest := 256 }
       let card : Card := { newCard c x (flagOf c) 0 0 (List.replicate 256 0) [] with tile := o.acc.toNat }
       ∀ v, endRegionLines s c.r [] [] = (v, true) → hasRoom v card = true → Ends s c (.mmazero o) (enqueue v card) [] [])) ∧
  (∀ (s : State) (b e : Nat) (k : Block) (x : Core) (t : W32), s.blocks[b]? = some k → k.past e t = false → s.cores[k.core]? = some x →
     (ticketDone s b e t = true ↔ (((x.seq[e]?).getD 0).toNat + 2 ^ 32 - t.toNat) % 2 ^ 32 < 2 ^ 31))

/-- 12 R302: LAUNCH reads its record, checks it, and adds a grid that the issuing grid waits for, with pd true in the issuing lane; with the
pending-launch store full it only writes pd false. 12 R300, R301, 20 R364: EMIT appends one record per active lane at the node its handle names, with pd true, while the pending-launch store has
room, as long as no migration holds what either reads; a block of the node is launched once its threshold of records waits, its first argument the count. That pd is written in the issuing lane alone, and the
child's thread count, are read by inference (log 29); that a node's launch which breaks 02 R29 or 18 R334 is rejected as 20 R357 rejects one, and has no block,
is the model's choice (log 62). -/
def Obligations.LaunchAndEmit : Prop :=
  (∀ (s : State) (c : Ctx) (o : LaunchOp) (blk off : Nat) (r : List Byte) (u : State), Issues s c (.launch o) →
     let at_ := c.wp.coords o.b (c.kern.view o.v) (c.first (.launch o))
     let child := childGrid s c r
     let pd (t : State) (x : Bool) : State := t.modWarp c.r fun w => w.mapLanes [c.first (.launch o)] fun _ l => l.setPred o.pd { val := x, poison := false }
     at_.2 = false → readRecord s c (c.kern.view o.v) at_.1 128 128 = .ok blk off r → launchFail s c r = none →
     kernStays s c.grid.ctx c.kern.obj (leNat (r.take 4) % 2 ^ 16) = false → s.badTarget c.blk.core child child.kernel.entry = none → endRegion s c.r = (u, true) →
     (pendingRoom s c.blk.core = false → Ends s c (.launch o) (pd s false) [] []) ∧
     (pendingRoom s c.blk.core = true → c.blk.grid < s.grids.length →
       (∃ t, Ends s c (.launch o) (pd t true) [] [] ∧ t.mem = u.mem ∧ t.blocks = u.blocks ∧
         t.dies = u.dies.modify (dieOf c.blk.core) (fun d => { d with pending := d.pending + 1 }) ∧
         t.grids = u.grids.modify c.blk.grid (fun g => { g with waits := g.waits ++ [u.grids.length] }) ++ [child]) ∧
       child.gx = leNat ((r.drop 8).take 4) ∧ child.gy = leNat ((r.drop 12).take 4) ∧ child.gz = leNat ((r.drop 16).take 4) ∧
       child.ctx = c.grid.ctx ∧ child.queue = c.grid.queue ∧ child.next = 0 ∧ child.cpl = none)) ∧
  (∀ (s : State) (c : Ctx) (o : EmitOp) (d : NodeDesc) (u : State), Issues s c (.emit o) →
     let act := c.lanesFor (.emit o)
     let hv : PW := (c.wp.s[o.h.toNat]?).getD zeroPW
     let h := hv.val.toNat
     let store : Option Die := u.dies[dieOf c.blk.core]?
     hv.poison = false → nodeStays s c.grid.ctx h = false → s.node? c.grid.ctx h = some d → d.fits = true → 4 * (o.n1.toNat + 1) ≤ d.recb →
     (∀ l ∈ act, ∀ k, k ≤ o.n1.toNat → c.bad (regPlus o.c k) l = false) → endRegion s c.r = (u, true) →
     (∃ x, store = some x ∧ x.pending + act.length ≤ 65536) → pendingRoom s c.blk.core = true →
     let rec1 (l : Nat) : NodeRec :=
       { ctx := c.grid.ctx, node := h, cycle := s.cycle, grid := c.blk.grid, die := dieOf c.blk.core,
         bytes := padTo d.recb ((List.range (o.n1.toNat + 1)).flatMap fun k => natLE 4 (c.val (regPlus o.c k) l).toNat) }
     let t : State := { (u.modDie (dieOf c.blk.core) fun x => { x with pending := x.pending + act.length }).modWarp c.r fun w =>
       w.mapLanes act fun _ l => l.setPred o.pd { val := true, poison := false } with nodes := u.nodes ++ act.map rec1 }
     ((waitingAt t c.grid.ctx h).length < d.thr → Ends s c (.emit o) t [] []) ∧
     (d.thr ≤ (waitingAt t c.grid.ctx h).length → Ends s c (.emit o) (launchReady c.grid.ctx h d (t.nodes.length + 1) t) [] [] ∧
       let rs := (waitingAt t c.grid.ctx h).take d.thr
       let left : State := { t with nodes := (t.nodes.filter fun r => !(r.ctx == c.grid.ctx && r.node == h)) ++ (waitingAt t c.grid.ctx h).drop d.thr }
       ∃ g ∈ (launchReady c.grid.ctx h d (t.nodes.length + 1) t).grids, g.threads = d.nthr ∧ g.gx = 1 ∧ g.gy = 1 ∧ g.gz = 1 ∧
         g.args = BitVec.ofNat 32 d.thr :: d.args ∧ match nodeReject left (nodeGrid left c.grid.ctx d rs) with
           | none => g.kernel = d.kern ∧ g.status = .running
           | some x => g.status = .rejected x.kind x.off))

/-! ## System and privileged words (03 R57-R66, 10 R253, 21 R372-R389) -/

/-- 03 R63, R65, Table 3.3: CSRR gives each active lane the value of a CSR that its code may read, with a read of CYCLE capturing CYCLEH; CLOCK gives the 64-bit
cycle count; the values of the identity, floating, counter and quota CSRs. 03 R65, 21 R382: CSRW writes a lane CSR in each active lane; of a warp's or die's CSR the highest active lane decides; a write of a read-only CSR
changes nothing, and a user write of a privileged CSR raises PROTECTION. -/
def Obligations.CsrWords : Prop :=
  (∀ (s : State) (c : Ctx), c.helpers = [] →
     let put (t : State) (act : List Nat) (d : Reg) (f : Nat → List PW) : State := t.modWarp c.r fun w =>
       if d.s then w.setSs d.n.toNat (f (act.headD 0)) else w.mapLanes act fun l x => x.setVs d.n.toNat (f l)
     (∀ o, Issues s c (.csrr o) → csrTrap c o.csr.toNat o.d.s = none → o.csr ≠ 0x020 →
       Ends s c (.csrr o) (put s (c.lanesFor (.csrr o)) o.d fun l => [{ val := csrValue s c o.csr.toNat l, poison := false }]) [] []) ∧
     (∀ o, Issues s c (.csrr o) → o.csr = 0x020 →
       Ends s c (.csrr o) (put (s.modWarp c.r fun w => w.mapLanes (c.lanesFor (.csrr o)) fun _ l =>
         { l with cycleH := (s.coreCycle c.blk.core).extractLsb' 32 32 }) (c.lanesFor (.csrr o)) o.d
           fun _ => [{ val := (s.coreCycle c.blk.core).extractLsb' 0 32, poison := false }]) [] []) ∧
     (∀ o, Issues s c (.csrr o) → ∀ code, csrTrap c o.csr.toNat o.d.s = some code →
       Ends s c (.csrr o) s ((c.lanesFor (.csrr o)).map fun l => mkTrap l code 0 0 0) []) ∧
     (∀ o, Issues s c (.clock o) →
       Ends s c (.clock o) (put s (c.lanesFor (.clock o)) o.d fun _ => pairWords (s.coreCycle c.blk.core) false) [] []) ∧
     ∀ l, csrValue s c 0x000 l = BitVec.ofNat 32 l ∧ csrValue s c 0x001 l = BitVec.ofNat 32 c.r.w ∧
       csrValue s c 0x002 l = (if c.kern.wide then 64 else 32) ∧ csrValue s c 0x004 l = BitVec.ofNat 32 (c.blk.lin % c.grid.gx) ∧
       csrValue s c 0x005 l = BitVec.ofNat 32 (c.blk.lin / c.grid.gx % c.grid.gy) ∧
       csrValue s c 0x006 l = BitVec.ofNat 32 (c.blk.lin / (c.grid.gx * c.grid.gy)) ∧
       csrValue s c 0x010 l = (c.wp.lane l).flags.setWidth 32 ∧ csrValue s c 0x011 l = (c.wp.lane l).fpctl.setWidth 32 ∧
       csrValue s c 0x021 l = (c.wp.lane l).cycleH ∧ csrValue s c 0x022 l = BitVec.ofNat 32 c.blk.core ∧
       csrValue s c 0x039 l = BitVec.ofNat 32 (c.wp.held.countP fun h => !h.parked) ∧ csrValue s c 0x040 l = c.wp.predCnt ∧
       csrValue s c 0x0F0 l = (c.wp.lane l).tf.pc ∧ csrValue s c 0x0F1 l = (c.wp.lane l).tf.code ∧
       csrValue s c 0x0F8 l = (c.wp.lane l).tf.aux) ∧
  (∀ (s : State) (c : Ctx) (o : CsrwOp) (last : Nat), Issues s c (.csrw o) →
     let act := c.lanesFor (.csrw o)
     let x (l : Nat) : W32 := c.val o.a l
     let warp (f : Warp → Warp) : State := s.modWarp c.r f
     let ends (u : State) : Prop := Ends s c (.csrw o) u [] []
     (∀ l ∈ act, c.bad o.a l = false) → last ∈ act → (∀ l ∈ act, l ≤ last) →
     (o.csr = 0x010 → ends (warp fun w => w.mapLanes act fun l y => { y with flags := (x l).extractLsb' 0 5 })) ∧
     (o.csr = 0x011 → ends (warp fun w => w.mapLanes act fun l y => { y with fpctl := (x l).extractLsb' 0 5 })) ∧
     (o.csr = 0x040 → ends (warp fun w => { w with predCnt := x last })) ∧
     (o.csr = 0x041 → ends (warp fun w => { w with mispCnt := x last })) ∧
     (o.csr = 0x042 → ends (warp fun w => { w with replCnt := x last })) ∧
     (o.csr = 0x043 → ends (warp fun w => { w with fuseCnt := x last })) ∧
     (o.csr = 0x044 → ends (warp fun w => { w with splitCnt := x last })) ∧
     (o.csr = 0x045 → ends (warp fun w => { w with parkCnt := x last })) ∧
     ([0x000, 0x002, 0x022, 0x034, 0x039].contains o.csr = true → ends s) ∧
     (0x800 ≤ o.csr.toNat → c.kern.priv = false → Ends s c (.csrw o) s (act.map fun l => mkTrap l 9 0 0 0) []) ∧
     (c.kern.priv = true →
       (o.csr = 0x890 → ends (s.modDie (dieOf c.blk.core) fun d =>
           { d with wdlim := if (x last).toNat % 64 = 0 ∨ (20 ≤ (x last).toNat % 64 ∧ (x last).toNat % 64 ≤ 40)
               then (x last).extractLsb' 0 6 else 40 })) ∧
       (o.csr = 0x8A0 → ends (warp fun w => { w with scont := x last })) ∧
       (o.csr = 0x8A1 → ends (warp fun w => { w with snest := x last }))))

/-- 21 R379: RDREG and WRREG name a register by number: v registers below the kernel's count, p0-p6 as bit 0, p7. In a lane in handler mode the handler set and
p0-p6 are those of its trap frame, which a read takes from memory and a write changes there; every other register is the live one. A poisoned number raises
POISON_CONSUMED SUB 6, a number that names none raises RESERVED_FIELD with the number; the other lanes complete. A helper lane of RDREG in the place of a
trap receives poisoned zero (02 R44). -/
def Obligations.RegistersByNumber : Prop :=
  ∀ (s : State) (c : Ctx),
    let nv : Nat := c.kern.nv
    let num (b : Src) (l : Nat) : Nat := (c.srcVal b l).toNat
    let trap (b : Src) (l : Nat) : Option LaneTrap :=
      if c.srcBad b l then some (c.wp.poisonTrap l 6)
      else if 264 ≤ num b l ∨ (num b l < 256 ∧ nv ≤ num b l) then some (mkTrap l 2 0 0 (c.srcVal b l)) else none
    let inFrame (l n : Nat) : Bool := (c.wp.lane l).handler && ((nv - 8 ≤ n && n < nv) || (256 ≤ n && n < 263))
    let frame (k : Block) (l : Nat) : Lane := (c.wp.lane l).restoreFrame nv (memBytes k.bytes (frameAt k c.r.w l) 48)
    (∀ o, Issues s c (.rdreg o) →
      let act := c.lanesFor (.rdreg o)
      let val (l n : Nat) : PW :=
        let x : Lane := if inFrame l n then frame c.blk l else c.wp.lane l
        if n < 256 then (x.v[n]?).getD zeroPW
        else if n < 263 then { val := if (x.pred (BitVec.ofNat 3 (n - 256))).val then 1 else 0, poison := (x.pred (BitVec.ofNat 3 (n - 256))).poison }
        else { val := 1, poison := false }
      Ends s c (.rdreg o) (s.modWarp c.r fun w => w.mapLanes (act.filter (fun l => (trap o.b l).isNone) ++ c.helpers) fun l x =>
        x.setVs o.d.toNat [if (trap o.b l).isSome then poisonPW else val l (num o.b l)]) (act.filterMap (trap o.b)) []) ∧
    (∀ o, Issues s c (.wrreg o) →
      let act := c.lanesFor (.wrreg o)
      let put (l : Nat) (x : Lane) : Lane :=
        if num o.b l < 256 then x.setV (num o.b l) (c.wp.reg o.a l)
        else x.setPred (BitVec.ofNat 3 (num o.b l - 256)) { val := (c.val o.a l).getLsbD 0, poison := c.bad o.a l }
      Ends s c (.wrreg o) ((act.filter fun l => (trap o.b l).isNone).foldl (fun u l =>
        if inFrame l (num o.b l) then u.modBlock c.r.b fun k =>
          { k with bytes := memPut k.bytes (frameAt k c.r.w l) ((put l (frame k l)).frameBytes nv) }
        else u.modWarp c.r (·.modLane l (put l))) s) (act.filterMap (trap o.b)) [])

/-- 10 R253: CINV with a length of 0 changes nothing; else its lanes wait for the invalidation of the whole pages of its range that lie in the object. That the
lanes which the guard leaves out go on while the others wait is the model's choice (log 72). -/
def Obligations.CodeInvalidationWaits : Prop :=
  ∀ (s : State) (c : Ctx) (o : CinvOp), Issues s c (.cinv o) →
    let a : Nat := (c.pairVal (Reg.sc o.a) 0).toNat
    let n : Nat := (c.val (Reg.sc o.b) 0).toNat
    let len := c.kern.obj.codeLen
    let at_ (x : Nat) : VAddr := BitVec.ofNat 57 (c.kern.obj.va.toNat + c.kern.obj.codeOff + min x len)
    let waits (lo hi : Nat) : Prop := Ends s c (.cinv o) s []
      [{ mask := maskOf (c.lanesFor (.cinv o)), pc := c.ent.pc, st := .waiting (.cinv (at_ lo) (at_ hi)) }]
    (c.pairBad (Reg.sc o.a) 0 = false → c.bad (Reg.sc o.b) 0 = false →
      (n = 0 → Ends s c (.cinv o) s [] []) ∧ (n ≠ 0 → waits (a / 4096 * 4096) ((a + n + 4095) / 4096 * 4096))) ∧
    (c.pairBad (Reg.sc o.a) 0 = true ∨ c.bad (Reg.sc o.b) 0 = true → waits 0 len)

/-- 21 R384, R385, R388, R389: HALTB, RESUMEB, DRAIN and CALLCV on a context and its cores. HALTB goes on when every warp named has stopped, DRAIN when the
cards that stay are counted; else their lanes wait. DRAIN in mode 0 discards the cards of the set not yet started, and d is 0. That the lanes which the guard
leaves out go on while the others wait is the model's choice (log 72). -/
def Obligations.PrivilegedWordsOnContexts : Prop :=
  ∀ (s : State) (c : Ctx) (ctx : Nat) (sel : W32), s.ctxOf c.r.b = 512 → ctx < 512 → (sel.toNat < 144 ∨ sel = 0xFFFFFFFF) →
    let named (a b : BitVec 8) : Prop := c.wp.reg (Reg.sc a) 0 = { val := BitVec.ofNat 32 ctx, poison := false } ∧
      c.wp.reg (Reg.sc b) 0 = { val := sel, poison := false }
    let hit (k : Block) (b : Nat) : Bool := k.place == .resident && (sel == 0xFFFFFFFF || k.core == sel.toNat) && s.ctxOf b == ctx
    (∀ o, Issues s c (.haltb o) → named o.a o.b → ∃ u, u.mem = s.mem ∧ u.cards = s.cards ∧
      (u.blocks = s.blocks.zipIdx.map fun (k, b) => if hit k b && !k.halted then { k with halted := true, haltAt := s.cycle } else k) ∧
      (sel = 0xFFFFFFFF → (u.ctxInfo ctx).noPlace = true) ∧
      Ends s c (.haltb o) u [] (if s.blocks.zipIdx.all fun (k, b) => !hit k b || k.warps.all fun w => w.cur.isNone then []
        else [{ mask := maskOf (c.lanesFor (.haltb o)), pc := c.ent.pc, st := .waiting (.halts ctx sel.toNat) }])) ∧
    (∀ o, Issues s c (.resumeb o) → named o.a o.b → ∃ u, u.mem = s.mem ∧ u.cards = s.cards ∧
      (∀ b k, s.blocks[b]? = some k → ∃ k2, u.blocks[b]? = some k2 ∧ k2.halted = (k.halted && !hit k b)) ∧
      (sel = 0xFFFFFFFF → (u.ctxInfo ctx).noPlace = false) ∧ Ends s c (.resumeb o) u [] []) ∧
    (∀ o, Issues s c (.drain1 o) → named o.a o.b →
      let cs := s.cards.filter fun x => x.queued && (sel == 0xFFFFFFFF || x.core == sel.toNat) && s.ctxOf x.blk == ctx
      (cs.all (leftBy s) = true → Ends s c (.drain1 o) (s.modWarp c.r fun w =>
        if o.d.s then w.setSs o.d.n.toNat [{ val := BitVec.ofNat 32 cs.length, poison := false }]
        else w.mapLanes (c.lanesFor (.drain1 o)) fun _ x => x.setVs o.d.n.toNat [{ val := BitVec.ofNat 32 cs.length, poison := false }]) [] []) ∧
      (cs.all (leftBy s) = false → Ends s c (.drain1 o) s []
        [{ mask := maskOf (c.lanesFor (.drain1 o)), pc := c.ent.pc, st := .waiting (.drain ctx sel.toNat true o.d) }])) ∧
    (∀ o, Issues s c (.drain0 o) → named o.a o.b →
      (∀ x ∈ s.cards, (x.queued && (sel == 0xFFFFFFFF || x.core == sel.toNat) && s.ctxOf x.blk == ctx) = false) →
      Ends s c (.drain0 o) (s.modWarp c.r fun w =>
        if o.d.s then w.setSs o.d.n.toNat [zeroPW] else w.mapLanes (c.lanesFor (.drain0 o)) fun _ x => x.setVs o.d.n.toNat [zeroPW]) [] []) ∧
    ((∀ x ∈ s.cards, (x.queued && (sel == 0xFFFFFFFF || x.core == sel.toNat) && s.ctxOf x.blk == ctx) = true → x.started = true) →
      drainDiscard s ctx sel = s) ∧
    (∀ x, (s.cards.filter fun y => y.queued && (sel == 0xFFFFFFFF || y.core == sel.toNat) && s.ctxOf y.blk == ctx && !y.started) = [x] →
      drainDiscard s ctx sel = completeCard (releaseSlot s x) x 2 0) ∧
    (∀ o, Issues s c (.drain0 o) → named o.a o.b →
      let u := drainDiscard s ctx sel
      let left := u.cards.filter fun x => x.queued && (sel == 0xFFFFFFFF || x.core == sel.toNat) && u.ctxOf x.blk == ctx
      (left = [] → Ends s c (.drain0 o) (u.modWarp c.r fun w =>
        if o.d.s then w.setSs o.d.n.toNat [zeroPW] else w.mapLanes (c.lanesFor (.drain0 o)) fun _ x => x.setVs o.d.n.toNat [zeroPW]) [] []) ∧
      (left ≠ [] → Ends s c (.drain0 o) u []
        [{ mask := maskOf (c.lanesFor (.drain0 o)), pc := c.ent.pc, st := .waiting (.drain ctx sel.toNat false o.d) }])) ∧
    (∀ o, Issues s c (.callcv o) →
      Ends s c (.callcv o) s [] [{ mask := maskOf (c.lanesFor (.callcv o)), pc := c.ent.pc, st := .waiting (.chervil o.imm) }])

/-- 21 R384, R386, R387: RDWREG, WRWREG and RDLINE act on a lane of the halted warp that a handle names. A poisoned operand raises POISON_CONSUMED SUB 6; a
handle that names no halted warp, a lane at or above its width, or a selector of RDLINE with a bit or an offset out of place raises PROTECTION; a number that
names no register, or one that WRWREG may not write, raises RESERVED_FIELD; the other lanes complete. RDWREG reads the register of Table 21.7; WRWREG
writes it with the source's poison; RDLINE reads the data word, the address or the state of one binding (Table 21.8). A helper lane in the place of a trap
receives poisoned zero (02 R44). -/
def Obligations.PrivilegedWordsOnWarps : Prop :=
  (∀ (s : State) (c : Ctx),
    let poisoned (h : BitVec 8) (b cc : Reg) (l : Nat) : Bool := c.bad (Reg.sc h) 0 || c.bad b l || c.bad cc l
    let target (h : BitVec 8) (cc : Reg) (l : Nat) : Option Target := s.target? (c.val (Reg.sc h) 0) (c.val cc l).toNat
    let regTrap (h : BitVec 8) (b cc : Reg) (write : Bool) (l : Nat) : Option LaneTrap :=
      if poisoned h b cc l then some (c.wp.poisonTrap l 6)
      else match target h cc l with
        | none => some (mkTrap l 9 0 0 0)
        | some t =>
          match wregOf t.kern.nv (c.val b l).toNat with
          | .none => some (if t.kern.width ≤ (c.val cc l).toNat then mkTrap l 9 0 0 0 else mkTrap l 2 0 0 0)
          | .s _ => none
          | .poisonS _ => if write then some (mkTrap l 2 0 0 0) else none
          | .lane _ => if t.kern.width ≤ (c.val cc l).toNat then some (mkTrap l 9 0 0 0) else none
          | .fp _ => if t.kern.width ≤ (c.val cc l).toNat then some (mkTrap l 9 0 0 0) else none
          | _ => if t.kern.width ≤ (c.val cc l).toNat then some (mkTrap l 9 0 0 0) else if write then some (mkTrap l 2 0 0 0) else none
    let lineTrap (h : BitVec 8) (b cc : Reg) (l : Nat) : Option LaneTrap :=
      let sel := c.val b l
      if poisoned h b cc l then some (c.wp.poisonTrap l 6)
      else match target h cc l with
        | none => some (mkTrap l 9 0 0 0)
        | some t => if t.kern.width ≤ (c.val cc l).toNat ∨ sel &&& ~~~ (0x00037F07 : W32) ≠ 0 ∨ 124 < sel.toNat / 256 % 128 ∨ sel.toNat / 256 % 128 % 4 ≠ 0
            then some (mkTrap l 9 0 0 0) else none
    (∀ o (t : Nat → Target), Issues s c (.rdwreg o) →
      let act := c.lanesFor (.rdwreg o)
      let ok := act.filter (fun l => (regTrap o.h o.b o.c false l).isNone) ++ c.helpers
      (∀ l ∈ ok, regTrap o.h o.b o.c false l = none → target o.h o.c l = some (t l)) →
      Ends s c (.rdwreg o) (s.modWarp c.r fun w => w.mapLanes ok fun l y =>
        y.setVs o.d.toNat [if (regTrap o.h o.b o.c false l).isSome then poisonPW
                           else { val := (t l).read (wregOf (t l).kern.nv (c.val o.b l).toNat), poison := false }])
        (act.filterMap (regTrap o.h o.b o.c false)) []) ∧
    (∀ o (t : Nat → Target), Issues s c (.wrwreg o) →
      let act := c.lanesFor (.wrwreg o)
      let ok := act.filter fun l => (regTrap o.h o.b o.c true l).isNone
      (∀ l ∈ ok, target o.h o.c l = some (t l)) →
      Ends s c (.wrwreg o) (ok.foldl (fun u l =>
        let v : PW := c.wp.reg o.d l
        match wregOf (t l).kern.nv (c.val o.b l).toNat with
        | .lane n => writeNumber u (t l).r (t l).kern.nv (t l).lane n v
        | .s k => u.modWarp (t l).r (·.setSs k [v])
        | .fp true => u.modWarp (t l).r (·.modLane (t l).lane fun x => { x with fpctl := v.val.extractLsb' 0 5 })
        | .fp false => u.modWarp (t l).r (·.modLane (t l).lane fun x => { x with flags := v.val.extractLsb' 0 5 })
        | _ => u) s) (act.filterMap (regTrap o.h o.b o.c true)) []) ∧
    (∀ o (t : Nat → Target), Issues s c (.rdline o) →
      let act := c.lanesFor (.rdline o)
      let ok := act.filter (fun l => (lineTrap o.h o.b o.c l).isNone) ++ c.helpers
      (∀ l ∈ ok, lineTrap o.h o.b o.c l = none → target o.h o.c l = some (t l)) →
      let word (l : Nat) : W32 :=
        let sel := (c.val o.b l).toNat
        let b := ((t l).wp.lane (t l).lane).bind (BitVec.ofNat 3 sel)
        let line : Option HeldLine := match b with | .bound a _ _ _ => (t l).wp.held? a | _ => none
        let byte (h : HeldLine) (k : Nat) : Byte := if h.parked && !h.dirty.getLsbD k then 0 else (h.data[k]?).getD 0
        let addr : VAddr := match b with | .unbound => 0 | .bound a _ _ _ => a | .zero a _ _ _ => a | .poisoned a _ _ _ => a
        let mode : Nat := match b with | .unbound => 0 | .bound _ _ m _ => modeCode m | .zero _ _ m _ => modeCode m | .poisoned _ _ m _ => modeCode m
        let sync : Bool := match b with | .bound _ _ .s _ => true | _ => false
        if sel / 65536 % 4 = 0 then (match line with
          | some h => if sync then 0 else BitVec.ofNat 32 (leNat ((List.range 4).map fun k => byte h (sel / 256 % 128 + k)))
          | none => 0)
        else if sel / 65536 % 4 = 1 then addr.extractLsb' 0 32
        else if sel / 65536 % 4 = 2 then (addr.extractLsb' 32 25).setWidth 32
        else BitVec.ofNat 32 ((lineQuery (t l).wp 0 b).toNat + mode * 2 ^ 8 + b.cursor.toNat * 2 ^ 16 +
          (match line with
           | some h => ((List.range 4).map fun k => if h.dirty.extractLsb' (32 * k) 32 = 0 then 0 else 2 ^ (24 + k)).sum
           | none => 0))
      Ends s c (.rdline o) (s.modWarp c.r fun w => w.mapLanes ok fun l y =>
        y.setVs o.d.toNat [if (lineTrap o.h o.b o.c l).isSome then poisonPW else { val := word l, poison := false }])
        (act.filterMap (lineTrap o.h o.b o.c)) [])) ∧
  (∀ (s : State) (h : W32) (l : Nat) (t : Target), s.target? h l = some t → t.lane = l ∧ s.warp? t.r = some t.wp ∧ s.blocks[t.r.b]? = some t.blk ∧
    t.blk.halted = true ∧ t.blk.place = .resident ∧ s.ctxOf t.r.b ≠ sysCtx ∧ t.wp.ctxIdx = h.toNat % 128 ∧ t.blk.core = h.toNat / 65536 % 256) ∧
  (∀ (s : State) (r : WarpRef) (w : Warp) (nv l n : Nat) (x : PW), s.warp? r = some w →
    let put (y : Lane) : Lane := if n < 256 then y.setV n x else y.setPred (BitVec.ofNat 3 (n - 256)) { val := x.val.getLsbD 0, poison := x.poison }
    let inFrame : Bool := (w.lane l).handler && ((nv - 8 ≤ n && n < nv) || (256 ≤ n && n < 263))
    writeNumber s r nv l n x =
      if inFrame then s.modBlock r.b fun k => { k with bytes := memPut k.bytes (frameAt k r.w l) ((put ((w.lane l).restoreFrame nv (memBytes k.bytes (frameAt k r.w l) 48))).frameBytes nv) }
      else s.modWarp r (·.modLane l put)) ∧
  (∀ (t : Target) (n : Nat), (t.wp.lane t.lane).handler = false →
    (n < t.kern.nv → n < 256 → t.read (wregOf t.kern.nv n) = (((t.wp.lane t.lane).v[n]?).getD zeroPW).val) ∧
    (264 ≤ n → n < 328 → t.read (wregOf t.kern.nv n) = ((t.wp.s[n - 264]?).getD zeroPW).val) ∧
    (n = 340 → t.read (wregOf t.kern.nv n) = (t.wp.lane t.lane).tf.pc) ∧
    (n = 349 → t.read (wregOf t.kern.nv n) = (t.wp.lane t.lane).flags.setWidth 32) ∧
    (n = 350 → t.read (wregOf t.kern.nv n) = (t.wp.lane t.lane).fpctl.setWidth 32))

/-- 07 R170, R171: a word that fails a decode check raises, in every active lane, the trap of the first check that fails, and does nothing else:
CLASS_MISMATCH for a word its clause's class does not admit, PROTECTION for a privileged word in code that is not, RESERVED_FIELD for a field or
operand outside its table or the kernel's sizes; a reserved opcode raises ILLEGAL_OPCODE; a word that does not decode fails in the same order, after the wait of its
opcode and, of a guarded control word, its prediction (15 R319). -/
def Obligations.WordsThatFailDecodeTrap : Prop :=
  ∀ (s : State) (c : Ctx), s.ctx? = some c → c.ent.st = .runnable →
    let code (op : Nat) : Nat :=
      if classAdmits (unpackHeader c.cur.hdr).cls.toNat op c.isLast = false then 3 else if privileged op && !c.kern.priv then 9 else 2
    (∀ (i : Instr) (f : Fields), i.fields = some f → (f.op.toNat < 0x80 ∨ (0x90 ≤ f.op.toNat ∧ f.op.toNat < 0xE0)) →
      (∀ w, i ≠ .illegalOpcode w) → (∀ w, wideWait (opcodeOf i) = some w → c.together w = true) →
      c.guardPoisoned (guardOf i) = [] → c.lanesFor i ≠ [] →
      (classAdmits (unpackHeader c.cur.hdr).cls.toNat f.op.toNat c.isLast = false ∨ (privileged f.op.toNat = true ∧ c.kern.priv = false) ∨
        fieldsOk i c.kern = false) →
      Ends s c i s ((c.lanesFor i).map fun l => mkTrap l (code f.op.toNat) 0 0 0) []) ∧
    (∀ word : W64,
      let g : Guard := { neg := word.getLsbD 55, pred := word.extractLsb' 52 3 }
      (∀ x, wideWait (word.toNat / 2 ^ 56) = some x → c.together x = true) → c.guardPoisoned g = [] → c.active g ≠ [] →
      Ends s c (.illegalOpcode word) s ((c.active g).map fun l => mkTrap l 1 0 0 0) [] ∧
      (∀ e, decodeWord word = .error e → word.toNat / 2 ^ 56 < 0xE0 →
        EndsAs (runWord word s) c (s.predictBad word) ((c.active g).map fun l => mkTrap l (code (word.toNat / 2 ^ 56)) 0 0 0) []))

/-- 21 R378, R380: TRET in handler mode waits for the other handler lanes of its warp; once all stand at it, each lane takes p0-p6 and the handler set back
from its frame and resumes at TFPC, or at the word after with adj 8; outside handler mode it raises PROTECTION. -/
def Obligations.ReturnFromHandler : Prop :=
  ∀ (s : State) (c : Ctx) (o : TretOp), Issues s c (.tret o) → c.isLast = true →
    let act := c.lanesFor (.tret o)
    (c.ent.handler = false → Ends s c (.tret o) s (act.map fun l => mkTrap l 9 0 0 0) []) ∧
    (c.ent.handler = true → (∀ e ∈ c.wp.entries, e.atTret = none) →
      (c.wp.handlerMask &&& ~~~ maskOf act ≠ 0 → Ends s c (.tret o) s []
        [{ mask := maskOf act, pc := c.ent.pc, st := .waiting (.tret (if o.adj then 8 else 0)) }]) ∧
      (c.wp.handlerMask &&& ~~~ maskOf act = 0 → (∀ l ∈ act, l < c.wp.lanes.length ∧ (c.wp.lane l).retired = false) →
        ∃ t w, exec (.tret o) s = .next t ∧ t.warp? c.r = some w ∧ t.mem = s.mem ∧ w.s = c.wp.s ∧
          (∀ l ∈ act, w.lane l = { (c.wp.lane l).restoreFrame c.kern.nv (memBytes c.blk.bytes (frameAt c.blk c.r.w l) 48) with handler := false }) ∧
          (∀ l, l ∉ act → w.lane l = c.wp.lane l) ∧
          ∀ l ∈ act, ∃ e ∈ w.entries, e.mask.getLsbD l = true ∧ e.st = .runnable ∧ e.handler = false ∧
            e.pc = (c.wp.lane l).tf.pc.setWidth 64 + (if o.adj then 8 else 0)))

/-! ## Steps of other agents -/

/-- The ends of waits, retries and deliveries at a warp (02 R37, R43, R46, 05 R107, 07 R160, 09 R212, 10 R243, R253, 11 R263, R267, 21 R381, 06 R126):
each event has its effect when its condition holds. That each is an event the agenda may name is the model's (log 1), and so are the order of two pending
warps whose waits resolved in one cycle (log 35), that an entry whose clause waits inside keeps the WAIT mask of the words it fetched (log 99), that a card word
whose card finds room later goes on behind it and does not issue again (log 68, DEDUCED), and that the lanes an engine's error gathers hold its trap frame, which
names them all (log 98). An active warp whose waits resolve is not swapped out (02 R46). -/
def Obligations.WarpEventsComplete : Prop :=
  ∀ (s : State) (b j k : Nat) (w : Warp) (x : Entry),
    let r : WarpRef := { b := b, w := j }
    let at_ : EntryRef := { b := b, w := j, e := k }
    let edit (u : State) (f : Entry → Entry) : State := u.modWarp r fun v => { v with entries := v.entries.modify k f }
    s.warp? r = some w → w.entries[k]? = some x →
    (∀ m, s.still b = false → x.st = .waiting .clauseWait → s.entryWait? b x = some m → flagsClear w m = true →
      exec (.clauseWaitPass at_) s = .next (edit s fun e => { e with st := .runnable, woken := true })) ∧
    (x.st = .runnable → x.mask ≠ 0 → 4096 ≤ x.age → x.promoted = none →
      exec (.entryPromote at_) s = .next (s.modWarp r fun v => Warp.markOverflow { v with
        entries := v.entries.modify k fun e => { e with promoted := some w.promotions },
        promotions := v.promotions + 1 })) ∧
    (∀ v : Warp, (v.markOverflow.entries.filter fun e => e.mask != 0 && !e.overflow).length ≤ 16) ∧
    (∀ pd t, s.still b = false → x.st = .waiting (.join pd (some t)) → t < s.cycle → x.mask ≠ 0 →
      w.awaited &&& ~~~ w.lanesBy (fun y => x.besides y && y.joins) ≠ 0 →
      exec (.joinTimeout at_) s = .next (s.modWarp r fun v =>
        { v.mapLanes (lanesOf x.mask) (fun _ l => l.setPred pd { val := true, poison := false }) with
          entries := v.entries.modify k fun e => { e with st := .runnable, pc := e.pc + 8, woken := true } })) ∧
    (∀ ws pd t u, s.still b = false → x.st = .waiting (.waita ws pd (some t)) → t < s.cycle → x.mask ≠ 0 → endRegion s r = (u, true) →
      exec (.waitaTimeout at_) s = .next (u.modWarp r fun v =>
        { v.mapLanes (ws.map (·.lane)) (fun i l => l.setPred pd { val := ws.any fun y => y.lane == i && !y.sat, poison := false }) with
          entries := v.entries.modify k fun e => { e with st := .runnable, pc := e.pc + 8, woken := true, since := u.cycle } })) ∧
    (∀ t, s.still b = false → x.st = .waiting (.pause t) → t ≤ s.cycle →
      exec (.pauseExpire at_) s = .next (edit s fun e => { e with st := .runnable, woken := true })) ∧
    (x.st = .capBlocked → x.mask ≠ 0 → s.going b = true → (∀ e ∈ w.entries, e.runs = false) → (s.kernelOf? b).isSome = true →
      ∃ t v, exec (.capacityRetry at_) s = .next t ∧ t.warp? r = some v ∧ v.entries[k]? = some { x with st := .runnable, retry := true }) ∧
    (∀ u, x.st = .waiting .migration → migrating s (s.ctxOf b) = false → s.replaysOf r = false → s.still b = false → w.ending = true → endRegion s r = (u, true) →
      ∃ t v y, exec (.regionEndComplete r) s = .next t ∧ t.warp? r = some v ∧ v.region = [] ∧ v.ending = false ∧ v.entries[k]? = some y ∧
        y.st = .runnable ∧ y.pc = x.pc ∧ y.mask = x.mask) ∧
    (∀ n, s.going b = true → (∀ e ∈ w.entries, e.isHeld = false) → s.wdlim? b = some n → x.mask ≠ 0 → x.isParked = false →
      (2 ^ n ≤ s.cycle - w.lastIssue → ∃ t v y word, exec (.watchdogWarp r) s = .next t ∧ t.warp? r = some v ∧ v.cur = none ∧
        v.entries[k]? = some y ∧ y.pc = x.pc ∧ y.mask = x.mask ∧
        y.st = .trapParked ((lanesOf x.mask).map fun l => mkTrap l 0x13 1 0 (BitVec.ofNat 32 n)) word) ∧
      (x.waits = true → x.pauses = false → 2 ^ n ≤ s.cycle - x.since →
        ∃ t v y word, exec (.watchdogEntry at_) s = .next t ∧ t.warp? r = some v ∧ v.entries[k]? = some y ∧ y.pc = x.pc ∧ y.mask = x.mask ∧
          y.st = .trapParked ((lanesOf x.mask).map fun l => mkTrap l 0x13 2 0 (BitVec.ofNat 32 n)) word)) ∧
    (∀ err rest, w.errs = err :: rest → s.going b = true → w.awaited ≠ 0 → (w.entryOf (lowest w.awaited)).isSome = true →
      w.lanes.all (·.retired) = false →
      ∃ t v y word, exec (.engineErrorDeliver r) s = .next t ∧ t.warp? r = some v ∧ v.errs = rest ∧ v.cur = none ∧ y ∈ v.entries ∧
        y.mask = w.awaited ∧ y.st = .trapParked ((lanesOf w.awaited).map fun l => { err.trap with lane := l }) word ∧
        (∀ pc, err.pc = some pc → y.pc = pc) ∧
        ∀ l x z, w.lanes[l]? = some x → v.lanes[l]? = some z →
          z.tf = if w.awaited.getLsbD l then (x.fillFrame y.pc word w.awaited err.trap).tf else x.tf) ∧
    (∀ lo hi, s.still b = false → x.st = .waiting (.cinv lo hi) → w.entries.findIdx? Entry.isCinv = some k →
      exec (.cinvComplete r) s = .next (edit (dropTags s (s.ctxOf b) lo.toNat (hi.toNat - lo.toNat))
        fun e => { e with st := .runnable, pc := e.pc + 8, woken := true })) ∧
    (∀ id c, s.still b = false → x.st = .waiting (.cardRoom id) → s.cards.find? (·.id == id) = some c → hasRoom s c = true →
      exec (.cardEnqueueResume at_) s = .next (edit (enqueue { s with cards := s.cards.filter (·.id != id) } c)
        fun e => { e with st := .runnable, pc := e.pc + 8, woken := true })) ∧
    (∀ v out, s.warp? out = some v → out ≠ r → s.going b = true → v.swappable = true → s.resolves out v = false → w.active = false → x.runs = true →
      firstReady s r = true → (∃ y, (out, y) ∈ slotActive s (s.coreOf b) w.slot) → contextsOf (slotActive s (s.coreOf b) w.slot) - v.contexts + w.contexts ≤ 8 →
      exec (.warpSwap out r) s = .next ((s.modWarp out fun y => { y with active := false, ready := none }).modWarp r
        fun y => { y with active := true, ready := none })) ∧
    (firstReady s r = true → ∀ q y, q ∈ s.refs → s.warp? q = some y → s.going q.b = true → s.coreOf q.b = s.coreOf b → y.slot = w.slot →
      y.enters = true → w.ready.getD s.cycle ≤ y.ready.getD s.cycle) ∧
    (∀ svc, x.st = .waiting (.chervil svc) → (∀ i e, i < k → w.entries[i]? = some e → e.calls = none) →
      let u := edit s fun e => { e with st := .runnable, pc := e.pc + 8, woken := true }
      let a (n : Nat) : W32 := ((w.s[n]?).getD zeroPW).val
      (svc = 3 → exec (.chervilAnswer r) s = .next (u.modWarp r fun v => v.setSs 0 [{ val := 0, poison := false },
        { val := BitVec.ofNat 32 (s.blocks.zipIdx.countP fun y => y.1.place == .resident && s.ctxOf y.2 == (a 0).toNat), poison := false }])) ∧
      (svc = 2 → exec (.chervilAnswer r) s = .next
        ({ u with log := u.log ++ [(List.range 8).flatMap fun n => natLE 4 (a n).toNat] }.modWarp r (·.setSs 0 [zeroPW]))) ∧
      (svc = 1 →
        let v := u.modWarp r (·.setSs 0 [zeroPW])
        ((∀ d, s.dump = some d → d.ctx ≠ (a 0).toNat ∨ (s.ctxInfo d.ctx).life ≠ .dumping) → exec (.chervilAnswer r) s = .next v) ∧
        ∀ d, s.dump = some d → d.ctx = (a 0).toNat → (s.ctxInfo d.ctx).life = .dumping → exec (.chervilAnswer r) s =
          .next (teardown { v with reports := v.reports ++ [.dumpDone d.ctx (a 2 ++ a 1)] } d.ctx)) ∧
      (svc = 0 ∨ 3 < svc.toNat → exec (.chervilAnswer r) s = .next (u.modWarp r (·.setSs 0 [{ val := 0xFFFFFFFF, poison := false }]))))

/-- 11 R264-R274, 12 R298, 21 R395, 24 R412: steps of the engines on their cards.
That each is an event the agenda may name is the model's (log 1), and so is that a card's whole payload is performed in the step of its completion, but for
CPYQ's beats, an MMA's rows and the pages of a Topsail card (log 12). After a beat the array passes to a block that waits, when the lease is 0, and a CPYQ card
asks for it once it is ready to push (R274); that it does not pass while a Mainsail card of its holder is started is log 103. 11 R273-R277: an MMA takes the rows
whose bytes have arrived, each into its row of the accumulator: the rounded exact sum of products, times the scales, in place of the old element in group 0
under OVW and else added to it; canonical NaN where a beat of the row or the weight tile is poisoned; that every further row of the A-stream waits for its bytes is
R273. A drain writes its copies before it zeros its rows. 12 R284-R293: a reader's tile, with the rows it leaves in the accumulators, the statuses and the output of
ATTN; what KVAPPEND, KVMAP and KVROT store, and the ST and RDR they write. 12 R295-R297: the pooled rows of EMBG, the updated rows of EMBU, and the versions that
an EMBSWAP leaves. A payload's write puts its bytes at the home of its address. -/
def Obligations.EngineEventsComplete : Prop :=
  ∀ (s : State) (c : Card),
    (s.queuedCard? c.id = some c → c.eng < 4 → ∀ x ∈ s.cards, x.queued = true → x.id < c.id → x.core = c.core → x.eng = c.eng →
      waitsSpace s x = true → exec (.cardStart c.id) s = .next s) ∧
    (s.queuedCard? c.id = some c → inOrder s c = true →
      (∀ n k, c.guard = some n → s.blocks[c.blk]? = some k → k.slot n = .isFalse → exec (.cardStart c.id) s = .next (discardCard s c)) ∧
      (∀ c2 u, (∀ n k, c.guard = some n → s.blocks[c.blk]? = some k → k.slot n = .isTrue) → clearOfEarlier s c = true →
        c.op ≤ 0xB2 → c.eng < 4 → registerFoots s (withPool s c) = .ok c2 u →
        c2 = { withPool s c with started := true, foot := c2.foot, place := none, lost := c2.lost } ∧
        exec (.cardStart c.id) s = .next (releaseSlot (putCard u c2) c2))) ∧
    (s.startedCard? c.id = some c →
      (∀ u, c.op ≤ 0xB2 → copyPayload s c = .ok () u → exec (.cardComplete c.id) s = .next (completeCard u c 1 (copyDue s c))) ∧
      (c.op = 0xBB → exec (.cardComplete c.id) s =
        .next (completeCard (s.modBlock c.blk fun k => k.setRows c.tile 128 fun _ _ => 0) c 1 0)) ∧
      (∀ n u, c.op ≤ 0xB2 → recB c.record 0 1 = true →
        let m := min (n / cardSize s c 1) (cardCount s c 1 - c.prog)
        Pay.each (copyElem c) ((List.range (c.prog + m)).drop c.prog) s = .ok () u →
        exec (.byteBarrierDelivery c.id n) s = .next (deliverBytes (setProg u c.id (c.prog + m)) c (m * cardSize s c 1))) ∧
      (∀ xs u, c.op = 0xB3 →
        let n := min 32 (cpyqTotal s c - c.prog)
        n ≠ 0 → mayPush s c = true →
        Pay.collect (cpyqElem c) ((List.range ((c.prog + n) / cardSize s c 0)).drop (c.prog / cardSize s c 0)) s = .ok xs u →
        exec (.cpyqBeatPush c.id) s = .next (grantArray (deliverBytes (setProg (u.modBlock c.blk fun k =>
          k.push c.wFifo { bytes := xs.flatMap (·.1), poison := firstPoison xs }) c.id (c.prog + n)) c n) c.core)) ∧
      (∀ k b n, (askPush s c.core).cores[c.core]? = some k → k.reqs = [(b, n)] → k.lease = 0 → k.holder = some c.blk → b ≠ c.blk →
        (∀ x ∈ s.cards, x.started = true → x.eng ≠ 4) →
        ∃ k2, (grantArray s c.core).cores[c.core]? = some k2 ∧ k2.holder = some b) ∧
      (∀ t, c.eng = 4 → exec (.mainsailUe c.id t) s =
        .next (failCard s c (outstanding s c) (mkTrap 0 0x0F 4 0 (t.setWidth 32)))) ∧
      (∀ n t u, c.op = 0xB3 → n = min 32 (cpyqTotal s c - c.prog) → n ≠ 0 → mayPush s c = true →
        Pay.collect (cpyqElem c) ((List.range ((c.prog + n) / cardSize s c 0)).drop (c.prog / cardSize s c 0)) s = .stop t u →
        exec (.cpyqBeatPush c.id) s = .next (failCard u c (cpyqTotal u c - c.prog) t)) ∧
      (∀ n k va, peerLine s c = some (n, k, va) → exec (.linkTimeout c.id) s = .next (stopCard s c (outstanding s c) (payError c 4 va n k))) ∧
      (∀ k m, c.op = 0xB8 → s.blocks[c.blk]? = some k →
        let x := mmaArgs c.record c.scale
        let st := (List.range m).foldl (fun st _ => mmaRow x st) { blk := k, load := c.load, groups := c.groups, rows := c.prog, met := none }
        let c2 := { c with prog := c.prog + m, error := c.error.or (st.met.map poisonError) }
        let u := putCard (s.modBlock c.blk fun _ => st.blk) c2
        let due := outstanding s c
        let done (v : State) : State := match c2.error with | none => completeCard v c2 1 due | some t => failCard v c2 due t
        x.wload = false → c.prog + m ≤ x.total → m * x.rowBytes ≤ fifoLen k.aFifo →
        (c.prog + m = x.total ∨ fifoLen k.aFifo < (m + 1) * x.rowBytes) →
        (c.prog + m < x.total → exec (.cardComplete c.id) s = .next u) ∧
        (c.prog + m = x.total → recB c.record 0x18 2 = false → exec (.cardComplete c.id) s = .next (done u)) ∧
        ∀ v, c.prog + m = x.total → recB c.record 0x18 2 = true → drainPayload u c2 = .ok () v → exec (.cardComplete c.id) s = .next (done v)) ∧
      (∀ u, c.op = 0xBA → drainPayload s c = .ok () u → exec (.cardComplete c.id) s = .next (completeCard u c 1 (drainBytes s c))) ∧
      (0xC0 ≤ c.op → c.op ≤ 0xC3 →
        (∀ c2 u, c.prog < kvSteps c → kvAdvance s c = .ok c2 u → exec (.cardComplete c.id) s = .next (putCard u c2)) ∧
        (c.prog = kvSteps c → c.op ≠ 0xC0 → exec (.cardComplete c.id) s = .next (completeCard s c 1 (outstanding s c))) ∧
        ∀ u, c.prog = kvSteps c → c.op = 0xC0 → attnFinish s c = .ok () u →
          exec (.cardComplete c.id) s = .next (completeCard (writeStatuses u c c.stat) c 1 (outstanding s c))) ∧
      (∀ u, c.op = 0xC4 → embgPayload s c = .ok () u → exec (.cardComplete c.id) s = .next (completeCard u c 1 (outstanding s c))) ∧
      (∀ u, c.op = 0xC5 → embuPayload s c = .ok () u → exec (.cardComplete c.id) s = .next (completeCard u c 1 (outstanding s c))) ∧
      (c.op = 0xC6 →
        (∀ v, versionOf s c = some v → v.serial ≠ c.id → v.pins ≠ 0 → exec (.cardComplete c.id) s = .next s) ∧
        ((∀ v, versionOf s c = some v → v.serial = c.id ∨ v.pins = 0) → exec (.cardComplete c.id) s = .next (completeCard (swapEnd s c) c 1 0)))) ∧
    (∀ (x : MmaArgs) (st : MmaState),
      let k := st.blk
      let l := latchTile k.latch
      let g := st.rows / x.rows
      let row := st.rows % x.rows
      let ab := (fifoBytes k.aFifo).take x.rowBytes
      let a (j : Nat) : Nat := leNat (((ab.map (·.1)).drop (j * etypeSize (BitVec.ofNat 4 x.af))).take (etypeSize (BitVec.ofNat 4 x.af)))
      let w (n j : Nat) : Nat := leNat ((l.tile.drop ((128 * j + n) * etypeSize l.fmt)).take (etypeSize l.fmt))
      let part (n : Nat) : Nat :=
        if x.af = 0 then
          (roundInt .f32 .rne false ((List.range 128).map fun j => (BitVec.ofNat 8 (a j)).toInt * (BitVec.ofNat 8 (w n j)).toInt).sum 0 false).bits
        else (fsumV .f32 .rne false false ((List.range 128).map fun j => fprod (fval (fmtOf x.af) (a j)) (fval (fmtOf l.fmt.toNat) (w n j)))).bits
      let t (n : Nat) : Nat := mul32 (part n) (mul32 (nth 0 x.scale (x.gs + g * x.rows + row)) l.sw.toNat)
      (x.acc < k.tiles.length → row < 128 →
        (mmaRow x st).rows = st.rows + 1 ∧ (mmaRow x st).blk.aFifo = fifoDrop k.aFifo x.rowBytes ∧
        (∀ n, n < 128 → (mmaRow x st).blk.acc x.acc row n = BitVec.ofNat 32
          (if l.mark = none ∧ ∀ y ∈ ab, y.2 = none then
            if g = 0 ∧ x.ovw = true then t n else add32 (k.acc x.acc row n).toNat (t n)
           else Fmt.f32.nan)) ∧
        ∀ i r n, r < 128 → n < 128 → i ≠ x.acc ∨ r ≠ row → (mmaRow x st).blk.acc i r n = k.acc i r n) ∧
      (st.needsTile x = true → st.load = [] → x.tileBytes ≤ fifoLen k.wFifo →
        let wb := (fifoBytes k.wFifo).take x.tileBytes
        mmaLoad x st = { st with
          blk := { k with wFifo := fifoDrop k.wFifo x.tileBytes,
                          latch := { fmt := BitVec.ofNat 4 x.wf, sw := BitVec.ofNat 32 (nth 0 x.scale g), tile := wb.map (·.1), mark := wb.findSome? (·.2) } },
          groups := g + 1 })) ∧
    (∀ (k : Block) (t1 t2 t3 : State), s.blocks[c.blk]? = some k →
      let d := recF c.record 0x20 23 16 + 1
      let acc := recF c.record 0x20 10 8
      let rows := (List.range d).map fun i => (List.range 128).map fun j => (k.acc acc i j).toNat
      let cols := (List.range 128).map fun j => (List.range d).map fun i => (k.acc acc i j).toNat
      let type (b : Nat) : Nat := (boxView (cardKernel s c) c.record b).etype.toNat
      let valid (b : Nat) : Bool := (boxOf c.record b).valid
      let eight (b : Nat) : Bool := type b != 8 && type b != 10
      let copy (b : Nat) (m : List (List Nat)) : List Nat :=
        if type b = 8 then m.flatten
        else if type b = 10 then m.flatten.map fun x => (ftof .bf16 .rne false (v32 x)).bits
        else (m.map fun r => (quantVec (type b == 12) r).2).flatten
      let scales (b : Nat) (m : List (List Nat)) : List Nat := if valid b && eight b then m.map fun r => (quantVec (type b == 12) r).1 else []
      (if valid 1 then writeBox s c 1 (copy 1 rows) else .ok () s) = .ok () t1 →
      (if valid 2 then writeBox t1 c 2 (copy 2 cols) else .ok () t1) = .ok () t2 →
      (if valid 3 then writeBox t2 c 3 (scales 1 rows ++ scales 2 cols) else .ok () t2) = .ok () t3 →
      drainPayload s c = .ok () (if recB c.record 0x20 2 then t3.modBlock c.blk fun k => k.setRows acc d fun _ _ => 0 else t3)) ∧
    (∀ (k : Block) (t d : Nat), t < k.tiles.length → ∀ r n, r < 128 → n < 128 →
      (k.setRows t d fun _ _ => 0).acc t r n = if r < d then 0 else k.acc t r n) ∧
    (let x := kvDesc c.desc
     let j := attnPage c
     (∀ e t u, c.prog % 2 = 0 → kvEntry s c j = .ok e t →
       (e.st = 2 → attnEnter s c = .held) ∧
       (e.st = 1 → kvPut t c j 3 (e.rdr + 1) = .ok () u → attnEnter s c = .ok { c with prog := c.prog + 1 } (attnInit u c)) ∧
       (e.st = 0 → attnEnter s c = .ok { c with prog := c.prog + 2, stat := c.stat ++ [1], waited := false } (attnInit t c)) ∧
       (e.st = 3 → attnEnter s c = .ok { c with prog := c.prog + 2, stat := c.stat ++ [3], waited := false } (attnInit t c))) ∧
     (∀ q t1 e t2 kc t3 vc t4 t5 k, c.prog % 2 = 1 → readBox s c 0 = .ok q t1 → kvEntry t1 c j = .ok e t2 →
       Pay.collect (fun u n => readRow u c x.kview 2 (64 * e.pg + n)) (List.range 64) t2 = .ok kc t3 →
       Pay.collect (fun u n => readRow u c x.vview 3 (64 * e.pg + n)) (List.range 64) t3 = .ok vc t4 →
       kvPut t4 c j 3 (e.rdr + 2 ^ 32 - 1) = .ok () t5 → t5.blocks[c.blk]? = some k → attnAcc c + 1 < k.tiles.length → attnRows c ≤ 128 →
       x.hd ≤ 128 →
       let inU (r n : Nat) : Prop := 64 * j + n < recW c.record 0x2C ∧ (recB c.record 0x18 29 = true → 64 * j + n ≤ recW c.record 0x28 + r)
       let key (n : Nat) : List FVal :=
         if x.rope = 2 then rotateRow c.desc ((64 * j + n : Nat) : Int) (scaledRow x.fmt e.ksc (nth [] kc n)) else scaledRow x.fmt e.ksc (nth [] kc n)
       let val (n : Nat) : List FVal := scaledRow x.fmt e.vsc (nth [] vc n)
       let query (r : Nat) : List FVal := ((q.drop (r * x.hd)).take x.hd).map (fval (fmtOf (recF c.record 0x18 19 16)))
       ∃ u v sts, attnTile s c = .ok { c with prog := c.prog + 1, stat := c.stat ++ [sts], waited := false } u ∧
         u.blocks[c.blk]? = some v ∧ u.mem = t5.mem ∧
         (c.waited = true → sts = 2) ∧ (c.waited = false → (sts = 0 ∨ sts = 1) ∧ (sts = 0 ↔ ∃ r n, r < attnRows c ∧ n < 64 ∧ inU r n)) ∧
         ∀ r (ns : List Nat), r < attnRows c → (∀ n, n ∈ ns ↔ n < 64 ∧ inU r n) → ns.Pairwise (· < ·) →
           let old := attnRow k (attnAcc c) x.hd r
           let new := if ns = [] then old else attnStep (recW c.record 0x30) (query r) (ns.map key) (ns.map val) old
           (∀ d, d < x.hd → v.acc (attnAcc c) r d = BitVec.ofNat 32 (nth 0 new.o d)) ∧
           v.acc (attnAcc c + 1) r 0 = BitVec.ofNat 32 new.m ∧ v.acc (attnAcc c + 1) r 1 = BitVec.ofNat 32 new.l) ∧
     (∀ k, s.blocks[c.blk]? = some k → attnFinish s c =
       if recB c.record 0x18 28 then writeBox s c 1 ((List.range (attnRows c)).flatMap fun r =>
         (List.range x.hd).map fun d => if (v32 (k.acc (attnAcc c + 1) r 1).toNat).isZero then 0
           else (fdivV (fmtOf (recF c.record 0x18 23 20)) .rne false (v32 (k.acc (attnAcc c) r d).toNat) (v32 (k.acc (attnAcc c + 1) r 1).toNat)).bits)
       else .ok () s) ∧
     (∀ w sts, s.warp? { b := c.blk, w := c.warp } = some w → ∃ v, (writeStatuses s c sts).warp? { b := c.blk, w := c.warp } = some v ∧
       ∀ i, i < w.lanes.length → LaneIs w v i fun l =>
         if l.retired then l else l.setV c.dest { val := BitVec.ofNat 32 (nth 0xFFFFFFFF sts i), poison := false }) ∧
     (∀ e t u p, kvEntry s c p = .ok e t → (e.st ≠ 1 → pageEnter s c p = .held) ∧
       (e.st = 1 → kvPut t c p 0 (e.low + 2 * 2 ^ 30) = .ok () u → pageEnter s c p = .ok { c with prog := c.prog + 1 } u)) ∧
     (∀ e t u v p work, kvEntry s c p = .ok e t → (e.rdr ≠ 0 → pageWrite s c p work = .held) ∧
       (e.rdr = 0 → work e t = .ok () u → kvPut u c p 0 (e.low + 2 ^ 30) = .ok () v → pageWrite s c p work = .ok { c with prog := c.prog + 1 } v)) ∧
     (∀ p ks vs e, let p0 := recW c.record 0x24
       appendRows c p ks vs e s = Pay.each (fun t n =>
         let src (b : Nat) (xs : List Nat) : List FVal :=
           ((xs.drop ((n - p0) * x.hd)).take x.hd).map (fval (fmtOf (boxView (cardKernel t c) c.record b).etype.toNat))
         let store (scale : Nat) (ys : List FVal) : List Nat := ys.map fun y => (fdivV (fmtOf x.fmt) .rne true y (v32 scale)).bits
         (writeRow t c x.kview 2 (64 * e.pg + n % 64) (store e.ksc (if x.rope = 1 then rotateRow c.desc (n : Int) (src 0 ks) else src 0 ks))).andThen
           fun _ u => writeRow u c x.vview 3 (64 * e.pg + n % 64) (store e.vsc (src 1 vs)))
         (((List.range 64).map (· + 64 * p)).filter fun n => p0 ≤ n && n < p0 + (recF c.record 0x18 10 0 + 1)) s) ∧
     (∀ xs t e t1 t2 t3 t4, c.prog < (mapPages c).length →
       let p := recW c.record 0x24 + c.prog
       readBox s c 0 = .ok xs t → kvEntry t c p = .ok e t1 → (e.st = 2 ∨ e.rdr ≠ 0 → mapAdvance s c = .held) ∧
       (e.st ≠ 2 → e.rdr = 0 → kvPut t1 c p 0 (nth 0 xs (4 * c.prog)) = .ok () t2 → kvPut t2 c p 1 (nth 0 xs (4 * c.prog + 1)) = .ok () t3 →
         kvPut t3 c p 2 (nth 0 xs (4 * c.prog + 2)) = .ok () t4 → mapAdvance s c = .ok { c with prog := c.prog + 1 } t4)) ∧
     (∀ e, rotRows c e s = Pay.each (fun t n => (readRow t c x.kview 0 (64 * e.pg + n)).andThen fun xs t =>
       writeRow t c x.kview 0 (64 * e.pg + n) ((rotateRow c.desc (recI c.record 0x28) (xs.map fun y => fprod (fval (fmtOf x.fmt) y) (v32 e.ksc))).map
         fun y => (fdivV (fmtOf x.fmt) .rne true y (v32 e.ksc)).bits)) (List.range 64) s)) ∧
    (∀ (scale : Nat) (q : List FVal) (ks vs : List (List FVal)) (row : AttnRow),
      let ss := ks.map fun k => mul32 (fsumV .f32 .rne false false ((q.zip k).map fun x => fprod x.1 x.2)).bits scale
      let m := ss.foldl maxNan row.m
      let a := v32 (expRound (exactDiff row.m m))
      let ps := ss.map fun x => v32 (expRound (exactDiff x m))
      let new := attnStep scale q ks vs row
      new.m = m ∧ new.l = (fsumV .f32 .rne false false (fprod (v32 row.l) a :: ps)).bits ∧ new.o.length = row.o.length ∧
      ∀ d x, row.o[d]? = some x → new.o[d]? = some (fsumV .f32 .rne false false
        (fprod (v32 x) a :: (ps.zip vs).map fun y => fprod y.1 (nth (.fin false 0 0) y.2 d))).bits) ∧
    (∀ v idx t off t2 rows t3 t4, versionOf s c = some v → readBox s c 0 = .ok idx t → readBox t c 1 = .ok off t2 →
      Pay.collect (fun u r => Pay.collect (fun u d => (readTable u c (viewAddr v.table [(d : Int), (r : Int)]) v.table.size).andThen fun bs u =>
        .ok (widen32 v.table.size (leNat bs)) u) (List.range v.cols) u) (idx.map fun y => (indexVal t2 c y).toNat) t2 = .ok rows t3 →
      let bag (b : Nat) : List (List Nat) := (rows.drop (nth 0 off b)).take (nth 0 off (b + 1) - nth 0 off b)
      let pool (xs : List Nat) : Nat := match xs with
        | [] => 0
        | y :: l =>
          if recF c.record 0x18 9 8 = 2 then l.foldl (fun y z => (fminmax .f32 true y z).bits) y
          else if recF c.record 0x18 9 8 = 1 then (fdivV .f32 .rne false (v32 (l.foldl add32 y)) (.fin false (l.length + 1) 0)).bits
          else l.foldl add32 y
      writeBox t3 c 2 ((List.range (recW c.record 0x1C)).flatMap fun b => (List.range v.cols).map fun d => pool ((bag b).map fun r => nth 0 r d)) = .ok () t4 →
      embgPayload s c = .ok () (unpin t4 c)) ∧
    (∀ v idx t grads t2 t3, versionOf s c = some v → readBox s c 0 = .ok idx t → readBox t c 1 = .ok grads t2 →
      let rows := idx.map fun y => (indexVal t2 c y).toNat
      Pay.each (updateRow c v rows grads) (distinct rows) t2 = .ok () t3 → embuPayload s c = .ok () (unpin t3 c)) ∧
    (∀ (v : Version) (idx grads w : List Nat) (r : Nat) (t u : State), recB c.record 0x18 8 = false → tableRow c v s r = .ok w t →
      putTableRow c v r ((w.zip (gradOf idx grads v.cols r)).map fun x =>
        (fsumV (fmtOf v.table.etype.toNat) .rne false false [v32 x.1, (fprod (v32 (recW c.record 0x1C)) (v32 x.2)).flip]).bits) t = .ok () u →
      updateRow c v idx grads s r = .ok () u) ∧
    (∀ (v : Version) (sv : View) (idx grads w : List Nat) (r : Nat) (bs : List Byte) (t t2 t3 u : State), recB c.record 0x18 8 = true →
      v.state = some sv → tableRow c v s r = .ok w t → readTable t c (viewAddr sv [(r : Int)]) 4 = .ok bs t2 →
      let g := gradOf idx grads v.cols r
      let mean := (fdivV .f32 .rne false (sumVal (g.map fun x => fprod (v32 x) (v32 x))) (.fin false g.length 0)).bits
      let st := add32 (leNat bs) mean
      let rate := (fdivV .f32 .rne false (v32 (recW c.record 0x1C)) (v32 (fsqrtV .f32 .rne (sumVal [v32 st, v32 (recW c.record 0x20)])).bits)).bits
      writeTable t2 c (viewAddr sv [(r : Int)]) (natLE 4 st) = .ok () t3 →
      putTableRow c v r ((w.zip g).map fun x =>
        (fsumV (fmtOf v.table.etype.toNat) .rne false false [v32 x.1, (fprod (v32 rate) (v32 x.2)).flip]).bits) t3 = .ok () u →
      updateRow c v idx grads s r = .ok () u) ∧
    (∀ tb, s.tables = [tb] → tb.ctx = s.ctxOf c.blk → tb.tid = recF c.record 0x18 7 0 →
      let left := tb.vers.filter fun v => v.serial != c.version || v.serial == c.id
      (swapEnd s c).tables = if left = [] then [] else [{ tb with vers := left }]) ∧
    (∀ bx k va bs pa t, payHome s c bx k va .write = .ok pa t → t.bad = [] → ∃ u, writeVirt s c bx k va bs = .ok () u ∧
      u.mem = memPut t.mem pa bs ∧ u.blocks = t.blocks) ∧
    (∀ core (k : Core) x, s.cores[core]? = some k → x ∈ s.cards → x.core = core → readyPush s x = true → k.holder ≠ some x.blk →
      ∃ k2 n, (askPush s core).cores[core]? = some k2 ∧ k2.holder = k.holder ∧ k2.lease = k.lease ∧ (x.blk, n) ∈ k2.reqs) ∧
    (∀ core (k : Core) (b n : Nat) rest, (askPush s core).cores[core]? = some k → k.holder = none → k.reqs = (b, n) :: rest →
      ∃ t k2, exec (.mainsailGrant core) s = .next t ∧ t.cores[core]? = some k2 ∧ k2.holder = some b ∧ n ≤ k2.lease ∧
        k2.reqs = rest.filter fun y => y.1 != b) ∧
    (∀ ctx tid row t, s.tables = [t] → t.ctx = ctx → t.tid = tid → t.hot.length < 4096 → row ∉ t.hot →
      (∃ u, exec (.sorrelHotMigrate ctx tid row true) s = .next u ∧ u.mem = s.mem ∧ u.tables = [{ t with hot := t.hot ++ [row] }]) ∧
      ∃ u, exec (.sorrelHotMigrate ctx tid row false) s = .next u ∧ u.mem = s.mem ∧ u.tables = [t])

/-- 11 R265, R266, R268, 05 R120: the end of a card drops it and leaves its flag one lower; SEQ of its engine becomes the ticket before the earliest still
outstanding, or ISS; what is still due is delivered to its byte barrier, then STATUS is stored when SWV asks for it, 2 for a discarded card, then the
completion word; a fire-and-forget card makes none of these writes. Shown for a card whose completion wakes no wait, and for one whose completion ends the wait
of its warp for its flags. -/
def Obligations.CompletionWritesItsCard : Prop :=
  ∀ (s : State) (c : Card) (n due : Nat) (w : Warp), s.warp? { b := c.blk, w := c.warp } = some w →
    let r : WarpRef := { b := c.blk, w := c.warp }
    let t := completeCard s c n due
    let flags := match c.flag with | some f => w.flags.modify f (· - 1) | none => w.flags
    let status : Prop := recB c.record 0 2 = true → n < 2 ^ 32 → recB c.record 0 0 = false → ∀ k, s.blocks[c.recBlk]? = some k →
      Memory.wf k.bytes = true → t.scratchWord c.recBlk (c.recOff + 0x14) = BitVec.ofNat 32 n
    ((∀ q v, s.warp? q = some v → ∀ e ∈ v.entries, e.waits = false) →
      (t.cards = s.cards.filter (·.id != c.id) ∧ t.mem = s.mem ∧
        ∃ v, t.warp? r = some v ∧ v.lanes = w.lanes ∧ v.s = w.s ∧ v.flags = flags) ∧
      (∀ k, s.cores[c.core]? = some k → ∃ k2, t.cores[c.core]? = some k2 ∧ k2.iss = k.iss ∧
        k2.seq = if c.eng < 4 then k.seq.set c.eng
          (match (s.cards.filter fun x => x.id != c.id && x.queued && !x.foreign && x.core == c.core && x.eng == c.eng).findSome? (·.ticket) with
           | some y => y - 1
           | none => (k.iss[c.eng]?).getD 0) else k.seq) ∧
      (c.ff = true → ∀ b a m, t.scratchBytes b a m = s.scratchBytes b a m) ∧
      (c.ff = false →
        status ∧
        (∀ b a k, recB c.record 0 1 = true → due ≠ 0 → spotAt s c (bbSpot c.record) = some (b, a) → recB c.record 0 0 = false →
          recB c.record 0 2 = false → s.blocks[b]? = some k → Memory.wf k.bytes = true →
          t.scratchBytes b a 8 =
            natLE 4 (BitVec.ofInt 32 ((s.barb b a).deliver due).count).toNat ++ natLE 4 ((s.barb b a).deliver due).high.toNat) ∧
        (∀ b a k, recB c.record 0 0 = true → spotAt s c (cwSpot c.record) = some (b, a) → s.blocks[b]? = some k → Memory.wf k.bytes = true →
          t.scratchBytes b a 4 = natLE 4 (recW c.record 4)))) ∧
    (∀ (e : Entry) (k : Nat) (m : BitVec 12), w.entries[k]? = some e → e.st = .waiting (.waitf m) → s.still c.blk = false → w.held = [] →
      w.stores = [] → (∀ q v j x, s.warp? q = some v → v.entries[j]? = some x → x.waits = true → q = r ∧ j = k) → c.ff = false →
      flagsClear { w with flags := flags } m = true →
      status ∧ ∃ v, t.warp? r = some v ∧ v.flags = flags ∧ v.region = [] ∧
        v.entries[k]? = some { e with pc := e.pc + 8, st := .runnable, woken := true, since := s.cycle })

/-- 20 R355-R371, 24 R407-R411: steps of host software at the registers, and of the scheduler, the power and the idle loops.
The agenda names each event with the power and temperature it reads, and shares are whole picojoules (logs 1, 19); the die a gang reserves is log 57, the
order of pre-emptions log 32, the contexts that count as bound log 33. A pre-emption with no block on its cores ends in its request (R365); one with blocks halts
them, and ends when they stand at their clause boundaries, their cards are drained and they are saved. -/
def Obligations.SchedulerEventsComplete : Prop :=
  ∀ (s : State),
    (∀ q (v : W32), exec (.qtailWrite q v) s = .next { s with queues := assocSet s.queues q { s.queue q with tail := v } }) ∧
    (∀ q, exec (.queueDisable q) s = .next { s with queues := assocSet s.queues q { s.queue q with en := false } }) ∧
    (∀ q, exec (.qenergyRead q) s =
      .next { s with queues := assocSet s.queues q { s.queue q with energyH := (s.queue q).energy.extractLsb' 32 32 } }) ∧
    (∀ q (v : W32), exec (.qenergyWrite q v) s = .next { s with queues := assocSet s.queues q { s.queue q with energy := v.setWidth 64 } }) ∧
    (∀ q, (s.queue q).en = false → s.mstat.boot = 3 → 4 ≤ (s.queue q).logn → (s.queue q).logn ≤ 16 → (s.queue q).ring.toNat % 128 = 0 →
      partCores s (s.queue q).part.toNat ≠ [] →
      (∀ p, s.boundPart (s.queue q).ctx.toNat = some p → p = (s.queue q).part.toNat) →
      ∃ t, exec (.queueEnable q) s = .next t ∧ t.queues = assocSet s.queues q { s.queue q with en := true } ∧
        t.ctxPart (s.queue q).ctx.toNat = some (s.queue q).part.toNat) ∧
    (∀ (v : W64), exec (.registerWrite 0x44100 v) s = .next { s with frz := { s.frz with
      arm := v.getLsbD 31, fcode := v.extractLsb' 8 8, fsrc := v.extractLsb' 0 3 } }) ∧
    (∀ (v : W64), s.frz.frozen = false → exec (.registerWrite 0x40038 v) s = .next { s with tctl := { s.tctl with
      ctxtbase := v &&& 0x000FFFFFFFFFC000 } }) ∧
    (∀ q, entryReady s q = true → entryStays s q = true → exec (.launchEntryTake q) s = .next s) ∧
    (∀ q, entryReady s q = true → entryStays s q = false →
      let g := entryGrid s q (headEntry s (s.queue q))
      ∃ t, exec (.launchEntryTake q) s = .next t ∧ t.queues = assocSet s.queues q { s.queue q with head := (s.queue q).head + 1 } ∧
        (entryReject s q (headEntry s (s.queue q)) g = none → t.grids = s.grids ++ [g]) ∧
        ∀ x, entryReject s q (headEntry s (s.queue q)) g = some x →
          t.grids = s.grids ++ [{ g with kernel := noKernel, status := .rejected x.kind x.off }]) ∧
    (∀ p, restoreReady s p = true → exec (.blockPlace p) s = .next (noteWaits p s)) ∧
    (∀ p t, restoreReady s p = false → (serveOrder s p).findSome? (placeGang s) = some t → exec (.blockPlace p) s = .next (noteWaits p t)) ∧
    (∀ p gi g, s.grids[gi]? = some g → (noteWaits p s).grids[gi]? =
      some (if waitsPlace s p gi then { g with waitAt := some (g.waitAt.getD s.cycle) } else g)) ∧
    (∀ p gi t, (waitingGangs (noteWaits p s)).head? = some (p, gi, t) → (noteWaits p s).resvOn (roomiest (noteWaits p s) p) = none →
      exec (.gangReserve p) s = .next { noteWaits p s with resv := s.resv ++
        [{ grid := gi, part := p, die := roomiest (noteWaits p s) p, since := t, lent := [], noLend := false }] }) ∧
    (∀ x y, (waitingGangs s).head? = some x → y ∈ waitingGangs s → x.2.2 ≤ y.2.2 ∧ ∃ g, s.grids[y.2.1]? = some g ∧ g.waitAt = some y.2.2) ∧
    (∀ p x, s.resv = [x] → x.part = p → 64 * s.mstat.fclk.toNat ≤ s.cycle - x.since →
      exec (.gangLendCutoff p) s = .next { s with resv := [{ x with noLend := true }] } ∧ x.lends s = false) ∧
    (∀ gi g pa, s.grids[gi]? = some g → g.recorded = false → gridOver s gi g = true → g.status = .running → g.cpl = some pa →
      (∀ x ∈ s.grids.take gi, x.queue ≠ g.queue ∨ x.cpl = none ∨ x.recorded = true) →
      ∃ t, exec (.gridComplete gi) s = .next t ∧ t.grids[gi]? = some { g with recorded := true, status := .done } ∧
        t.mem = memPut s.mem pa (natLE 8 (g.index.toNat * 2 ^ 32 + 1)) ∧ (t.queue g.queue).done = (s.queue g.queue).done + 1) ∧
    (∀ ctx h d x, s.node? ctx h = some d → (waitingAt s ctx h).head? = some x → d.flush ≠ 0 → d.fits = true →
      d.flush * s.mstat.fclk.toNat ≤ s.cycle - x.cycle → nodeStays s ctx h = false →
      exec (.nodeFlushTimer ctx h) s = .next (launchNode s ctx h d (waitingAt s ctx h).length)) ∧
    (∀ (c0 c1 : W64), (partCores s (c0.toNat / 256 % 8)).length ≤ c0.toNat % 256 → ∃ t, exec (.preemptRequest c0 c1) s = .next t ∧
      t.pcmd0 = c0 ∧ t.pcmd1 = c1 ∧ t.blocks = s.blocks ∧ t.mem = memPut s.mem c1.toNat (List.replicate 24 0 ++ natLE 8 2)) ∧
    (∀ (c0 c1 : W64), c0.toNat % 256 < (partCores s (c0.toNat / 256 % 8)).length → s.preempts = [] →
      (∀ b ∈ victims s (chooseCores s (c0.toNat / 256 % 8) (c0.toNat % 256)), s.ctxOf b = sysCtx) →
      victims s (chooseCores s (c0.toNat / 256 % 8) (c0.toNat % 256)) ≠ [] →
      exec (.preemptRequest c0 c1) s = .next { s with pcmd0 := c0, pcmd1 := c1, preempts :=
        [{ part := c0.toNat / 256 % 8, cores := chooseCores s (c0.toNat / 256 % 8) (c0.toNat % 256), pa := c1.toNat, halted := [] }] }) ∧
    (∀ (c0 c1 : W64), c0.toNat % 256 < (partCores s (c0.toNat / 256 % 8)).length →
      let p := c0.toNat / 256 % 8
      let cores := chooseCores s p (c0.toNat % 256)
      let x : Preempt := { part := p, cores := cores, pa := c1.toNat, halted := [] }
      let vs := victims s cores
      exec (.preemptRequest c0 c1) s = .next (servePreempt { s with pcmd0 := c0, pcmd1 := c1, preempts := s.preempts ++ [x] }) ∧
      (s.preempts = [] → vs = [] → ∃ t, exec (.preemptRequest c0 c1) s = .next t ∧ t.preempts = [] ∧ t.pcmd0 = c0 ∧ t.pcmd1 = c1 ∧
        t.blocks = s.blocks ∧ t.cards = s.cards ∧ t.mem = memPut s.mem c1.toNat (preemptRecord (coreMask cores) 1 cores.length) ∧
        ∀ y, s.parts[p]? = some y → ∃ z, t.parts[p]? = some z ∧ z.a.cores = y.a.cores &&& ~~~ coreMask cores) ∧
      (s.preempts = [] → (∀ b ∈ vs, s.ctxOf b ≠ sysCtx) → passesHeld vs.contains s = false →
        (∃ b ∈ vs, ∃ k w, s.blocks[b]? = some k ∧ w ∈ k.warps ∧ w.cur.isSome = true) →
        ∃ t, exec (.preemptRequest c0 c1) s = .next t ∧ t.preempts = [{ x with halted := runningOf s vs }] ∧ t.mem = s.mem ∧ t.cards = s.cards ∧
          t.parts = s.parts ∧ ∀ b ∈ vs, ∀ k, s.blocks[b]? = some k → k.place = .resident → ∃ k2, t.blocks[b]? = some k2 ∧ k2.halted = true ∧
            k2.warps = k.warps)) ∧
    (∀ x xs u v held w, s.preempts = x :: xs → (∀ b ∈ victims s x.cores, s.ctxOf b ≠ sysCtx) →
      passesHeld (victims s x.cores).contains s = false → runningOf s (victims s x.cores) = [] →
      (∀ b ∈ victims s x.cores, ∀ k, s.blocks[b]? = some k → ∀ y ∈ k.warps, y.cur = none) →
      quietAll (victims s x.cores) s = some u → drainOut (victims s x.cores).contains u = some (v, held) →
      saveAll held (stillThere v (victims s x.cores)) v = some w →
      ∃ t, servePreempt s = t ∧ t.preempts = w.preempts.drop 1 ∧
        t.mem = memPut w.mem x.pa (preemptRecord (coreMask x.cores) 1 x.cores.length) ∧ t.parts = w.parts.modify x.part (Part.dropCores (coreMask x.cores))) ∧
    (∀ (m : BitVec 144) (st n : Nat), preemptRecord m st n =
      natLE 8 (m.toNat % 2 ^ 64) ++ natLE 8 (m.toNat / 2 ^ 64 % 2 ^ 64) ++ natLE 8 (m.toNat / 2 ^ 128) ++ natLE 8 (st + 256 * n)) ∧
    (∀ b u, s.ctxPlaces (s.ctxOf b) = true → firstBack s b = true → reseat s b = some u → anyIdle u (gangOf s b) = false →
      exec (.blockRestore b) s = .next ((gangOf s b).foldl restoreBlock u)) ∧
    (∀ p x, s.parts[p]? = some x → (∀ q y, q ≠ p → s.parts[q]? = some y → x.w.meets y.a = false) →
      x.a.cores &&& ~~~ x.w.cores = 0 → x.a.hbm &&& ~~~ x.w.hbm = 0 → x.a.stay &&& ~~~ x.w.stay = 0 → x.a.eth &&& ~~~ x.w.eth = 0 →
      exec (.pcfgCommit p) s = .next { s with parts := s.parts.set p { x with a := x.w, cstat := 1 } }) ∧
    (∀ p x (watts input : Nat) (m : Meter), s.parts[p]? = some x → (∀ y ∈ m.units, y.2 = 0) →
      ∃ t y, exec (.powerWindow p watts input [] m) s = .next t ∧
      t.mstat.mpower = BitVec.ofNat 16 input ∧ t.parts[p]? = some y ∧ y.ppower = BitVec.ofNat 16 watts ∧
      y.pidlee = x.pidlee + BitVec.ofNat 32 ((x.carry + m.pj) / 1000000) ∧ y.carry = (x.carry + m.pj) % 1000000 ∧
      (x.pcap ≠ 0 → x.pcap.toNat < watts → y.duty.toNat = max (x.duty.toNat * x.pcap.toNat / watts) 1) ∧
      (x.pcap = 0 → x.duty.toNat ≤ 64 → y.duty.toNat = min (x.duty.toNat + 1) 64)) ∧
    (∀ p q (x : Part) (pj units : Nat), s.parts[p]? = some x → q < 4096 → units ≠ 0 →
      ∃ t, exec (.powerWindow p 0 0 [] { core := 0, pj := pj, units := [(q, units)] }) s = .next t ∧
        (t.queue q).energy = (s.queue q).energy + BitVec.ofNat 64 (((s.queue q).carry + pj) / 1000000) ∧
        (t.queue q).carry = ((s.queue q).carry + pj) % 1000000) ∧
    (∀ mhz temp, exec (.thermalThrottle mhz temp) s = .next { s with mstat := { s.mstat with
      fclk := BitVec.ofNat 16 (min mhz 3300), temp := BitVec.ofNat 16 temp } }) ∧
    (∀ core k p, s.cores[core]? = some k → corePart s core = some p → coreBusy s core = false →
      20 * s.mstat.fclk.toNat ≤ s.cycle - k.emptyAt →
      exec (.idleEntry core) s = .next (s.modCore core fun x => { x with
        idle := if 40000 ≤ p.pltol.toNat then 3 else if 5000 ≤ p.pltol.toNat then 2 else if 200 ≤ p.pltol.toNat then 1 else 0,
        tlb := if 40000 ≤ p.pltol.toNat then [] else x.tlb })) ∧
    (∀ core, exec (.idleExit core) s = .next (s.modCore core fun x => { x with idle := 0 })) ∧
    (s.frz.frozen = false →
      (∀ p x, p < 8 → s.parts[p]? = some x → registerRead s (0x41200 + 64 * p + 0x18) = (some (x.a.hbm.setWidth 64), s)) ∧
      (∀ q, q < 4096 → registerRead s (64 * q + 0x1C) = (some (((s.queue q).energy.extractLsb' 0 32).setWidth 64),
        { s with queues := assocSet s.queues q { s.queue q with energyH := (s.queue q).energy.extractLsb' 32 32 } })) ∧
      registerRead s 0x40030 = (some (BitVec.ofNat 64 (256 - s.tctl.cmds.length)), s) ∧
      ∀ off, 0x50000 ≤ off → registerRead s off = (some 0, s))

/-- 19 R341-R353, 18 R327, R328: translation commands, sweeps, migrations, walks and translations of code pages.
That each is an event the agenda may name is the model's (log 1), and so are the order of two accesses held in one cycle (log 49) and what becomes of the lines
that a warp holds in a page whose shootdown is done: they take the home that the tables give, or one that no memory has (log 67). A migration writes its leaf,
then the held accesses go on in the order of their arrival, and then its status is written (19 R350 steps 4-6). -/
def Obligations.TranslationEventsComplete : Prop :=
  ∀ (s : State),
    (∀ c, nextCmd s [0] = some c → c.bad s = false → c.op = 0 → exec .shoot s = .next (putCmd s { c with phase := 1, cores := List.range 144 })) ∧
    (∀ c, nextCmd s [1] = some c → c.bad s = false → c.op = 1 →
      exec .shootctx s = .next (putCmd s { c with phase := 1, cores := List.range 144 })) ∧
    (∀ c e, nextCmd s [2] = some c → c.bad s = false → c.op = 2 → goodLeaf s c = some e → ∃ t, exec .migrate s = .next t ∧
      t.mem = memSet s.mem e (memGet s.mem e ||| 0x20) ∧ t.tctl = (putCmd s { c with phase := 1, cores := List.range 144 }).tctl) ∧
    (∀ c, nextCmd s [3] = some c → c.bad s = false → c.op = 3 → late s c = .yes → exec .promote s = .next (endCmd s c 2)) ∧
    (∀ c e, nextCmd s [3] = some c → c.bad s = false → c.op = 3 → late s c = .no → goodLeaf s c = some e → ∃ t, exec .promote s = .next t ∧
      t.mem = memSet s.mem e (memGet s.mem e ||| 0x20)) ∧
    (∀ c, nextCmd s [4, 5, 6, 7] = some c → 3 < c.op → exec .badcmd s = .next (endCmd s c 3)) ∧
    (∀ (c : TCmd) n, (endCmd s c n).mem = memPut s.mem c.status (natLE 8 ((c.ticket.toNat * 2 ^ 32 + n) % 2 ^ 64)) ∧
      ∀ x ∈ (endCmd s c n).tctl.cmds, x.ticket ≠ c.ticket) ∧
    (∀ core ticket c, s.cmd? ticket = some c → c.phase = 1 → c.cores.contains core = true → ∃ t, exec (.coreSweep core ticket) s = .next t ∧
      (∀ k, t.cores[core]? = some k → ∀ x ∈ k.tlb, c.covers x = false) ∧
      ∀ b j blk w, t.blocks[b]? = some blk → blk.core = core → blk.place = .resident → t.warp? { b := b, w := j } = some w →
        ∀ l ∈ w.lanes, ∀ x, l.lastPage = some x → c.covers x = false) ∧
    (∀ ticket c, s.cmd? ticket = some c → c.phase = 1 → c.cores = [] → c.moves = false →
      exec (.shootComplete ticket) s = .next (endCmd (replay (rehomeAll (dropCmdTags s c) c) c.ctx) c 1)) ∧
    (∀ ctx, replay s ctx = { s with replays := s.replays ++ arrivals s ctx }) ∧
    (∀ ctx, arrivals s ctx = [] ↔ heldAccesses s ctx = []) ∧
    (∀ ctx x, x ∈ arrivals s ctx ↔ ∃ n, (x, n) ∈ heldAccesses s ctx) ∧
    (∀ x n l, (x, n) ∈ byArrival (x, n) l ∧ (l.Pairwise (fun y z : Replay × Nat => y.2 ≤ z.2) →
      (byArrival (x, n) l).Pairwise fun y z => y.2 ≤ z.2)) ∧
    (∀ c r w (h : HeldLine), s.warp? r = some w → w.held = [h] → s.ctxOf r.b = c.ctx →
      ∃ v g, (rehomeAll s c).warp? r = some v ∧ v.held = [g] ∧ (rehomeAll s c).mem = s.mem ∧ g.line = h.line ∧ g.data = h.data ∧ g.dirty = h.dirty ∧
        g.home = (if h.pinned && c.hits c.ctx h.line.toNat 128 then (match s.lineAt c.ctx h.line with
          | pa :: _ => pa
          | [] => noHome c.ctx h.line) else h.home) ∧
        ∀ wr, w.registered h.home wr = true → v.registered g.home wr = true) ∧
    (∀ r (h : HeldLine) w, s.warp? r = some w → w.held = [h] → h.home ≠ noHome (s.ctxOf r.b) h.line → s.unreachable (s.ctxOf r.b) h.home = false →
      ∃ v, (sweepLine s r h).warp? r = some v ∧ v.held = [{ h with dirty := 0 }] ∧ (sweepLine s r h).mem = (s.putLine h.home h.dirty h.data).mem) ∧
    (∀ ticket c, s.cmd? ticket = some c → c.phase = 1 → c.cores = [] → c.op = 2 →
      exec (.shootComplete ticket) s = .next (putCmd (dropCmdTags s c) { c with phase := 2, stayed := none })) ∧
    (∀ ticket c, s.cmd? ticket = some c → c.phase = 2 → exec (.migrationCopyDone ticket) s = .next (finishMove s c)) ∧
    (∀ c e x f, walk s c.ctx (BitVec.ofNat 57 c.va) = .migrating e → walkPast s c.ctx (BitVec.ofNat 57 c.va) = .ok x f →
      let t := moveHomes (copyFrame s x.pa c.newFrame (2 ^ c.bits)) x.pa c.newFrame (2 ^ c.bits)
      let u := t.putWord64 e (newLeaf c (t.word64 e))
      finishMove s c = { putCmd u { c with phase := 3, stayed := none } with
        replays := u.replays ++ arrivals s c.ctx ++ [.finish c.ticket 1] }) ∧
    (∀ c n xs, s.midClause s.turn = false → s.replays = .finish c.ticket n :: xs → s.cmd? c.ticket.toNat = some c →
      turnStep s = .next (endCmd { s with replays := xs } c n)) ∧
    (∀ core ctx va acc b k, s.blocks[b]? = some k → k.core = core → k.place = .resident → s.ctxOf b = ctx →
      exec (.pageWalk core ctx va acc) s = .next (translate s { core := core, lane := none } ctx va acc).2) ∧
    (∀ core ctx va acc x e, ctx ≠ 512 → s.cached { core := core, lane := none } ctx va = none → walk s ctx va = .ok x (some e) → x.allows acc = true →
      x.bits ≠ 0 → ∃ t, translate s { core := core, lane := none } ctx va acc = (.ok (x.addr va), t) ∧
        t.mem = memSet s.mem (e + 1) (memGet s.mem (e + 1) ||| (if acc = .write then 3 else 1)) ∧
        ∀ k, s.cores[core]? = some k → ∃ k2, t.cores[core]? = some k2 ∧ k2.tlb.head? = some x) ∧
    (∀ core ctx va, exec (.translationParityError (.coreTlb core ctx va)) s =
      .next (s.modCore core fun k => { k with tlb := k.tlb.filter fun x => !x.covers ctx va })) ∧
    (∀ b j l, exec (.translationParityError (.lastPage b j l)) s =
      .next (s.modWarp { b := b, w := j } (·.modLane l fun x => { x with lastPage := none }))) ∧
    (∀ die ctx va r g rest, waitersOn s die ctx (pageOf va) = (r, g) :: rest → (dieTag s die g (pageOf va)).isSome = true →
      exec (.dergusTranslate die ctx va) s = .next (wakeServed s die ((r, g) :: rest) (pageOf va))) ∧
    (∀ die ctx va r g rest x e sgn u, waitersOn s die ctx (pageOf va) = (r, g) :: rest → (dieTag s die g (pageOf va)).isSome = false → walk s ctx (pageOf va) = .ok x e → x.ex = true →
      s.unreachable ctx (x.addr (pageOf va)) = false → pageVerdict s die g (pageOf va) (x.addr (pageOf va)) = (0, 0, sgn) →
      cachePage s die g (pageOf va) (x.addr (pageOf va)) sgn = some u →
      exec (.dergusTranslate die ctx va) s = .next (wakeServed u die ((r, g) :: rest) (pageOf va))) ∧
    (∀ die ctx va r g rest, waitersOn s die ctx (pageOf va) = (r, g) :: rest → (dieTag s die g (pageOf va)).isSome = false → walk s ctx (pageOf va) = .fail →
      exec (.dergusTranslate die ctx va) s = .next (faultWaiters s ((r, g) :: rest) g (pageOf va) 2 0))

/-- 18 R336, 21 R394-R396, 24 R406-R418: steps of Chervil, of the links and of the test port, and the errors of memories.
The agenda names each event with what arrives from outside (logs 1, 19). The units of FRZDATA and the order of their words are log 22, the bytes of replies
and what a registration holds logs 33 and 65, the registrations of other modules' agents log 17, that an incoming write or atomic registers its line when it is
held and is performed at a later visit logs 17 and 65. That a reset leaves memory as it was, and step 4 of the boot all
but the stacks, is log 66, that it keeps the fuses log 11, that a freeze takes effect within its own step log 38. -/
def Obligations.ModuleEventsComplete : Prop :=
  ∀ (s : State),
    (s.fuses < 128 → ∃ t, exec (.secfuseRaise true) s = .next t ∧ t.fuses = s.fuses + 1 ∧ t.mem = s.mem ∧
      t.reports = s.reports ++ [.secfuse (s.fuses + 1)] ∧
      ∀ d ∈ t.dies, d.secfuse = BitVec.ofNat 8 (s.fuses + 1) ∧ ∀ x ∈ d.tags, x.sobj = true → s.fuses + 1 ≤ x.secver.toNat) ∧
    (∀ n, 1 ≤ n → n ≤ 6 → ∀ m, s.meas[n - 1]? = some m → exec (.getMeasurements n) s = .next { s with spdm := [m] }) ∧
    (∀ rom img, ∃ t, exec (.reset rom img) s = .next t ∧ t.boot = some { rom := rom, img := img, step := 1 } ∧ t.mstat.boot = 0 ∧ t.blocks = [] ∧ t.grids = [] ∧
      t.queues = [] ∧ t.cards = [] ∧ t.parts = State.reset.parts ∧ t.fuses = s.fuses ∧ t.mem = s.mem ∧
      ∀ d ∈ t.dies, d.secfuse = BitVec.ofNat 8 s.fuses) ∧
    (∀ r, s.boot = some r →
      (r.step = 1 → imageVerified r.img.fw s.fuses = false → (bootStep s).mstat.boot = 4 ∧ (bootStep s).boot = none) ∧
      (r.step = 1 → imageVerified r.img.fw s.fuses = true → (bootStep s).mstat.boot = 1 ∧ (bootStep s).boot = some { r with step := 2 }) ∧
      (r.step = 4 → r.img.trained = true → (bootStep s).mstat.boot = 2 ∧ (bootStep s).mem = s.mem.filter fun x => decide (2 ^ 52 ≤ x.1)) ∧
      (r.step = 5 → imageVerified r.img.dergus s.fuses = false → (bootStep s).mstat.boot = 4) ∧
      (r.step = 6 → (bootStep s).mstat.boot = 3 ∧ (bootStep s).boot = none ∧ (bootStep s).mem = s.mem)) ∧
    (∀ sel, exec (.frzsel sel) s = .next { s with test := { s.test with sel := sel, index := sel.extractLsb' 0 16 } }) ∧
    (exec .frzdata s = .next { s with test := { s.test with
      out := nth 0 (nth [] (dieUnits s (s.test.sel.toNat / 2 ^ 30)) (Config.frzUnit (s.test.sel.toNat / 2 ^ 16 % 2 ^ 14))) s.test.index.toNat,
      index := s.test.index + 1 } }) ∧
    (∀ core, core < 144 → (∀ k ∈ s.resident core,
      (∀ u ∈ pieces (byteWords (memBytes k.bytes 0 k.region)), u ∈ dieUnits s (core / 36)) ∧ (∀ u ∈ pieces (k.words s), u ∈ dieUnits s (core / 36)) ∧
      ∀ w j, (w, j) ∈ k.warps.zipIdx →
        (∀ u ∈ pieces (w.words j), u ∈ dieUnits s (core / 36)) ∧ ∀ u ∈ pieces w.lineWords, u ∈ dieUnits s (core / 36)) ∧
      ((s.cores[core]?).isSome = true → (∀ u ∈ pieces (cardWords s core), u ∈ dieUnits s (core / 36)) ∧
        ∃ u ∈ dieUnits s (core / 36), s.coreCycle core ∈ u)) ∧
    (∀ ws : List W64, (pieces ws).flatten = ws ∧ ∀ u ∈ pieces ws, u.length ≤ 65536) ∧
    (∃ x : W32, exec .idcode s = .next { s with test := { s.test with out := x.setWidth 64, byp := false } }) ∧
    (exec .bypass s = .next { s with test := { s.test with byp := true } }) ∧
    (s.frz.arm = true → s.frz.fsrc.getLsbD 0 = true →
      exec .freezePin s = .next { s with frz := { s.frz with frozen := true, fcause := s.frz.fcause ||| 1 ||| s.firing } }) ∧
    (s.frz.arm = true → s.frz.fsrc.getLsbD 2 = true → s.cycle = s.frz.fcnt.toNat →
      exec .freezeCounter s = .next { s with frz := { s.frz with frozen := true, fcause := s.frz.fcause ||| 4 ||| s.firing } }) ∧
    (∀ unit addr, ∃ t, exec (.correctableError unit addr) s = .next t ∧ t = { s with log := t.log } ∧ t.log.length = s.log.length + 1) ∧
    (∀ pa, ∃ t, exec (.hbmSectorUe pa) s = .next t ∧ t.mem = s.mem ∧ pa / 32 * 32 ∈ t.bad) ∧
    (∀ b j line w h, s.warp? { b := b, w := j } = some w → w.held? line = some h →
      let rs := holdersOf s (s.coreOf b) h.home
      exec (.lineStoreUe b j line) s = .next (rs.foldl (fun t r => t.modWarp r fun v =>
        v.modCopy h.home (HeldLine.strike (dirtyIn s h.home rs) (s.bytes h.home 128))) s)) ∧
    (∀ (bs : List Byte) (h : HeldLine), ((h.strike true bs).lost = true ∧ (h.strike true bs).dirty = 0) ∧
      (h.strike false bs).data = bs ∧ (h.strike false bs).lost = h.lost) ∧
    (∀ b j l n w g e, s.warp? { b := b, w := j } = some w → s.seat? b = some g → e ∈ w.entries → l < 64 → w.awaited.getLsbD l = true →
      e.mask.getLsbD l = true → e.isParked = false → (∀ x ∈ w.entries, x.mask.getLsbD l = true → x = e) →
      ∃ t v y word, exec (.registerUe b j l n) s = .next t ∧ t.warp? { b := b, w := j } = some v ∧ y ∈ v.entries ∧ y.mask = maskOf [l] ∧
        y.pc = e.pc ∧ y.st = .trapParked [mkTrap l 0x0F 2 0 (BitVec.ofNat 32 n)] word) ∧
    (∀ o b j k off, s.blocks[o]? = some k → k.place = .resident → (o ≠ b ∨ hasMemoryError k = true ∨ k.ending = true) →
      exec (.scratchUe o { b := b, w := j } 0 off) s = .next (endBlock s o)) ∧
    (∀ p x, s.ports[p]? = some x → ∃ t y, exec (.stayFlitRetry p) s = .next t ∧ t.ports[p]? = some y ∧ y.errs = x.errs + 1 ∧
      (x.retries < 15 → y.up = x.up ∧ y.downs = x.downs) ∧ (15 ≤ x.retries → y.up = false ∧ y.downs = x.downs + 1)) ∧
    (∀ p, exec (.stayLinkUp p) s = .next { s with ports := s.ports.modify p fun x => { x with up := true, retries := 0 } }) ∧
    (∀ port k, s.ports[port]? = some k → k.up = true →
      (portPart s port = none → ∀ req, ∃ t, exec (.stayRequestArrive port req) s = .next t ∧ t.mem = s.mem ∧ t.peerOut = s.peerOut ++ [[]]) ∧
      ∀ p, portPart s port = some p →
        (∀ a pa n, inStacks p pa n = true → ∃ t, exec (.stayRequestArrive port (.read a pa n)) s = .next t ∧ t.mem = s.mem ∧
          if outsideHeld s (some a) pa n false then
            t.inbox = s.inbox ++ [{ place := nextPlace s, since := s.cycle, access := .stay (.read a pa n) }] ∧ t.peerOut = s.peerOut
          else t.inbox = s.inbox ∧ t.peerOut = s.peerOut ++ [memBytes s.mem pa n]) ∧
        (∀ a pa bs, inStacks p pa bs.length = true → ∃ t, exec (.stayRequestArrive port (.write a pa bs)) s = .next t ∧
          if outsideHeld s (some a) pa bs.length true then
            t.inbox = s.inbox ++ [{ place := nextPlace s, since := s.cycle, access := .stay (.write a pa bs) }] ∧ t.mem = s.mem
          else t.inbox = s.inbox ∧ t.mem = memPut s.mem pa bs) ∧
        ∀ a pa wr, inStacks p (lineOf pa) 128 = true → ∃ t, exec (.stayRequestArrive port (.register a pa wr)) s = .next t ∧
          let held : Prop := t.inbox = s.inbox ++ [{ place := nextPlace s, since := s.cycle, access := .stay (.register a pa wr) }] ∧
            t.peerRegs = s.peerRegs ∧ t.peerOut = s.peerOut
          (peerHolds s a (lineOf pa) wr = true → t.peerRegs = s.peerRegs ∧ t.peerOut = s.peerOut ++ [natLE 4 0]) ∧
          (peerHolds s a (lineOf pa) wr = false →
            (heldBefore s (some a) none (lineOf pa) = true → held) ∧
            (heldBefore s (some a) none (lineOf pa) = false →
              match peerVerdict s a (lineOf pa) wr false with
              | some sub => if a.card then held
                  else t.peerRegs = s.peerRegs ∧ t.peerOut = s.peerOut ++ [natLE 4 sub ++ natLE 4 (auxPeer s.mstat.modid.toNat).toNat]
              | none => (∃ g ∈ t.peerRegs, g.agent = a ∧ g.line = lineOf pa ∧ (wr = true → g.write = true)) ∧
                  t.peerOut = s.peerOut ++ [natLE 4 0]))) ∧
    (∀ port ctx p va pa, ethPart s port = some p → s.boundPart ctx = some p →
      (∀ add : W64, roceHome s (nextPlace s) ctx va 8 true = .home pa → peerHolds s (roceAgent (nextPlace s)) (lineOf pa) true = false →
        ∃ t, exec (.roceIncoming port ctx (.fetchAdd va add)) s = .next t ∧ t.mem = (s.performLine (lineOf pa)).mem ∧ t.peerOut = s.peerOut ∧
          t.inbox = s.inbox ++ [{ place := nextPlace s, since := s.cycle, access := .roce ctx (.fetchAdd va add) [] }] ∧
          peerHolds t (roceAgent (nextPlace s)) (lineOf pa) true = true) ∧
      (∀ add : W64, roceHome s (nextPlace s) ctx va 8 true = .held → exec (.roceIncoming port ctx (.fetchAdd va add)) s =
        .next { s with inbox := s.inbox ++ [{ place := nextPlace s, since := s.cycle, access := .roce ctx (.fetchAdd va add) [] }] }) ∧
      ∀ n, n ≠ 0 → va.toNat % 128 + n ≤ 128 → roceHome s (nextPlace s) ctx va n false = .home pa →
        exec (.roceIncoming port ctx (.rdmaRead va n)) s = .next { s with peerOut := s.peerOut ++ [memBytes s.mem pa n] }) ∧
    (∀ ctx va pa (add : W64) (h : HeldAccess), s.inbox = [h] → h.access = .roce ctx (.fetchAdd va add) [] →
      let u : State := { s with inbox := [] }
      roceHome u h.place ctx va 8 true = .home pa → peerHolds u (roceAgent h.place) (lineOf pa) true = true →
      (serveInbox s).mem = memPut s.mem pa (natLE 8 (BitVec.ofNat 64 (leNat (memBytes s.mem pa 8)) + add).toNat) ∧
        (serveInbox s).peerOut = s.peerOut ++ [natLE 8 (BitVec.ofNat 64 (leNat (memBytes s.mem pa 8))).toNat] ∧ (serveInbox s).inbox = [] ∧
        ∀ g ∈ (serveInbox s).peerRegs, g.agent ≠ roceAgent h.place) ∧
    (∀ place ctx va (bs : List Byte) pa, bs ≠ [] → va.toNat % 128 + bs.length ≤ 128 → roceHome s place ctx va bs.length true = .home pa →
      let x := roceWrite s place ctx va bs
      (peerHolds s (roceAgent place) (lineOf pa) true = true →
        x.stop = none ∧ x.rest = [] ∧ x.s.mem = memPut s.mem pa bs ∧ ∀ g ∈ x.s.peerRegs, g.agent ≠ roceAgent place) ∧
      (peerHolds s (roceAgent place) (lineOf pa) true = false →
        x.stop = some .held ∧ x.rest = bs ∧ x.va = va ∧ x.s.mem = (s.performLine (lineOf pa)).mem ∧
        peerHolds x.s (roceAgent place) (lineOf pa) true = true)) ∧
    (∀ (g : PeerReg) r line, s.ctxOf r.b ≠ sysCtx → s.peerRegs = [g] → g.agent.mod = 4096 → g.agent.card = false → g.line = line → g.write = true →
      (∀ q v, q ≠ r → s.warp? q = some v → ∀ x ∈ v.region, x.line ≠ line) → s.cardConflict none (.line line) false = none → s.sorrelHolds (.line line) = false →
      ∃ m, s.conflict r line false false = some (3, auxPeer m)) ∧
    (∀ qp ctx va n pa i p, qp < 16384 → s.boundPart ctx = some i → s.parts[i]? = some p → p.a.eth ≠ 0 → n ≠ 0 → va.toNat % 128 + n ≤ 128 →
      roceHome s (nextPlace s) ctx va n false = .home pa → exec (.roceWorkRequest qp ctx (.send va n)) s = .next { s with
        peerOut := s.peerOut ++ [memBytes s.mem pa n], roce := s.roce ++ [{ qp := qp, data := memBytes s.mem pa n }] }) ∧
    (∀ n, 1 ≤ n → n ≤ 4 → exec (.ucieDegrade n) s = .next { s with ucie := n }) ∧
    (∀ ctx, s.dump = none → (s.ctxInfo ctx).life = .live → hasFault s ctx = true →
      (beginFault s ctx).stopped ctx (fun _ => true) = false →
      ∃ t, exec (.contextFault ctx) s = .next t ∧ (t.ctxInfo ctx).life = .faulted ∧
        (∀ q ∈ t.queues, q.2.ctx.toNat = ctx → q.2.en = false) ∧
        ∀ b k, t.blocks[b]? = some k → s.ctxOf b = ctx → k.place = .resident → k.halted = true)

/-! ## The machine (02 R35, 07 R157, R164-R171, 24 R414) -/

/-- 07 R157, 02 R45: a clause begun at its header holds the words that follow the header in the page; a clause that an entry had begun and not finished goes on
with the words it had (18 R331, log 99); and one step at a word in hand is time passing, then
the meaning of the instruction its word decodes to, after which the frontier keeps sixteen entries (02 R36) and the warp goes on with its clause or the turn
passes, which it may also do between two words of a clause (log 1). At a word in hand of a fused pair it is that meaning for one warp, then for the other, with FUSECNT counted in each (02 R45, R47). The order of turns
and the time that passes are the model's (logs 1, 2). -/
def Obligations.StepRunsTheDecodedWord : Prop :=
  (∀ (s : State) (r : WarpRef) (k core hoff : Nat) (g : Grid) (w : Warp) (e : Entry) (t : Tag) (hdr : W64),
    s.warp? r = some w → s.entry? r k = some e → e.begun.bind (·.from? e.pc) = none → s.seat? r.b = some (core, g) → s.tag? core g (g.kernel.codeVa e.pc) = some t →
    chainFrom (fun off => some (t.word off)) (e.pc.toNat % 4096) 513 0 = .clause hoff hdr → e.pc.toNat % 4096 = hoff →
    (unpackHeader hdr).bad = false → flagsClear w (unpackHeader hdr).wait = true →
    let h := unpackHeader hdr
    ∃ x, (beginClause s r k).warp? r = some x ∧
      x.cur = some { e := k, hdr := hdr, hpc := e.pc, left := h.count.toNat + 1, word := 0,
                     code := (List.range (h.count.toNat + 1)).map fun j => t.word (hoff + 8 + 8 * j), stay := e.stay } ∧
      x.entries[k]? = some { e with pc := e.pc + 8, prio := h.prio, age := 0, promoted := none, begun := none, stay := none }) ∧
  (∀ (s : State) (r : WarpRef) (k : Nat) (w : Warp) (e : Entry) (b : Begun) (code : List W64),
    s.warp? r = some w → s.entry? r k = some e → e.begun = some b → b.from? e.pc = some code →
    let h := unpackHeader b.hdr
    ∃ x, (beginClause s r k).warp? r = some x ∧
      if flagsClear w h.wait then
        x.cur = some { e := k, hdr := b.hdr, hpc := b.hpc, left := code.length, word := 0, code := code, stay := e.stay } ∧
        x.entries[k]? = some { e with prio := h.prio, age := 0, promoted := none, begun := none, stay := none }
      else x.cur = w.cur ∧ x.entries[k]? = some { e with st := .waiting .clauseWait, since := s.cycle }) ∧
  (∀ (s : State) (r : WarpRef) (w : Warp) (c : ClauseCur) (e : Entry), s.warp? r = some w → w.cur = some c → w.entries[c.e]? = some e →
    ∃ x, (dropClause s r).warp? r = some x ∧ x.cur = none ∧
      x.entries[c.e]? = some { e with begun := some { hdr := c.hdr, hpc := c.hpc, start := e.pc, code := c.code } }) ∧
  (∀ (s : State) (c : Ctx) (word : W64) (rest : List W64),
    let u := advance s
    s.frz.frozen = false → u.frz.frozen = false → s.agenda = [] → u.ctx? = some c → u.onCore u.turn = true →
    u.errDue u.turn = false → c.cur.code = word :: rest →
    let hand (x : State) (r : WarpRef) : State := State.modWarp { x with turn := r } r fun y : Warp =>
      { y with cur := y.cur.map fun k => { k with word := word, code := rest }, issued := some x.cycle }
    let t := hand u u.turn
    let ends (o : Out) : Prop := ∀ v0, o = .next v0 →
      let v := rankWarp v0 u.turn
      step s = .next (if v.midClause u.turn && !v.yieldsTurn then v else passTurn v)
    (partner? u u.turn = none →
      (∀ i, decodeWord word = .ok i → stalled u c.r c.kern i = false → ends (exec i t)) ∧
      (∀ e, decodeWord word = .error e → ends (badWord word false (t.predictBad word)))) ∧
    (∀ q i v1 v2 d, partner? u u.turn = some q → pairReady u.turn q u = true → u.errDue q = false → decodeWord word = .ok i →
      exec i (hand ((u.modWarp u.turn Warp.noteFused).modWarp q Warp.noteFused) u.turn) = .next v1 →
      ({ rankWarp v1 u.turn with turn := q }).ctx? = some d → d.cur.code = word :: rest →
      exec i (hand (rankWarp v1 u.turn) q) = .next v2 → step s = .next (afterPair u.turn q (rankWarp v2 q))))

/-- 02 R34, 07 R171: no step stops: every state of the module, met on a run or not, has a next one. -/
def Obligations.StepNeverStops : Prop := ∀ s : State, ∃ t, step s = .next t

/-- 07 R164-R168: the word of every well-formed instruction decodes to it, with every operand at every value the encoding admits; and a word that decodes is the
word of a well-formed instruction, so that no two words decode to one instruction. -/
def Obligations.EncodeAndDecodeAgree : Prop :=
  (∀ (i : Instr) (w : W64), WellFormed i = true → encode i = some w → decodeWord w = .ok i) ∧
  (∀ (i : Instr) (w : W64), decodeWord w = .ok i → WellFormed i = true ∧ encode i = some w) ∧
  (∀ (i : Instr) (w : W64), WellFormed i = true → encode i = some w → decodeTableWord 64 w.toNat = some i ∧
    ∀ rest, decodeBytes (bytesOfWord w ++ rest) = .ok (i, rest))

/-- 21 R382, 24 R408, 20 R368, 18 R329: every step, from any state that meets it, keeps the invariant: memories in canonical form, WDLIM 0 or 20 to 40, LTO
10 to 100,000, FCLK at most 3300, BOOT at most 4, PDUTY 1 to 64, at most 128 fuses. -/
def Obligations.StepKeepsTheInvariant : Prop :=
  ∀ s t : State, Inv s → step s = .next t → Inv t

/-- 00 R12, 03 R57, 18 R329, 19 R346, 20 R355, R367, 21 R382, 24 R408, R409, R417: what reset leaves, and that it meets the invariant.
The values the spec leaves open are those of logs 4, 9 and 10, the fuse count that of log 11. -/
def Obligations.ResetState : Prop :=
  let s := State.reset
  Inv s ∧ s.cycle = 0 ∧ s.cores.length = 144 ∧ s.dies.length = 4 ∧
  (∀ c ∈ s.cores, c.seq = [0, 0, 0, 0] ∧ c.holder = none ∧ c.lease = 0) ∧
  (∀ d ∈ s.dies, d.dgmiss = 0 ∧ d.wdlim = 26 ∧ d.tags = []) ∧
  (∀ q < 4096, s.queue q = Queue.fresh) ∧
  (s.tctl.ticket = 0 ∧ s.tctl.done = 0 ∧ s.tctl.cmds = [] ∧ s.tctl.ctxtbase = 0) ∧
  (∀ p ∈ s.parts, p.pidlee = 0 ∧ p.pltol = 0xFFFFFFFF ∧ p.ppower = 0 ∧ p.unmet = false ∧ p.duty = 64 ∧ p.pcap = 0 ∧ p.w = Masks.none ∧
    p.cstat = 0) ∧
  (s.mstat.lto = 2000 ∧ s.mstat.mpower = 0 ∧ s.mstat.temp = 0 ∧ s.mstat.fclk = 3300 ∧ s.mstat.boot = 0 ∧ s.mstat.modid = 0) ∧
  (s.frz.frozen = false ∧ s.frz.fcause = 0 ∧ s.frz.fcnt = 0 ∧ s.frz.arm = false ∧ s.frz.fcode = 0 ∧ s.frz.fsrc = 0) ∧
  (∀ a < hostBase, memGet s.mem a = 0)

/-- 07 R164-R166 and the encoding tables: words written out from the spec decode to the instructions they stand for. -/
def Obligations.WordsDecode : Prop :=
  let g : Guard := { neg := false, pred := 7 }
  decodeTableWord 64 0x33700A040306E400 = some (.ffma
    { g := g, nf := false, sz := 0, rm := .ru, sat := true, d := Reg.vec 10, a := Reg.vec 4, b := Reg.sc 3, c := Reg.vec 6 }) ∧
  decodeTableWord 64 0x6070010203040012 = some (.isetp
    { g := g, nf := false, pair := false, cmp := 2, comb := 1, pd := 1, a := Reg.vec 2, b := Reg.vec 3, pc := 4 }) ∧
  decodeTableWord 64 0x7A78090200000005 = some (.readlane { g := g, pair := false, d := Reg.vec 9, a := 2, b := .imm 5 }) ∧
  decodeTableWord 64 0x7A70090201001400 = some (.readlane { g := g, pair := false, d := Reg.sc 9, a := 2, b := .reg (Reg.sc 1) })

/-! ## Exceptions (21 R372-R383) -/

/-- 21 R375, R377, R380: delivery to the kernel's handler ends the region, puts the handler set and p0-p6 of the entry's lanes into their trap frames, fills the
trap-frame CSRs, and sends the lanes in handler mode to HANDLER. A frame gives back what it took. -/
def Obligations.TakingAHandledTrap : Prop :=
  (∀ (s u : State) (r : WarpRef) (k : Nat) (wp : Warp) (blk : Block) (kern : Kernel) (e : Entry) (g : Grid) (h : W64) (ts : List LaneTrap) (word : W64),
    s.warp? r = some wp → s.blocks[r.b]? = some blk → s.grids[blk.grid]? = some g → g.kernel = kern → wp.entries[k]? = some e →
    kern.handler = some h → e.st = .trapParked ts word → s.badTarget blk.core g h = none → endRegion s r = (u, true) →
    Memory.wf blk.bytes = true →
    let t := takeHandler s r k
    t.mem = u.mem ∧
    ∃ w b, t.warp? r = some w ∧ t.blocks[r.b]? = some b ∧ Memory.wf b.bytes = true ∧ w.s = wp.s ∧ w.region = [] ∧
      (∃ p, w.entries[k]? = some { e with pc := h, prio := p, st := .runnable, handler := true, age := 0, promoted := none }) ∧
      (∀ j, j ≠ k → w.entries[j]? = wp.entries[j]?) ∧
      (∀ l ∈ lanesOf e.mask, l < wp.lanes.length →
        memBytes b.bytes (frameAt blk r.w l) 48 = (wp.lane l).frameBytes kern.nv ∧
        w.lane l = { wp.lane l with
          handler := true,
          tf := { pc := e.pc.extractLsb' 0 32, code := BitVec.ofNat 32 ((trapOf ts l).sub * 256 + (trapOf ts l).code), word := word,
                  addr := (trapOf ts l).addr, mask := e.mask, aux := (trapOf ts l).aux } }) ∧
      (∀ l, e.mask.getLsbD l = false → w.lane l = wp.lane l)) ∧
  (∀ (l : Lane) (nv : Nat), 8 ≤ nv → l.v.length = nv → l.p.length = 7 → l.restoreFrame nv (l.frameBytes nv) = l)

/-- 21 R373, R374, R376: at a clause boundary a trap that no handler takes calls for the context's fault; otherwise, with no lane in handler mode, the trap-parked
entry whose lowest lane is lowest is delivered. The codes a handler takes are ILLEGAL_OPCODE, RESERVED_FIELD, FP_EXCEPTION, BREAKPOINT
and USER_TRAP by number. -/
def Obligations.DeliveryChoosesTheLowestLane : Prop :=
  (∀ (s : State) (r : WarpRef) (w : Warp) (kern : Kernel), s.warp? r = some w → s.kernelOf? r.b = some kern → kern.priv = false →
    ((∃ e ∈ w.entries, e.mask ≠ 0 ∧ e.faults kern = true ∧ e.memoryError = false) → deliver s r = s.callChervil (s.ctxOf r.b)) ∧
    ((∀ e ∈ w.entries, e.mask ≠ 0 → e.faults kern = false) →
      (w.inHandler = true → deliver s r = s) ∧
      (∀ k, w.inHandler = false → w.firstParked = some k → deliver s r = takeHandler s r k ∧
        ∃ e, w.entries[k]? = some e ∧ e.mask ≠ 0 ∧ e.isParked = true ∧
          ∀ x ∈ w.entries, x.mask ≠ 0 → x.isParked = true → lowest e.mask ≤ lowest x.mask) ∧
      (w.inHandler = false → w.firstParked = none → deliver s r = s)) ∧
    (s.going r.b = true → w.cur = none → exec (.trapDeliver r) s = .next (deliver s r))) ∧
  (∀ code, handlerCode code = true ↔ code = 0x01 ∨ code = 0x02 ∨ code = 0x0B ∨ code = 0x11 ∨ code = 0x12) ∧
  (∀ (s : State) (c : Nat), Move.event (.contextFault c) ∈ (s.callChervil c).agenda)

/-- 21 R383, 06 R125: a trap of privileged code ends its region; with SCONT nonzero it fills the trap-frame CSRs, raises SNEST and sends its lanes to SCONT with their registers unchanged; with
SCONT zero the block ends and the trap is logged. -/
def Obligations.PrivilegedTraps : Prop :=
  ∀ (s u : State) (r : WarpRef) (k : Nat) (w : Warp) (e : Entry) (ts : List LaneTrap) (word : W64),
    s.warp? r = some w → w.entries[k]? = some e → e.st = .trapParked ts word → endRegion s r = (u, true) →
    (w.scont ≠ 0 → ∃ v, (takePrivileged s r k) = u.modWarp r (fun _ => v) ∧ v.region = [] ∧ v.snest = w.snest + 1 ∧ v.scont = w.scont ∧
      v.entries[k]? = some { e with pc := w.scont.setWidth 64, st := .runnable } ∧
      ∀ l ∈ lanesOf e.mask, l < w.lanes.length → (v.lane l).tf.pc = e.pc.extractLsb' 0 32 ∧
        (v.lane l).tf.code = BitVec.ofNat 32 ((trapOf ts l).sub * 256 + (trapOf ts l).code) ∧ (v.lane l).v = (w.lane l).v ∧
        (v.lane l).p = (w.lane l).p) ∧
    (w.scont = 0 → ∃ b, (takePrivileged s r k).blocks[r.b]? = some b ∧ b.place = .gone ∧
      (takePrivileged s r k).log.length = s.log.length + 1)
end

