-- ==== Sys2Proof/Laws/Mem.lean ====
section
/-! SUPPORT. Memory: a read after a write, the canonical form, and that every operation on a memory keeps it. -/

namespace Sys2Proof.Machine

open Sys2Proof

/-! ## The canonical form -/

theorem memAbove_cons (x : Nat) (c : Host.Cell) (l : List Host.Cell) :
    memAbove x (c :: l) = true ↔ x < c.1 ∧ c.2 ≠ 0 ∧ memAbove c.1 l = true := by
  obtain ⟨a, b⟩ := c
  simp only [memAbove, Bool.and_eq_true, decide_eq_true_eq, bne_iff_ne, and_assoc]

theorem wf_cons (c : Host.Cell) (l : List Host.Cell) : Memory.wf (c :: l) = true ↔ c.2 ≠ 0 ∧ memAbove c.1 l = true := by
  obtain ⟨a, b⟩ := c
  simp only [Memory.wf, Bool.and_eq_true, bne_iff_ne]

theorem memAbove_mono {x y : Nat} (h : x ≤ y) {l : List Host.Cell} (hl : memAbove y l = true) : memAbove x l = true := by
  cases l with
  | nil => rfl
  | cons c l =>
    rw [memAbove_cons] at hl ⊢
    exact ⟨by omega, hl.2⟩

theorem wf_of_memAbove {x : Nat} {l : List Host.Cell} (h : memAbove x l = true) : Memory.wf l = true := by
  cases l with
  | nil => rfl
  | cons c l => exact (wf_cons c l).2 ((memAbove_cons x c l).1 h).2

/-- Below the first address of a list every byte is zero. -/
theorem memGet_above {x : Nat} {l : List Host.Cell} (h : memAbove x l = true) {y : Nat} (hy : y ≤ x) : memGet l y = 0 := by
  cases l with
  | nil => rfl
  | cons c l =>
    have hc := ((memAbove_cons x c l).1 h).1
    simp only [memGet]
    rw [if_neg (by omega), if_pos (by omega)]

/-! ## One byte -/

theorem memAbove_memCons {x y : Nat} (v : Byte) {l : List Host.Cell} (hx : x < y) (hl : memAbove y l = true) :
    memAbove x (memCons y v l) = true := by
  unfold memCons
  split
  · exact memAbove_mono (by omega) hl
  · exact (memAbove_cons _ _ _).2 ⟨hx, ‹_›, hl⟩

theorem memCons_wf {x : Nat} (v : Byte) {l : List Host.Cell} (hl : memAbove x l = true) : Memory.wf (memCons x v l) = true := by
  unfold memCons
  split
  · exact wf_of_memAbove hl
  · exact (wf_cons _ _).2 ⟨‹_›, hl⟩

theorem memAbove_memSet {x y : Nat} (v : Byte) {l : List Host.Cell} (hx : x < y) (hl : memAbove x l = true) :
    memAbove x (memSet l y v) = true := by
  induction l generalizing x with
  | nil => exact memAbove_memCons v hx rfl
  | cons c l ih =>
    have hc := (memAbove_cons _ _ _).1 hl
    simp only [memSet]
    split
    · exact memAbove_memCons v hx ((memAbove_cons _ _ _).2 ⟨‹_›, hc.2⟩)
    · split
      · subst y; exact memAbove_memCons v hx hc.2.2
      · exact (memAbove_cons _ _ _).2 ⟨hc.1, hc.2.1, ih (by dsimp only; omega) hc.2.2⟩

/-- A write of one byte keeps the canonical form. -/
theorem memSet_wf (l : List Host.Cell) (x : Nat) (v : Byte) (h : Memory.wf l = true) : Memory.wf (memSet l x v) = true := by
  cases l with
  | nil => exact memCons_wf v rfl
  | cons c l =>
    have hc := (wf_cons _ _).1 h
    simp only [memSet]
    split
    · exact memCons_wf v ((memAbove_cons _ _ _).2 ⟨‹_›, hc⟩)
    · split
      · subst x; exact memCons_wf v hc.2
      · exact (wf_cons _ _).2 ⟨hc.1, memAbove_memSet v (by dsimp only; omega) hc.2⟩

theorem memGet_memCons {x : Nat} {l : List Host.Cell} (v : Byte) (h : memAbove x l = true) (y : Nat) :
    memGet (memCons x v l) y = if y = x then v else memGet l y := by
  unfold memCons
  split
  · rename_i hv
    split
    · rw [memGet_above h (by omega), hv]
    · rfl
  · simp only [memGet]
    split
    · rfl
    · split
      · exact (memGet_above h (by omega)).symm
      · rfl

theorem memGet_memSet_above {z : Nat} {l : List Host.Cell} (h : memAbove z l = true) (x : Nat) (v : Byte) (y : Nat) :
    memGet (memSet l x v) y = if y = x then v else memGet l y := by
  induction l generalizing z with
  | nil => exact memGet_memCons v rfl y
  | cons c l ih =>
    have hc := (memAbove_cons _ _ _).1 h
    simp only [memSet]
    split
    · exact memGet_memCons v ((memAbove_cons _ _ _).2 ⟨‹_›, hc.2⟩) y
    · split
      · subst x
        rw [memGet_memCons v hc.2.2]
        split
        · rfl
        · simp only [memGet]
          split
          · contradiction
          · split
            · exact memGet_above hc.2.2 (by omega)
            · rfl
      · simp only [memGet, ih hc.2.2]
        by_cases hy : y = x
        · subst y
          rw [if_neg ‹_›, if_neg ‹_›, if_pos rfl]; simp
        · simp [hy]

/-- A read after a write of one byte: the byte written at its address, the byte before elsewhere. -/
theorem memGet_memSet {l : List Host.Cell} (h : Memory.wf l = true) (x : Nat) (v : Byte) (y : Nat) :
    memGet (memSet l x v) y = if y = x then v else memGet l y := by
  cases l with
  | nil => exact memGet_memCons v rfl y
  | cons c l =>
    have hc := (wf_cons _ _).1 h
    by_cases ha : 0 < c.1
    · exact memGet_memSet_above (z := 0) ((memAbove_cons _ _ _).2 ⟨ha, hc⟩) x v y
    · simp only [memSet]
      rw [if_neg (by omega)]
      split
      · subst x
        rw [memGet_memCons v hc.2]
        split
        · rfl
        · simp only [memGet]; rw [if_neg ‹_›, if_neg (by omega)]
      · simp only [memGet, memGet_memSet_above hc.2]
        by_cases hy : y = x
        · subst y
          rw [if_neg ‹_›, if_neg (by omega), if_pos rfl]; simp
        · simp [hy]

/-! ## Runs of bytes -/

theorem memPut_wf (l : List Host.Cell) (x : Nat) (bs : List Byte) (h : Memory.wf l = true) : Memory.wf (memPut l x bs) = true := by
  induction bs generalizing l x with
  | nil => exact h
  | cons b bs ih => exact ih _ _ (memSet_wf l x b h)

theorem memPutEn_wf (l : List Host.Cell) (x : Nat) (en : BitVec 128) (k : Nat) (bs : List Byte) (h : Memory.wf l = true) :
    Memory.wf (memPutEn l x en k bs) = true := by
  induction bs generalizing l x k with
  | nil => exact h
  | cons b bs ih => exact ih _ _ _ (by split <;> [exact memSet_wf l x b h; exact h])

/-- A read after a write of consecutive bytes. -/
theorem memGet_memPut {l : List Host.Cell} (h : Memory.wf l = true) (x : Nat) (bs : List Byte) (y : Nat) :
    memGet (memPut l x bs) y = if x ≤ y ∧ y < x + bs.length then bs.getD (y - x) 0 else memGet l y := by
  induction bs generalizing l x with
  | nil => simp [memPut]
  | cons b bs ih =>
    rw [memPut, ih (memSet_wf l x b h), memGet_memSet h]
    by_cases hy : y = x
    · subst y; simp
    · by_cases hx : x ≤ y ∧ y < x + (b :: bs).length
      · obtain ⟨n, rfl⟩ : ∃ n, y = x + 1 + n := ⟨y - x - 1, by omega⟩
        simp only [List.length_cons] at hx
        rw [if_pos (by omega), if_pos (by simp; omega)]
        have e : x + 1 + n - x = n + 1 := by omega
        rw [e, Nat.add_sub_cancel_left, List.getD_cons_succ]
      · simp only [List.length_cons] at hx ⊢
        rw [if_neg (by omega), if_neg hy, if_neg (by omega)]

/-- A read after a write with byte enables. -/
theorem memGet_memPutEn {l : List Host.Cell} (h : Memory.wf l = true) (x : Nat) (en : BitVec 128) (k : Nat) (bs : List Byte) (y : Nat) :
    memGet (memPutEn l x en k bs) y =
      if x ≤ y ∧ y < x + bs.length ∧ en.getLsbD (k + (y - x)) = true then bs.getD (y - x) 0 else memGet l y := by
  induction bs generalizing l x k with
  | nil => rw [if_neg (by simp; omega)]; rfl
  | cons b bs ih =>
    have hw : Memory.wf (if en.getLsbD k then memSet l x b else l) = true := by split <;> [exact memSet_wf l x b h; exact h]
    rw [memPutEn, ih hw]
    by_cases hy : y = x
    · subst y
      rw [if_neg (by omega)]
      cases hk : en.getLsbD k <;> simp [hk, memGet_memSet h]
    · have hg : memGet (if en.getLsbD k then memSet l x b else l) y = memGet l y := by
        split <;> [rw [memGet_memSet h, if_neg hy]; rfl]
      rw [hg]
      by_cases hx : x < y
      · obtain ⟨n, rfl⟩ : ∃ n, y = x + 1 + n := ⟨y - x - 1, by omega⟩
        have e1 : x + 1 + n - (x + 1) = n := by omega
        have e2 : x + 1 + n - x = n + 1 := by omega
        have e3 : k + 1 + n = k + (n + 1) := by omega
        simp only [e1, e2, e3, List.length_cons, List.getD_cons_succ]
        exact if_congr (by constructor <;> rintro ⟨h1, h2, h3⟩ <;> exact ⟨by omega, by omega, h3⟩) rfl rfl
      · rw [if_neg (by omega), if_neg (by omega)]

theorem memBytes_length (l : List Host.Cell) (x n : Nat) : (memBytes l x n).length = n := by
  induction n generalizing x with
  | zero => rfl
  | succ n ih => simp [memBytes, ih]

theorem memBytes_getD (l : List Host.Cell) (x n k : Nat) (h : k < n) : (memBytes l x n).getD k 0 = memGet l (x + k) := by
  induction n generalizing x k with
  | zero => omega
  | succ n ih =>
    cases k with
    | zero => simp [memBytes]
    | succ k => rw [memBytes, List.getD_cons_succ, ih _ _ (by omega)]; congr 1; omega

/-- The bytes just written are read back. -/
theorem memBytes_memPut {l : List Host.Cell} (h : Memory.wf l = true) (x : Nat) (bs : List Byte) :
    memBytes (memPut l x bs) x bs.length = bs := by
  apply List.ext_getElem? fun k => ?_
  by_cases hk : k < bs.length
  · have e := memBytes_getD (memPut l x bs) x bs.length k hk
    rw [memGet_memPut h, if_pos (by omega), Nat.add_sub_cancel_left] at e
    rw [List.getElem?_eq_getElem (by rwa [memBytes_length]), List.getElem?_eq_getElem hk]
    rw [List.getD_eq_getElem _ _ (by rwa [memBytes_length]), List.getD_eq_getElem _ _ hk] at e
    rw [e]
  · rw [List.getElem?_eq_none (by rw [memBytes_length]; omega), List.getElem?_eq_none (by omega)]

/-- The number whose little-endian bytes were written is read back. -/
theorem leNat_natLE (n x : Nat) : leNat (natLE n x) = x % 256 ^ n := by
  induction n generalizing x with
  | zero => simp [natLE, leNat, Nat.mod_one]
  | succ n ih =>
    have e : 256 ^ (n + 1) = 256 * 256 ^ n := Nat.pow_succ'
    rw [natLE, leNat, ih, BitVec.toNat_ofNat, e, Nat.mod_mul]

theorem natLE_length (n x : Nat) : (natLE n x).length = n := by
  induction n generalizing x with
  | zero => rfl
  | succ n ih => simp [natLE, ih]

theorem memAbove_filter (p : Host.Cell → Bool) {x : Nat} {l : List Host.Cell} (h : memAbove x l = true) :
    memAbove x (l.filter p) = true := by
  induction l generalizing x with
  | nil => rfl
  | cons c l ih =>
    have hc := (memAbove_cons _ _ _).1 h
    rw [List.filter_cons]
    split
    · exact (memAbove_cons _ _ _).2 ⟨hc.1, hc.2.1, ih hc.2.2⟩
    · exact ih (memAbove_mono (by omega) hc.2.2)

/-- Dropping cells keeps the canonical form. -/
theorem filter_wf (p : Host.Cell → Bool) {l : List Host.Cell} (h : Memory.wf l = true) : Memory.wf (l.filter p) = true := by
  cases l with
  | nil => rfl
  | cons c l =>
    have hc := (wf_cons _ _).1 h
    rw [List.filter_cons]
    split
    · exact (wf_cons _ _).2 ⟨hc.1, memAbove_filter p hc.2⟩
    · exact wf_of_memAbove (memAbove_filter p hc.2)

/-! ## The operations on the module's memory -/

theorem putBytes_wf (s : State) (pa : Nat) (bs : List Byte) (h : Memory.wf s.mem = true) : Memory.wf (s.putBytes pa bs).mem = true :=
  memPut_wf _ _ _ h

theorem putLine_wf (s : State) (pa : Nat) (en : BitVec 128) (bs : List Byte) (h : Memory.wf s.mem = true) :
    Memory.wf (s.putLine pa en bs).mem = true :=
  memPutEn_wf _ _ _ _ _ h

theorem putWord32_wf (s : State) (pa : Nat) (x : W32) (h : Memory.wf s.mem = true) : Memory.wf (s.putWord32 pa x).mem = true :=
  putBytes_wf _ _ _ h

theorem putWord64_wf (s : State) (pa : Nat) (x : W64) (h : Memory.wf s.mem = true) : Memory.wf (s.putWord64 pa x).mem = true :=
  putBytes_wf _ _ _ h

theorem markLeaf_wf (s : State) (e : Option PAddr) (w : Bool) (h : Memory.wf s.mem = true) : Memory.wf (s.markLeaf e w).mem = true := by
  cases e <;> [exact h; exact memSet_wf _ _ _ h]

theorem setMig_wf (s : State) (e : PAddr) (on : Bool) (h : Memory.wf s.mem = true) : Memory.wf (s.setMig e on).mem = true :=
  memSet_wf _ _ _ h

theorem memSet_fold_wf (cs : List Host.Cell) (f : Nat → Nat) {l : List Host.Cell} (h : Memory.wf l = true) :
    Memory.wf (cs.foldl (fun m x => memSet m (f x.1) x.2) l) = true := by
  induction cs generalizing l with
  | nil => exact h
  | cons c cs ih => exact ih (memSet_wf _ _ _ h)

theorem copyFrame_wf (s : State) (a b n : Nat) (h : Memory.wf s.mem = true) : Memory.wf (copyFrame s a b n).mem = true :=
  memSet_fold_wf _ (fun x => x - a + b) (filter_wf _ h)

theorem install_mem (s : State) (v : Via) (x : Xlate) : (s.install v x).mem = s.mem := by
  unfold State.install; split <;> split <;> rfl

/-- A translation writes at most its leaf's A and D bits (19 R341). -/
theorem translate_wf (s : State) (v : Via) (ctx : Nat) (va : VAddr) (acc : Access) (h : Memory.wf s.mem = true) :
    Memory.wf (translate s v ctx va acc).2.mem = true := by
  unfold translate
  split
  · exact h
  · split
    · exact h
    · exact h
    · split
      · rw [install_mem]; exact markLeaf_wf _ _ _ h
      · exact h

theorem home_wf (s : State) (v : Via) (ctx : Nat) (va : VAddr) (h : Memory.wf s.mem = true) :
    Memory.wf (s.home v ctx va).2.mem = true := by
  unfold State.home
  split
  · exact h
  · split
    · exact h
    · exact h
    · rw [install_mem]; exact markLeaf_wf _ _ _ h

/-- A reset leaves memory as it stands; the boot clears HBM. -/
theorem reset_keeps_wf (rom : BitVec 256) (img : BootImages) (s t : State) (h : Memory.wf s.mem = true)
    (ht : execReset rom img s = .next t) : Memory.wf t.mem = true := by
  cases ht; exact h

/-- Reset memory is canonical. -/
theorem reset_mem_wf : Memory.wf State.reset.mem = true := rfl

/-! ## Scratchpad -/

/-- A change of one block that keeps its scratchpad canonical keeps every block's. -/
theorem modBlock_wf (s : State) (b : Nat) (f : Block → Block) (hf : ∀ k, Memory.wf k.bytes = true → Memory.wf (f k).bytes = true)
    (h : ∀ k ∈ s.blocks, Memory.wf k.bytes = true) : ∀ k ∈ (s.modBlock b f).blocks, Memory.wf k.bytes = true := by
  intro k hk
  obtain ⟨i, hi⟩ := List.mem_iff_getElem?.1 hk
  rw [show (s.modBlock b f).blocks = s.blocks.modify b f from rfl, List.getElem?_modify] at hi
  cases hs : s.blocks[i]? with
  | none => simp [hs] at hi
  | some k0 =>
    have h0 := h k0 (List.mem_iff_getElem?.2 ⟨i, hs⟩)
    simp only [hs] at hi
    split at hi <;> simp at hi <;> subst hi <;> [exact hf _ h0; exact h0]

/-- A change of a warp leaves the scratchpads as they were. -/
theorem modWarp_wf (s : State) (r : WarpRef) (f : Warp → Warp) (h : ∀ k ∈ s.blocks, Memory.wf k.bytes = true) :
    ∀ k ∈ (s.modWarp r f).blocks, Memory.wf k.bytes = true :=
  modBlock_wf s r.b _ (fun _ hk => hk) h

end Sys2Proof.Machine
end

