-- ==== Sys2Proof/Laws/State.lean ====
section
/-! SUPPORT. The fields of State and Warp after the named updates, one lemma per field and update. -/

namespace Sys2Proof.Machine

open Sys2Proof

@[simp] theorem modBlock_cycle (s : State) (b : Nat) (f : Block → Block) : (s.modBlock b f).cycle = s.cycle := rfl
@[simp] theorem modBlock_tick (s : State) (b : Nat) (f : Block → Block) : (s.modBlock b f).tick = s.tick := rfl
@[simp] theorem modBlock_agenda (s : State) (b : Nat) (f : Block → Block) : (s.modBlock b f).agenda = s.agenda := rfl
@[simp] theorem modBlock_turn (s : State) (b : Nat) (f : Block → Block) : (s.modBlock b f).turn = s.turn := rfl
@[simp] theorem modBlock_mem (s : State) (b : Nat) (f : Block → Block) : (s.modBlock b f).mem = s.mem := rfl
@[simp] theorem modBlock_bad (s : State) (b : Nat) (f : Block → Block) : (s.modBlock b f).bad = s.bad := rfl
@[simp] theorem modBlock_grids (s : State) (b : Nat) (f : Block → Block) : (s.modBlock b f).grids = s.grids := rfl
@[simp] theorem modBlock_cores (s : State) (b : Nat) (f : Block → Block) : (s.modBlock b f).cores = s.cores := rfl
@[simp] theorem modBlock_dies (s : State) (b : Nat) (f : Block → Block) : (s.modBlock b f).dies = s.dies := rfl
@[simp] theorem modBlock_cards (s : State) (b : Nat) (f : Block → Block) : (s.modBlock b f).cards = s.cards := rfl
@[simp] theorem modBlock_nextCard (s : State) (b : Nat) (f : Block → Block) : (s.modBlock b f).nextCard = s.nextCard := rfl
@[simp] theorem modBlock_queues (s : State) (b : Nat) (f : Block → Block) : (s.modBlock b f).queues = s.queues := rfl
@[simp] theorem modBlock_nodetab (s : State) (b : Nat) (f : Block → Block) : (s.modBlock b f).nodetab = s.nodetab := rfl
@[simp] theorem modBlock_dumpva (s : State) (b : Nat) (f : Block → Block) : (s.modBlock b f).dumpva = s.dumpva := rfl
@[simp] theorem modBlock_spool (s : State) (b : Nat) (f : Block → Block) : (s.modBlock b f).spool = s.spool := rfl
@[simp] theorem modBlock_route (s : State) (b : Nat) (f : Block → Block) : (s.modBlock b f).route = s.route := rfl
@[simp] theorem modBlock_parts (s : State) (b : Nat) (f : Block → Block) : (s.modBlock b f).parts = s.parts := rfl
@[simp] theorem modBlock_tctl (s : State) (b : Nat) (f : Block → Block) : (s.modBlock b f).tctl = s.tctl := rfl
@[simp] theorem modBlock_pcmd0 (s : State) (b : Nat) (f : Block → Block) : (s.modBlock b f).pcmd0 = s.pcmd0 := rfl
@[simp] theorem modBlock_pcmd1 (s : State) (b : Nat) (f : Block → Block) : (s.modBlock b f).pcmd1 = s.pcmd1 := rfl
@[simp] theorem modBlock_mstat (s : State) (b : Nat) (f : Block → Block) : (s.modBlock b f).mstat = s.mstat := rfl
@[simp] theorem modBlock_frz (s : State) (b : Nat) (f : Block → Block) : (s.modBlock b f).frz = s.frz := rfl
@[simp] theorem modBlock_ports (s : State) (b : Nat) (f : Block → Block) : (s.modBlock b f).ports = s.ports := rfl
@[simp] theorem modBlock_ctxs (s : State) (b : Nat) (f : Block → Block) : (s.modBlock b f).ctxs = s.ctxs := rfl
@[simp] theorem modBlock_chmaps (s : State) (b : Nat) (f : Block → Block) : (s.modBlock b f).chmaps = s.chmaps := rfl
@[simp] theorem modBlock_dump (s : State) (b : Nat) (f : Block → Block) : (s.modBlock b f).dump = s.dump := rfl
@[simp] theorem modBlock_dumpObj (s : State) (b : Nat) (f : Block → Block) : (s.modBlock b f).dumpObj = s.dumpObj := rfl
@[simp] theorem modBlock_log (s : State) (b : Nat) (f : Block → Block) : (s.modBlock b f).log = s.log := rfl
@[simp] theorem modBlock_fuses (s : State) (b : Nat) (f : Block → Block) : (s.modBlock b f).fuses = s.fuses := rfl
@[simp] theorem modBlock_tables (s : State) (b : Nat) (f : Block → Block) : (s.modBlock b f).tables = s.tables := rfl
@[simp] theorem modBlock_nodes (s : State) (b : Nat) (f : Block → Block) : (s.modBlock b f).nodes = s.nodes := rfl
@[simp] theorem modBlock_resv (s : State) (b : Nat) (f : Block → Block) : (s.modBlock b f).resv = s.resv := rfl
@[simp] theorem modBlock_meas (s : State) (b : Nat) (f : Block → Block) : (s.modBlock b f).meas = s.meas := rfl
@[simp] theorem modBlock_spdm (s : State) (b : Nat) (f : Block → Block) : (s.modBlock b f).spdm = s.spdm := rfl
@[simp] theorem modBlock_test (s : State) (b : Nat) (f : Block → Block) : (s.modBlock b f).test = s.test := rfl
@[simp] theorem modBlock_ucie (s : State) (b : Nat) (f : Block → Block) : (s.modBlock b f).ucie = s.ucie := rfl
@[simp] theorem modBlock_roce (s : State) (b : Nat) (f : Block → Block) : (s.modBlock b f).roce = s.roce := rfl
@[simp] theorem modBlock_peerOut (s : State) (b : Nat) (f : Block → Block) : (s.modBlock b f).peerOut = s.peerOut := rfl
@[simp] theorem modBlock_saves (s : State) (b : Nat) (f : Block → Block) : (s.modBlock b f).saves = s.saves := rfl
@[simp] theorem modBlock_peerRegs (s : State) (b : Nat) (f : Block → Block) : (s.modBlock b f).peerRegs = s.peerRegs := rfl
@[simp] theorem modBlock_replays (s : State) (b : Nat) (f : Block → Block) : (s.modBlock b f).replays = s.replays := rfl
@[simp] theorem modBlock_reports (s : State) (b : Nat) (f : Block → Block) : (s.modBlock b f).reports = s.reports := rfl
@[simp] theorem modBlock_preempts (s : State) (b : Nat) (f : Block → Block) : (s.modBlock b f).preempts = s.preempts := rfl
@[simp] theorem modBlock_inbox (s : State) (b : Nat) (f : Block → Block) : (s.modBlock b f).inbox = s.inbox := rfl
@[simp] theorem modBlock_roceWait (s : State) (b : Nat) (f : Block → Block) : (s.modBlock b f).roceWait = s.roceWait := rfl
@[simp] theorem modBlock_boot (s : State) (b : Nat) (f : Block → Block) : (s.modBlock b f).boot = s.boot := rfl

@[simp] theorem modWarp_cycle (s : State) (r : WarpRef) (f : Warp → Warp) : (s.modWarp r f).cycle = s.cycle := rfl
@[simp] theorem modWarp_tick (s : State) (r : WarpRef) (f : Warp → Warp) : (s.modWarp r f).tick = s.tick := rfl
@[simp] theorem modWarp_agenda (s : State) (r : WarpRef) (f : Warp → Warp) : (s.modWarp r f).agenda = s.agenda := rfl
@[simp] theorem modWarp_turn (s : State) (r : WarpRef) (f : Warp → Warp) : (s.modWarp r f).turn = s.turn := rfl
@[simp] theorem modWarp_mem (s : State) (r : WarpRef) (f : Warp → Warp) : (s.modWarp r f).mem = s.mem := rfl
@[simp] theorem modWarp_bad (s : State) (r : WarpRef) (f : Warp → Warp) : (s.modWarp r f).bad = s.bad := rfl
@[simp] theorem modWarp_grids (s : State) (r : WarpRef) (f : Warp → Warp) : (s.modWarp r f).grids = s.grids := rfl
@[simp] theorem modWarp_cores (s : State) (r : WarpRef) (f : Warp → Warp) : (s.modWarp r f).cores = s.cores := rfl
@[simp] theorem modWarp_dies (s : State) (r : WarpRef) (f : Warp → Warp) : (s.modWarp r f).dies = s.dies := rfl
@[simp] theorem modWarp_cards (s : State) (r : WarpRef) (f : Warp → Warp) : (s.modWarp r f).cards = s.cards := rfl
@[simp] theorem modWarp_nextCard (s : State) (r : WarpRef) (f : Warp → Warp) : (s.modWarp r f).nextCard = s.nextCard := rfl
@[simp] theorem modWarp_queues (s : State) (r : WarpRef) (f : Warp → Warp) : (s.modWarp r f).queues = s.queues := rfl
@[simp] theorem modWarp_nodetab (s : State) (r : WarpRef) (f : Warp → Warp) : (s.modWarp r f).nodetab = s.nodetab := rfl
@[simp] theorem modWarp_dumpva (s : State) (r : WarpRef) (f : Warp → Warp) : (s.modWarp r f).dumpva = s.dumpva := rfl
@[simp] theorem modWarp_spool (s : State) (r : WarpRef) (f : Warp → Warp) : (s.modWarp r f).spool = s.spool := rfl
@[simp] theorem modWarp_route (s : State) (r : WarpRef) (f : Warp → Warp) : (s.modWarp r f).route = s.route := rfl
@[simp] theorem modWarp_parts (s : State) (r : WarpRef) (f : Warp → Warp) : (s.modWarp r f).parts = s.parts := rfl
@[simp] theorem modWarp_tctl (s : State) (r : WarpRef) (f : Warp → Warp) : (s.modWarp r f).tctl = s.tctl := rfl
@[simp] theorem modWarp_pcmd0 (s : State) (r : WarpRef) (f : Warp → Warp) : (s.modWarp r f).pcmd0 = s.pcmd0 := rfl
@[simp] theorem modWarp_pcmd1 (s : State) (r : WarpRef) (f : Warp → Warp) : (s.modWarp r f).pcmd1 = s.pcmd1 := rfl
@[simp] theorem modWarp_mstat (s : State) (r : WarpRef) (f : Warp → Warp) : (s.modWarp r f).mstat = s.mstat := rfl
@[simp] theorem modWarp_frz (s : State) (r : WarpRef) (f : Warp → Warp) : (s.modWarp r f).frz = s.frz := rfl
@[simp] theorem modWarp_ports (s : State) (r : WarpRef) (f : Warp → Warp) : (s.modWarp r f).ports = s.ports := rfl
@[simp] theorem modWarp_ctxs (s : State) (r : WarpRef) (f : Warp → Warp) : (s.modWarp r f).ctxs = s.ctxs := rfl
@[simp] theorem modWarp_chmaps (s : State) (r : WarpRef) (f : Warp → Warp) : (s.modWarp r f).chmaps = s.chmaps := rfl
@[simp] theorem modWarp_dump (s : State) (r : WarpRef) (f : Warp → Warp) : (s.modWarp r f).dump = s.dump := rfl
@[simp] theorem modWarp_dumpObj (s : State) (r : WarpRef) (f : Warp → Warp) : (s.modWarp r f).dumpObj = s.dumpObj := rfl
@[simp] theorem modWarp_log (s : State) (r : WarpRef) (f : Warp → Warp) : (s.modWarp r f).log = s.log := rfl
@[simp] theorem modWarp_fuses (s : State) (r : WarpRef) (f : Warp → Warp) : (s.modWarp r f).fuses = s.fuses := rfl
@[simp] theorem modWarp_tables (s : State) (r : WarpRef) (f : Warp → Warp) : (s.modWarp r f).tables = s.tables := rfl
@[simp] theorem modWarp_nodes (s : State) (r : WarpRef) (f : Warp → Warp) : (s.modWarp r f).nodes = s.nodes := rfl
@[simp] theorem modWarp_resv (s : State) (r : WarpRef) (f : Warp → Warp) : (s.modWarp r f).resv = s.resv := rfl
@[simp] theorem modWarp_meas (s : State) (r : WarpRef) (f : Warp → Warp) : (s.modWarp r f).meas = s.meas := rfl
@[simp] theorem modWarp_spdm (s : State) (r : WarpRef) (f : Warp → Warp) : (s.modWarp r f).spdm = s.spdm := rfl
@[simp] theorem modWarp_test (s : State) (r : WarpRef) (f : Warp → Warp) : (s.modWarp r f).test = s.test := rfl
@[simp] theorem modWarp_ucie (s : State) (r : WarpRef) (f : Warp → Warp) : (s.modWarp r f).ucie = s.ucie := rfl
@[simp] theorem modWarp_roce (s : State) (r : WarpRef) (f : Warp → Warp) : (s.modWarp r f).roce = s.roce := rfl
@[simp] theorem modWarp_peerOut (s : State) (r : WarpRef) (f : Warp → Warp) : (s.modWarp r f).peerOut = s.peerOut := rfl
@[simp] theorem modWarp_saves (s : State) (r : WarpRef) (f : Warp → Warp) : (s.modWarp r f).saves = s.saves := rfl
@[simp] theorem modWarp_peerRegs (s : State) (r : WarpRef) (f : Warp → Warp) : (s.modWarp r f).peerRegs = s.peerRegs := rfl
@[simp] theorem modWarp_replays (s : State) (r : WarpRef) (f : Warp → Warp) : (s.modWarp r f).replays = s.replays := rfl
@[simp] theorem modWarp_reports (s : State) (r : WarpRef) (f : Warp → Warp) : (s.modWarp r f).reports = s.reports := rfl
@[simp] theorem modWarp_preempts (s : State) (r : WarpRef) (f : Warp → Warp) : (s.modWarp r f).preempts = s.preempts := rfl
@[simp] theorem modWarp_inbox (s : State) (r : WarpRef) (f : Warp → Warp) : (s.modWarp r f).inbox = s.inbox := rfl
@[simp] theorem modWarp_roceWait (s : State) (r : WarpRef) (f : Warp → Warp) : (s.modWarp r f).roceWait = s.roceWait := rfl
@[simp] theorem modWarp_boot (s : State) (r : WarpRef) (f : Warp → Warp) : (s.modWarp r f).boot = s.boot := rfl

@[simp] theorem modCore_cycle (s : State) (c : Nat) (f : Core → Core) : (s.modCore c f).cycle = s.cycle := rfl
@[simp] theorem modCore_tick (s : State) (c : Nat) (f : Core → Core) : (s.modCore c f).tick = s.tick := rfl
@[simp] theorem modCore_agenda (s : State) (c : Nat) (f : Core → Core) : (s.modCore c f).agenda = s.agenda := rfl
@[simp] theorem modCore_turn (s : State) (c : Nat) (f : Core → Core) : (s.modCore c f).turn = s.turn := rfl
@[simp] theorem modCore_mem (s : State) (c : Nat) (f : Core → Core) : (s.modCore c f).mem = s.mem := rfl
@[simp] theorem modCore_bad (s : State) (c : Nat) (f : Core → Core) : (s.modCore c f).bad = s.bad := rfl
@[simp] theorem modCore_grids (s : State) (c : Nat) (f : Core → Core) : (s.modCore c f).grids = s.grids := rfl
@[simp] theorem modCore_blocks (s : State) (c : Nat) (f : Core → Core) : (s.modCore c f).blocks = s.blocks := rfl
@[simp] theorem modCore_dies (s : State) (c : Nat) (f : Core → Core) : (s.modCore c f).dies = s.dies := rfl
@[simp] theorem modCore_cards (s : State) (c : Nat) (f : Core → Core) : (s.modCore c f).cards = s.cards := rfl
@[simp] theorem modCore_nextCard (s : State) (c : Nat) (f : Core → Core) : (s.modCore c f).nextCard = s.nextCard := rfl
@[simp] theorem modCore_queues (s : State) (c : Nat) (f : Core → Core) : (s.modCore c f).queues = s.queues := rfl
@[simp] theorem modCore_nodetab (s : State) (c : Nat) (f : Core → Core) : (s.modCore c f).nodetab = s.nodetab := rfl
@[simp] theorem modCore_dumpva (s : State) (c : Nat) (f : Core → Core) : (s.modCore c f).dumpva = s.dumpva := rfl
@[simp] theorem modCore_spool (s : State) (c : Nat) (f : Core → Core) : (s.modCore c f).spool = s.spool := rfl
@[simp] theorem modCore_route (s : State) (c : Nat) (f : Core → Core) : (s.modCore c f).route = s.route := rfl
@[simp] theorem modCore_parts (s : State) (c : Nat) (f : Core → Core) : (s.modCore c f).parts = s.parts := rfl
@[simp] theorem modCore_tctl (s : State) (c : Nat) (f : Core → Core) : (s.modCore c f).tctl = s.tctl := rfl
@[simp] theorem modCore_pcmd0 (s : State) (c : Nat) (f : Core → Core) : (s.modCore c f).pcmd0 = s.pcmd0 := rfl
@[simp] theorem modCore_pcmd1 (s : State) (c : Nat) (f : Core → Core) : (s.modCore c f).pcmd1 = s.pcmd1 := rfl
@[simp] theorem modCore_mstat (s : State) (c : Nat) (f : Core → Core) : (s.modCore c f).mstat = s.mstat := rfl
@[simp] theorem modCore_frz (s : State) (c : Nat) (f : Core → Core) : (s.modCore c f).frz = s.frz := rfl
@[simp] theorem modCore_ports (s : State) (c : Nat) (f : Core → Core) : (s.modCore c f).ports = s.ports := rfl
@[simp] theorem modCore_ctxs (s : State) (c : Nat) (f : Core → Core) : (s.modCore c f).ctxs = s.ctxs := rfl
@[simp] theorem modCore_chmaps (s : State) (c : Nat) (f : Core → Core) : (s.modCore c f).chmaps = s.chmaps := rfl
@[simp] theorem modCore_dump (s : State) (c : Nat) (f : Core → Core) : (s.modCore c f).dump = s.dump := rfl
@[simp] theorem modCore_dumpObj (s : State) (c : Nat) (f : Core → Core) : (s.modCore c f).dumpObj = s.dumpObj := rfl
@[simp] theorem modCore_log (s : State) (c : Nat) (f : Core → Core) : (s.modCore c f).log = s.log := rfl
@[simp] theorem modCore_fuses (s : State) (c : Nat) (f : Core → Core) : (s.modCore c f).fuses = s.fuses := rfl
@[simp] theorem modCore_tables (s : State) (c : Nat) (f : Core → Core) : (s.modCore c f).tables = s.tables := rfl
@[simp] theorem modCore_nodes (s : State) (c : Nat) (f : Core → Core) : (s.modCore c f).nodes = s.nodes := rfl
@[simp] theorem modCore_resv (s : State) (c : Nat) (f : Core → Core) : (s.modCore c f).resv = s.resv := rfl
@[simp] theorem modCore_meas (s : State) (c : Nat) (f : Core → Core) : (s.modCore c f).meas = s.meas := rfl
@[simp] theorem modCore_spdm (s : State) (c : Nat) (f : Core → Core) : (s.modCore c f).spdm = s.spdm := rfl
@[simp] theorem modCore_test (s : State) (c : Nat) (f : Core → Core) : (s.modCore c f).test = s.test := rfl
@[simp] theorem modCore_ucie (s : State) (c : Nat) (f : Core → Core) : (s.modCore c f).ucie = s.ucie := rfl
@[simp] theorem modCore_roce (s : State) (c : Nat) (f : Core → Core) : (s.modCore c f).roce = s.roce := rfl
@[simp] theorem modCore_peerOut (s : State) (c : Nat) (f : Core → Core) : (s.modCore c f).peerOut = s.peerOut := rfl
@[simp] theorem modCore_saves (s : State) (c : Nat) (f : Core → Core) : (s.modCore c f).saves = s.saves := rfl
@[simp] theorem modCore_peerRegs (s : State) (c : Nat) (f : Core → Core) : (s.modCore c f).peerRegs = s.peerRegs := rfl
@[simp] theorem modCore_replays (s : State) (c : Nat) (f : Core → Core) : (s.modCore c f).replays = s.replays := rfl
@[simp] theorem modCore_reports (s : State) (c : Nat) (f : Core → Core) : (s.modCore c f).reports = s.reports := rfl
@[simp] theorem modCore_preempts (s : State) (c : Nat) (f : Core → Core) : (s.modCore c f).preempts = s.preempts := rfl
@[simp] theorem modCore_inbox (s : State) (c : Nat) (f : Core → Core) : (s.modCore c f).inbox = s.inbox := rfl
@[simp] theorem modCore_roceWait (s : State) (c : Nat) (f : Core → Core) : (s.modCore c f).roceWait = s.roceWait := rfl
@[simp] theorem modCore_boot (s : State) (c : Nat) (f : Core → Core) : (s.modCore c f).boot = s.boot := rfl

@[simp] theorem modDie_cycle (s : State) (d : Nat) (f : Die → Die) : (s.modDie d f).cycle = s.cycle := rfl
@[simp] theorem modDie_tick (s : State) (d : Nat) (f : Die → Die) : (s.modDie d f).tick = s.tick := rfl
@[simp] theorem modDie_agenda (s : State) (d : Nat) (f : Die → Die) : (s.modDie d f).agenda = s.agenda := rfl
@[simp] theorem modDie_turn (s : State) (d : Nat) (f : Die → Die) : (s.modDie d f).turn = s.turn := rfl
@[simp] theorem modDie_mem (s : State) (d : Nat) (f : Die → Die) : (s.modDie d f).mem = s.mem := rfl
@[simp] theorem modDie_bad (s : State) (d : Nat) (f : Die → Die) : (s.modDie d f).bad = s.bad := rfl
@[simp] theorem modDie_grids (s : State) (d : Nat) (f : Die → Die) : (s.modDie d f).grids = s.grids := rfl
@[simp] theorem modDie_blocks (s : State) (d : Nat) (f : Die → Die) : (s.modDie d f).blocks = s.blocks := rfl
@[simp] theorem modDie_cores (s : State) (d : Nat) (f : Die → Die) : (s.modDie d f).cores = s.cores := rfl
@[simp] theorem modDie_cards (s : State) (d : Nat) (f : Die → Die) : (s.modDie d f).cards = s.cards := rfl
@[simp] theorem modDie_nextCard (s : State) (d : Nat) (f : Die → Die) : (s.modDie d f).nextCard = s.nextCard := rfl
@[simp] theorem modDie_queues (s : State) (d : Nat) (f : Die → Die) : (s.modDie d f).queues = s.queues := rfl
@[simp] theorem modDie_nodetab (s : State) (d : Nat) (f : Die → Die) : (s.modDie d f).nodetab = s.nodetab := rfl
@[simp] theorem modDie_dumpva (s : State) (d : Nat) (f : Die → Die) : (s.modDie d f).dumpva = s.dumpva := rfl
@[simp] theorem modDie_spool (s : State) (d : Nat) (f : Die → Die) : (s.modDie d f).spool = s.spool := rfl
@[simp] theorem modDie_route (s : State) (d : Nat) (f : Die → Die) : (s.modDie d f).route = s.route := rfl
@[simp] theorem modDie_parts (s : State) (d : Nat) (f : Die → Die) : (s.modDie d f).parts = s.parts := rfl
@[simp] theorem modDie_tctl (s : State) (d : Nat) (f : Die → Die) : (s.modDie d f).tctl = s.tctl := rfl
@[simp] theorem modDie_pcmd0 (s : State) (d : Nat) (f : Die → Die) : (s.modDie d f).pcmd0 = s.pcmd0 := rfl
@[simp] theorem modDie_pcmd1 (s : State) (d : Nat) (f : Die → Die) : (s.modDie d f).pcmd1 = s.pcmd1 := rfl
@[simp] theorem modDie_mstat (s : State) (d : Nat) (f : Die → Die) : (s.modDie d f).mstat = s.mstat := rfl
@[simp] theorem modDie_frz (s : State) (d : Nat) (f : Die → Die) : (s.modDie d f).frz = s.frz := rfl
@[simp] theorem modDie_ports (s : State) (d : Nat) (f : Die → Die) : (s.modDie d f).ports = s.ports := rfl
@[simp] theorem modDie_ctxs (s : State) (d : Nat) (f : Die → Die) : (s.modDie d f).ctxs = s.ctxs := rfl
@[simp] theorem modDie_chmaps (s : State) (d : Nat) (f : Die → Die) : (s.modDie d f).chmaps = s.chmaps := rfl
@[simp] theorem modDie_dump (s : State) (d : Nat) (f : Die → Die) : (s.modDie d f).dump = s.dump := rfl
@[simp] theorem modDie_dumpObj (s : State) (d : Nat) (f : Die → Die) : (s.modDie d f).dumpObj = s.dumpObj := rfl
@[simp] theorem modDie_log (s : State) (d : Nat) (f : Die → Die) : (s.modDie d f).log = s.log := rfl
@[simp] theorem modDie_fuses (s : State) (d : Nat) (f : Die → Die) : (s.modDie d f).fuses = s.fuses := rfl
@[simp] theorem modDie_tables (s : State) (d : Nat) (f : Die → Die) : (s.modDie d f).tables = s.tables := rfl
@[simp] theorem modDie_nodes (s : State) (d : Nat) (f : Die → Die) : (s.modDie d f).nodes = s.nodes := rfl
@[simp] theorem modDie_resv (s : State) (d : Nat) (f : Die → Die) : (s.modDie d f).resv = s.resv := rfl
@[simp] theorem modDie_meas (s : State) (d : Nat) (f : Die → Die) : (s.modDie d f).meas = s.meas := rfl
@[simp] theorem modDie_spdm (s : State) (d : Nat) (f : Die → Die) : (s.modDie d f).spdm = s.spdm := rfl
@[simp] theorem modDie_test (s : State) (d : Nat) (f : Die → Die) : (s.modDie d f).test = s.test := rfl
@[simp] theorem modDie_ucie (s : State) (d : Nat) (f : Die → Die) : (s.modDie d f).ucie = s.ucie := rfl
@[simp] theorem modDie_roce (s : State) (d : Nat) (f : Die → Die) : (s.modDie d f).roce = s.roce := rfl
@[simp] theorem modDie_peerOut (s : State) (d : Nat) (f : Die → Die) : (s.modDie d f).peerOut = s.peerOut := rfl
@[simp] theorem modDie_saves (s : State) (d : Nat) (f : Die → Die) : (s.modDie d f).saves = s.saves := rfl
@[simp] theorem modDie_peerRegs (s : State) (d : Nat) (f : Die → Die) : (s.modDie d f).peerRegs = s.peerRegs := rfl
@[simp] theorem modDie_replays (s : State) (d : Nat) (f : Die → Die) : (s.modDie d f).replays = s.replays := rfl
@[simp] theorem modDie_reports (s : State) (d : Nat) (f : Die → Die) : (s.modDie d f).reports = s.reports := rfl
@[simp] theorem modDie_preempts (s : State) (d : Nat) (f : Die → Die) : (s.modDie d f).preempts = s.preempts := rfl
@[simp] theorem modDie_inbox (s : State) (d : Nat) (f : Die → Die) : (s.modDie d f).inbox = s.inbox := rfl
@[simp] theorem modDie_roceWait (s : State) (d : Nat) (f : Die → Die) : (s.modDie d f).roceWait = s.roceWait := rfl
@[simp] theorem modDie_boot (s : State) (d : Nat) (f : Die → Die) : (s.modDie d f).boot = s.boot := rfl

@[simp] theorem modGrid_cycle (s : State) (g : Nat) (f : Grid → Grid) : (s.modGrid g f).cycle = s.cycle := rfl
@[simp] theorem modGrid_tick (s : State) (g : Nat) (f : Grid → Grid) : (s.modGrid g f).tick = s.tick := rfl
@[simp] theorem modGrid_agenda (s : State) (g : Nat) (f : Grid → Grid) : (s.modGrid g f).agenda = s.agenda := rfl
@[simp] theorem modGrid_turn (s : State) (g : Nat) (f : Grid → Grid) : (s.modGrid g f).turn = s.turn := rfl
@[simp] theorem modGrid_mem (s : State) (g : Nat) (f : Grid → Grid) : (s.modGrid g f).mem = s.mem := rfl
@[simp] theorem modGrid_bad (s : State) (g : Nat) (f : Grid → Grid) : (s.modGrid g f).bad = s.bad := rfl
@[simp] theorem modGrid_blocks (s : State) (g : Nat) (f : Grid → Grid) : (s.modGrid g f).blocks = s.blocks := rfl
@[simp] theorem modGrid_cores (s : State) (g : Nat) (f : Grid → Grid) : (s.modGrid g f).cores = s.cores := rfl
@[simp] theorem modGrid_dies (s : State) (g : Nat) (f : Grid → Grid) : (s.modGrid g f).dies = s.dies := rfl
@[simp] theorem modGrid_cards (s : State) (g : Nat) (f : Grid → Grid) : (s.modGrid g f).cards = s.cards := rfl
@[simp] theorem modGrid_nextCard (s : State) (g : Nat) (f : Grid → Grid) : (s.modGrid g f).nextCard = s.nextCard := rfl
@[simp] theorem modGrid_queues (s : State) (g : Nat) (f : Grid → Grid) : (s.modGrid g f).queues = s.queues := rfl
@[simp] theorem modGrid_nodetab (s : State) (g : Nat) (f : Grid → Grid) : (s.modGrid g f).nodetab = s.nodetab := rfl
@[simp] theorem modGrid_dumpva (s : State) (g : Nat) (f : Grid → Grid) : (s.modGrid g f).dumpva = s.dumpva := rfl
@[simp] theorem modGrid_spool (s : State) (g : Nat) (f : Grid → Grid) : (s.modGrid g f).spool = s.spool := rfl
@[simp] theorem modGrid_route (s : State) (g : Nat) (f : Grid → Grid) : (s.modGrid g f).route = s.route := rfl
@[simp] theorem modGrid_parts (s : State) (g : Nat) (f : Grid → Grid) : (s.modGrid g f).parts = s.parts := rfl
@[simp] theorem modGrid_tctl (s : State) (g : Nat) (f : Grid → Grid) : (s.modGrid g f).tctl = s.tctl := rfl
@[simp] theorem modGrid_pcmd0 (s : State) (g : Nat) (f : Grid → Grid) : (s.modGrid g f).pcmd0 = s.pcmd0 := rfl
@[simp] theorem modGrid_pcmd1 (s : State) (g : Nat) (f : Grid → Grid) : (s.modGrid g f).pcmd1 = s.pcmd1 := rfl
@[simp] theorem modGrid_mstat (s : State) (g : Nat) (f : Grid → Grid) : (s.modGrid g f).mstat = s.mstat := rfl
@[simp] theorem modGrid_frz (s : State) (g : Nat) (f : Grid → Grid) : (s.modGrid g f).frz = s.frz := rfl
@[simp] theorem modGrid_ports (s : State) (g : Nat) (f : Grid → Grid) : (s.modGrid g f).ports = s.ports := rfl
@[simp] theorem modGrid_ctxs (s : State) (g : Nat) (f : Grid → Grid) : (s.modGrid g f).ctxs = s.ctxs := rfl
@[simp] theorem modGrid_chmaps (s : State) (g : Nat) (f : Grid → Grid) : (s.modGrid g f).chmaps = s.chmaps := rfl
@[simp] theorem modGrid_dump (s : State) (g : Nat) (f : Grid → Grid) : (s.modGrid g f).dump = s.dump := rfl
@[simp] theorem modGrid_dumpObj (s : State) (g : Nat) (f : Grid → Grid) : (s.modGrid g f).dumpObj = s.dumpObj := rfl
@[simp] theorem modGrid_log (s : State) (g : Nat) (f : Grid → Grid) : (s.modGrid g f).log = s.log := rfl
@[simp] theorem modGrid_fuses (s : State) (g : Nat) (f : Grid → Grid) : (s.modGrid g f).fuses = s.fuses := rfl
@[simp] theorem modGrid_tables (s : State) (g : Nat) (f : Grid → Grid) : (s.modGrid g f).tables = s.tables := rfl
@[simp] theorem modGrid_nodes (s : State) (g : Nat) (f : Grid → Grid) : (s.modGrid g f).nodes = s.nodes := rfl
@[simp] theorem modGrid_resv (s : State) (g : Nat) (f : Grid → Grid) : (s.modGrid g f).resv = s.resv := rfl
@[simp] theorem modGrid_meas (s : State) (g : Nat) (f : Grid → Grid) : (s.modGrid g f).meas = s.meas := rfl
@[simp] theorem modGrid_spdm (s : State) (g : Nat) (f : Grid → Grid) : (s.modGrid g f).spdm = s.spdm := rfl
@[simp] theorem modGrid_test (s : State) (g : Nat) (f : Grid → Grid) : (s.modGrid g f).test = s.test := rfl
@[simp] theorem modGrid_ucie (s : State) (g : Nat) (f : Grid → Grid) : (s.modGrid g f).ucie = s.ucie := rfl
@[simp] theorem modGrid_roce (s : State) (g : Nat) (f : Grid → Grid) : (s.modGrid g f).roce = s.roce := rfl
@[simp] theorem modGrid_peerOut (s : State) (g : Nat) (f : Grid → Grid) : (s.modGrid g f).peerOut = s.peerOut := rfl
@[simp] theorem modGrid_saves (s : State) (g : Nat) (f : Grid → Grid) : (s.modGrid g f).saves = s.saves := rfl
@[simp] theorem modGrid_peerRegs (s : State) (g : Nat) (f : Grid → Grid) : (s.modGrid g f).peerRegs = s.peerRegs := rfl
@[simp] theorem modGrid_replays (s : State) (g : Nat) (f : Grid → Grid) : (s.modGrid g f).replays = s.replays := rfl
@[simp] theorem modGrid_reports (s : State) (g : Nat) (f : Grid → Grid) : (s.modGrid g f).reports = s.reports := rfl
@[simp] theorem modGrid_preempts (s : State) (g : Nat) (f : Grid → Grid) : (s.modGrid g f).preempts = s.preempts := rfl
@[simp] theorem modGrid_inbox (s : State) (g : Nat) (f : Grid → Grid) : (s.modGrid g f).inbox = s.inbox := rfl
@[simp] theorem modGrid_roceWait (s : State) (g : Nat) (f : Grid → Grid) : (s.modGrid g f).roceWait = s.roceWait := rfl
@[simp] theorem modGrid_boot (s : State) (g : Nat) (f : Grid → Grid) : (s.modGrid g f).boot = s.boot := rfl

@[simp] theorem modCtx_cycle (s : State) (c : Nat) (f : CtxInfo → CtxInfo) : (s.modCtx c f).cycle = s.cycle := rfl
@[simp] theorem modCtx_tick (s : State) (c : Nat) (f : CtxInfo → CtxInfo) : (s.modCtx c f).tick = s.tick := rfl
@[simp] theorem modCtx_agenda (s : State) (c : Nat) (f : CtxInfo → CtxInfo) : (s.modCtx c f).agenda = s.agenda := rfl
@[simp] theorem modCtx_turn (s : State) (c : Nat) (f : CtxInfo → CtxInfo) : (s.modCtx c f).turn = s.turn := rfl
@[simp] theorem modCtx_mem (s : State) (c : Nat) (f : CtxInfo → CtxInfo) : (s.modCtx c f).mem = s.mem := rfl
@[simp] theorem modCtx_bad (s : State) (c : Nat) (f : CtxInfo → CtxInfo) : (s.modCtx c f).bad = s.bad := rfl
@[simp] theorem modCtx_grids (s : State) (c : Nat) (f : CtxInfo → CtxInfo) : (s.modCtx c f).grids = s.grids := rfl
@[simp] theorem modCtx_blocks (s : State) (c : Nat) (f : CtxInfo → CtxInfo) : (s.modCtx c f).blocks = s.blocks := rfl
@[simp] theorem modCtx_cores (s : State) (c : Nat) (f : CtxInfo → CtxInfo) : (s.modCtx c f).cores = s.cores := rfl
@[simp] theorem modCtx_dies (s : State) (c : Nat) (f : CtxInfo → CtxInfo) : (s.modCtx c f).dies = s.dies := rfl
@[simp] theorem modCtx_cards (s : State) (c : Nat) (f : CtxInfo → CtxInfo) : (s.modCtx c f).cards = s.cards := rfl
@[simp] theorem modCtx_nextCard (s : State) (c : Nat) (f : CtxInfo → CtxInfo) : (s.modCtx c f).nextCard = s.nextCard := rfl
@[simp] theorem modCtx_queues (s : State) (c : Nat) (f : CtxInfo → CtxInfo) : (s.modCtx c f).queues = s.queues := rfl
@[simp] theorem modCtx_nodetab (s : State) (c : Nat) (f : CtxInfo → CtxInfo) : (s.modCtx c f).nodetab = s.nodetab := rfl
@[simp] theorem modCtx_dumpva (s : State) (c : Nat) (f : CtxInfo → CtxInfo) : (s.modCtx c f).dumpva = s.dumpva := rfl
@[simp] theorem modCtx_spool (s : State) (c : Nat) (f : CtxInfo → CtxInfo) : (s.modCtx c f).spool = s.spool := rfl
@[simp] theorem modCtx_route (s : State) (c : Nat) (f : CtxInfo → CtxInfo) : (s.modCtx c f).route = s.route := rfl
@[simp] theorem modCtx_parts (s : State) (c : Nat) (f : CtxInfo → CtxInfo) : (s.modCtx c f).parts = s.parts := rfl
@[simp] theorem modCtx_tctl (s : State) (c : Nat) (f : CtxInfo → CtxInfo) : (s.modCtx c f).tctl = s.tctl := rfl
@[simp] theorem modCtx_pcmd0 (s : State) (c : Nat) (f : CtxInfo → CtxInfo) : (s.modCtx c f).pcmd0 = s.pcmd0 := rfl
@[simp] theorem modCtx_pcmd1 (s : State) (c : Nat) (f : CtxInfo → CtxInfo) : (s.modCtx c f).pcmd1 = s.pcmd1 := rfl
@[simp] theorem modCtx_mstat (s : State) (c : Nat) (f : CtxInfo → CtxInfo) : (s.modCtx c f).mstat = s.mstat := rfl
@[simp] theorem modCtx_frz (s : State) (c : Nat) (f : CtxInfo → CtxInfo) : (s.modCtx c f).frz = s.frz := rfl
@[simp] theorem modCtx_ports (s : State) (c : Nat) (f : CtxInfo → CtxInfo) : (s.modCtx c f).ports = s.ports := rfl
@[simp] theorem modCtx_chmaps (s : State) (c : Nat) (f : CtxInfo → CtxInfo) : (s.modCtx c f).chmaps = s.chmaps := rfl
@[simp] theorem modCtx_dump (s : State) (c : Nat) (f : CtxInfo → CtxInfo) : (s.modCtx c f).dump = s.dump := rfl
@[simp] theorem modCtx_dumpObj (s : State) (c : Nat) (f : CtxInfo → CtxInfo) : (s.modCtx c f).dumpObj = s.dumpObj := rfl
@[simp] theorem modCtx_log (s : State) (c : Nat) (f : CtxInfo → CtxInfo) : (s.modCtx c f).log = s.log := rfl
@[simp] theorem modCtx_fuses (s : State) (c : Nat) (f : CtxInfo → CtxInfo) : (s.modCtx c f).fuses = s.fuses := rfl
@[simp] theorem modCtx_tables (s : State) (c : Nat) (f : CtxInfo → CtxInfo) : (s.modCtx c f).tables = s.tables := rfl
@[simp] theorem modCtx_nodes (s : State) (c : Nat) (f : CtxInfo → CtxInfo) : (s.modCtx c f).nodes = s.nodes := rfl
@[simp] theorem modCtx_resv (s : State) (c : Nat) (f : CtxInfo → CtxInfo) : (s.modCtx c f).resv = s.resv := rfl
@[simp] theorem modCtx_meas (s : State) (c : Nat) (f : CtxInfo → CtxInfo) : (s.modCtx c f).meas = s.meas := rfl
@[simp] theorem modCtx_spdm (s : State) (c : Nat) (f : CtxInfo → CtxInfo) : (s.modCtx c f).spdm = s.spdm := rfl
@[simp] theorem modCtx_test (s : State) (c : Nat) (f : CtxInfo → CtxInfo) : (s.modCtx c f).test = s.test := rfl
@[simp] theorem modCtx_ucie (s : State) (c : Nat) (f : CtxInfo → CtxInfo) : (s.modCtx c f).ucie = s.ucie := rfl
@[simp] theorem modCtx_roce (s : State) (c : Nat) (f : CtxInfo → CtxInfo) : (s.modCtx c f).roce = s.roce := rfl
@[simp] theorem modCtx_peerOut (s : State) (c : Nat) (f : CtxInfo → CtxInfo) : (s.modCtx c f).peerOut = s.peerOut := rfl
@[simp] theorem modCtx_saves (s : State) (c : Nat) (f : CtxInfo → CtxInfo) : (s.modCtx c f).saves = s.saves := rfl
@[simp] theorem modCtx_peerRegs (s : State) (c : Nat) (f : CtxInfo → CtxInfo) : (s.modCtx c f).peerRegs = s.peerRegs := rfl
@[simp] theorem modCtx_replays (s : State) (c : Nat) (f : CtxInfo → CtxInfo) : (s.modCtx c f).replays = s.replays := rfl
@[simp] theorem modCtx_reports (s : State) (c : Nat) (f : CtxInfo → CtxInfo) : (s.modCtx c f).reports = s.reports := rfl
@[simp] theorem modCtx_preempts (s : State) (c : Nat) (f : CtxInfo → CtxInfo) : (s.modCtx c f).preempts = s.preempts := rfl
@[simp] theorem modCtx_inbox (s : State) (c : Nat) (f : CtxInfo → CtxInfo) : (s.modCtx c f).inbox = s.inbox := rfl
@[simp] theorem modCtx_roceWait (s : State) (c : Nat) (f : CtxInfo → CtxInfo) : (s.modCtx c f).roceWait = s.roceWait := rfl
@[simp] theorem modCtx_boot (s : State) (c : Nat) (f : CtxInfo → CtxInfo) : (s.modCtx c f).boot = s.boot := rfl

@[simp] theorem putBytes_cycle (s : State) (pa : Nat) (bs : List Byte) : (s.putBytes pa bs).cycle = s.cycle := rfl
@[simp] theorem putBytes_tick (s : State) (pa : Nat) (bs : List Byte) : (s.putBytes pa bs).tick = s.tick := rfl
@[simp] theorem putBytes_agenda (s : State) (pa : Nat) (bs : List Byte) : (s.putBytes pa bs).agenda = s.agenda := rfl
@[simp] theorem putBytes_turn (s : State) (pa : Nat) (bs : List Byte) : (s.putBytes pa bs).turn = s.turn := rfl
@[simp] theorem putBytes_grids (s : State) (pa : Nat) (bs : List Byte) : (s.putBytes pa bs).grids = s.grids := rfl
@[simp] theorem putBytes_blocks (s : State) (pa : Nat) (bs : List Byte) : (s.putBytes pa bs).blocks = s.blocks := rfl
@[simp] theorem putBytes_cores (s : State) (pa : Nat) (bs : List Byte) : (s.putBytes pa bs).cores = s.cores := rfl
@[simp] theorem putBytes_dies (s : State) (pa : Nat) (bs : List Byte) : (s.putBytes pa bs).dies = s.dies := rfl
@[simp] theorem putBytes_cards (s : State) (pa : Nat) (bs : List Byte) : (s.putBytes pa bs).cards = s.cards := rfl
@[simp] theorem putBytes_nextCard (s : State) (pa : Nat) (bs : List Byte) : (s.putBytes pa bs).nextCard = s.nextCard := rfl
@[simp] theorem putBytes_queues (s : State) (pa : Nat) (bs : List Byte) : (s.putBytes pa bs).queues = s.queues := rfl
@[simp] theorem putBytes_nodetab (s : State) (pa : Nat) (bs : List Byte) : (s.putBytes pa bs).nodetab = s.nodetab := rfl
@[simp] theorem putBytes_dumpva (s : State) (pa : Nat) (bs : List Byte) : (s.putBytes pa bs).dumpva = s.dumpva := rfl
@[simp] theorem putBytes_spool (s : State) (pa : Nat) (bs : List Byte) : (s.putBytes pa bs).spool = s.spool := rfl
@[simp] theorem putBytes_route (s : State) (pa : Nat) (bs : List Byte) : (s.putBytes pa bs).route = s.route := rfl
@[simp] theorem putBytes_parts (s : State) (pa : Nat) (bs : List Byte) : (s.putBytes pa bs).parts = s.parts := rfl
@[simp] theorem putBytes_tctl (s : State) (pa : Nat) (bs : List Byte) : (s.putBytes pa bs).tctl = s.tctl := rfl
@[simp] theorem putBytes_pcmd0 (s : State) (pa : Nat) (bs : List Byte) : (s.putBytes pa bs).pcmd0 = s.pcmd0 := rfl
@[simp] theorem putBytes_pcmd1 (s : State) (pa : Nat) (bs : List Byte) : (s.putBytes pa bs).pcmd1 = s.pcmd1 := rfl
@[simp] theorem putBytes_mstat (s : State) (pa : Nat) (bs : List Byte) : (s.putBytes pa bs).mstat = s.mstat := rfl
@[simp] theorem putBytes_frz (s : State) (pa : Nat) (bs : List Byte) : (s.putBytes pa bs).frz = s.frz := rfl
@[simp] theorem putBytes_ports (s : State) (pa : Nat) (bs : List Byte) : (s.putBytes pa bs).ports = s.ports := rfl
@[simp] theorem putBytes_ctxs (s : State) (pa : Nat) (bs : List Byte) : (s.putBytes pa bs).ctxs = s.ctxs := rfl
@[simp] theorem putBytes_chmaps (s : State) (pa : Nat) (bs : List Byte) : (s.putBytes pa bs).chmaps = s.chmaps := rfl
@[simp] theorem putBytes_dump (s : State) (pa : Nat) (bs : List Byte) : (s.putBytes pa bs).dump = s.dump := rfl
@[simp] theorem putBytes_dumpObj (s : State) (pa : Nat) (bs : List Byte) : (s.putBytes pa bs).dumpObj = s.dumpObj := rfl
@[simp] theorem putBytes_log (s : State) (pa : Nat) (bs : List Byte) : (s.putBytes pa bs).log = s.log := rfl
@[simp] theorem putBytes_fuses (s : State) (pa : Nat) (bs : List Byte) : (s.putBytes pa bs).fuses = s.fuses := rfl
@[simp] theorem putBytes_tables (s : State) (pa : Nat) (bs : List Byte) : (s.putBytes pa bs).tables = s.tables := rfl
@[simp] theorem putBytes_nodes (s : State) (pa : Nat) (bs : List Byte) : (s.putBytes pa bs).nodes = s.nodes := rfl
@[simp] theorem putBytes_resv (s : State) (pa : Nat) (bs : List Byte) : (s.putBytes pa bs).resv = s.resv := rfl
@[simp] theorem putBytes_meas (s : State) (pa : Nat) (bs : List Byte) : (s.putBytes pa bs).meas = s.meas := rfl
@[simp] theorem putBytes_spdm (s : State) (pa : Nat) (bs : List Byte) : (s.putBytes pa bs).spdm = s.spdm := rfl
@[simp] theorem putBytes_test (s : State) (pa : Nat) (bs : List Byte) : (s.putBytes pa bs).test = s.test := rfl
@[simp] theorem putBytes_ucie (s : State) (pa : Nat) (bs : List Byte) : (s.putBytes pa bs).ucie = s.ucie := rfl
@[simp] theorem putBytes_roce (s : State) (pa : Nat) (bs : List Byte) : (s.putBytes pa bs).roce = s.roce := rfl
@[simp] theorem putBytes_peerOut (s : State) (pa : Nat) (bs : List Byte) : (s.putBytes pa bs).peerOut = s.peerOut := rfl
@[simp] theorem putBytes_saves (s : State) (pa : Nat) (bs : List Byte) : (s.putBytes pa bs).saves = s.saves := rfl
@[simp] theorem putBytes_peerRegs (s : State) (pa : Nat) (bs : List Byte) : (s.putBytes pa bs).peerRegs = s.peerRegs := rfl
@[simp] theorem putBytes_replays (s : State) (pa : Nat) (bs : List Byte) : (s.putBytes pa bs).replays = s.replays := rfl
@[simp] theorem putBytes_reports (s : State) (pa : Nat) (bs : List Byte) : (s.putBytes pa bs).reports = s.reports := rfl
@[simp] theorem putBytes_preempts (s : State) (pa : Nat) (bs : List Byte) : (s.putBytes pa bs).preempts = s.preempts := rfl
@[simp] theorem putBytes_inbox (s : State) (pa : Nat) (bs : List Byte) : (s.putBytes pa bs).inbox = s.inbox := rfl
@[simp] theorem putBytes_roceWait (s : State) (pa : Nat) (bs : List Byte) : (s.putBytes pa bs).roceWait = s.roceWait := rfl
@[simp] theorem putBytes_boot (s : State) (pa : Nat) (bs : List Byte) : (s.putBytes pa bs).boot = s.boot := rfl

@[simp] theorem putLine_cycle (s : State) (pa : Nat) (en : BitVec 128) (bs : List Byte) : (s.putLine pa en bs).cycle = s.cycle := rfl
@[simp] theorem putLine_tick (s : State) (pa : Nat) (en : BitVec 128) (bs : List Byte) : (s.putLine pa en bs).tick = s.tick := rfl
@[simp] theorem putLine_agenda (s : State) (pa : Nat) (en : BitVec 128) (bs : List Byte) : (s.putLine pa en bs).agenda = s.agenda := rfl
@[simp] theorem putLine_turn (s : State) (pa : Nat) (en : BitVec 128) (bs : List Byte) : (s.putLine pa en bs).turn = s.turn := rfl
@[simp] theorem putLine_grids (s : State) (pa : Nat) (en : BitVec 128) (bs : List Byte) : (s.putLine pa en bs).grids = s.grids := rfl
@[simp] theorem putLine_blocks (s : State) (pa : Nat) (en : BitVec 128) (bs : List Byte) : (s.putLine pa en bs).blocks = s.blocks := rfl
@[simp] theorem putLine_cores (s : State) (pa : Nat) (en : BitVec 128) (bs : List Byte) : (s.putLine pa en bs).cores = s.cores := rfl
@[simp] theorem putLine_dies (s : State) (pa : Nat) (en : BitVec 128) (bs : List Byte) : (s.putLine pa en bs).dies = s.dies := rfl
@[simp] theorem putLine_cards (s : State) (pa : Nat) (en : BitVec 128) (bs : List Byte) : (s.putLine pa en bs).cards = s.cards := rfl
@[simp] theorem putLine_nextCard (s : State) (pa : Nat) (en : BitVec 128) (bs : List Byte) : (s.putLine pa en bs).nextCard = s.nextCard := rfl
@[simp] theorem putLine_queues (s : State) (pa : Nat) (en : BitVec 128) (bs : List Byte) : (s.putLine pa en bs).queues = s.queues := rfl
@[simp] theorem putLine_nodetab (s : State) (pa : Nat) (en : BitVec 128) (bs : List Byte) : (s.putLine pa en bs).nodetab = s.nodetab := rfl
@[simp] theorem putLine_dumpva (s : State) (pa : Nat) (en : BitVec 128) (bs : List Byte) : (s.putLine pa en bs).dumpva = s.dumpva := rfl
@[simp] theorem putLine_spool (s : State) (pa : Nat) (en : BitVec 128) (bs : List Byte) : (s.putLine pa en bs).spool = s.spool := rfl
@[simp] theorem putLine_route (s : State) (pa : Nat) (en : BitVec 128) (bs : List Byte) : (s.putLine pa en bs).route = s.route := rfl
@[simp] theorem putLine_parts (s : State) (pa : Nat) (en : BitVec 128) (bs : List Byte) : (s.putLine pa en bs).parts = s.parts := rfl
@[simp] theorem putLine_tctl (s : State) (pa : Nat) (en : BitVec 128) (bs : List Byte) : (s.putLine pa en bs).tctl = s.tctl := rfl
@[simp] theorem putLine_pcmd0 (s : State) (pa : Nat) (en : BitVec 128) (bs : List Byte) : (s.putLine pa en bs).pcmd0 = s.pcmd0 := rfl
@[simp] theorem putLine_pcmd1 (s : State) (pa : Nat) (en : BitVec 128) (bs : List Byte) : (s.putLine pa en bs).pcmd1 = s.pcmd1 := rfl
@[simp] theorem putLine_mstat (s : State) (pa : Nat) (en : BitVec 128) (bs : List Byte) : (s.putLine pa en bs).mstat = s.mstat := rfl
@[simp] theorem putLine_frz (s : State) (pa : Nat) (en : BitVec 128) (bs : List Byte) : (s.putLine pa en bs).frz = s.frz := rfl
@[simp] theorem putLine_ports (s : State) (pa : Nat) (en : BitVec 128) (bs : List Byte) : (s.putLine pa en bs).ports = s.ports := rfl
@[simp] theorem putLine_ctxs (s : State) (pa : Nat) (en : BitVec 128) (bs : List Byte) : (s.putLine pa en bs).ctxs = s.ctxs := rfl
@[simp] theorem putLine_chmaps (s : State) (pa : Nat) (en : BitVec 128) (bs : List Byte) : (s.putLine pa en bs).chmaps = s.chmaps := rfl
@[simp] theorem putLine_dump (s : State) (pa : Nat) (en : BitVec 128) (bs : List Byte) : (s.putLine pa en bs).dump = s.dump := rfl
@[simp] theorem putLine_dumpObj (s : State) (pa : Nat) (en : BitVec 128) (bs : List Byte) : (s.putLine pa en bs).dumpObj = s.dumpObj := rfl
@[simp] theorem putLine_log (s : State) (pa : Nat) (en : BitVec 128) (bs : List Byte) : (s.putLine pa en bs).log = s.log := rfl
@[simp] theorem putLine_fuses (s : State) (pa : Nat) (en : BitVec 128) (bs : List Byte) : (s.putLine pa en bs).fuses = s.fuses := rfl
@[simp] theorem putLine_tables (s : State) (pa : Nat) (en : BitVec 128) (bs : List Byte) : (s.putLine pa en bs).tables = s.tables := rfl
@[simp] theorem putLine_nodes (s : State) (pa : Nat) (en : BitVec 128) (bs : List Byte) : (s.putLine pa en bs).nodes = s.nodes := rfl
@[simp] theorem putLine_resv (s : State) (pa : Nat) (en : BitVec 128) (bs : List Byte) : (s.putLine pa en bs).resv = s.resv := rfl
@[simp] theorem putLine_meas (s : State) (pa : Nat) (en : BitVec 128) (bs : List Byte) : (s.putLine pa en bs).meas = s.meas := rfl
@[simp] theorem putLine_spdm (s : State) (pa : Nat) (en : BitVec 128) (bs : List Byte) : (s.putLine pa en bs).spdm = s.spdm := rfl
@[simp] theorem putLine_test (s : State) (pa : Nat) (en : BitVec 128) (bs : List Byte) : (s.putLine pa en bs).test = s.test := rfl
@[simp] theorem putLine_ucie (s : State) (pa : Nat) (en : BitVec 128) (bs : List Byte) : (s.putLine pa en bs).ucie = s.ucie := rfl
@[simp] theorem putLine_roce (s : State) (pa : Nat) (en : BitVec 128) (bs : List Byte) : (s.putLine pa en bs).roce = s.roce := rfl
@[simp] theorem putLine_peerOut (s : State) (pa : Nat) (en : BitVec 128) (bs : List Byte) : (s.putLine pa en bs).peerOut = s.peerOut := rfl
@[simp] theorem putLine_saves (s : State) (pa : Nat) (en : BitVec 128) (bs : List Byte) : (s.putLine pa en bs).saves = s.saves := rfl
@[simp] theorem putLine_peerRegs (s : State) (pa : Nat) (en : BitVec 128) (bs : List Byte) : (s.putLine pa en bs).peerRegs = s.peerRegs := rfl
@[simp] theorem putLine_replays (s : State) (pa : Nat) (en : BitVec 128) (bs : List Byte) : (s.putLine pa en bs).replays = s.replays := rfl
@[simp] theorem putLine_reports (s : State) (pa : Nat) (en : BitVec 128) (bs : List Byte) : (s.putLine pa en bs).reports = s.reports := rfl
@[simp] theorem putLine_preempts (s : State) (pa : Nat) (en : BitVec 128) (bs : List Byte) : (s.putLine pa en bs).preempts = s.preempts := rfl
@[simp] theorem putLine_inbox (s : State) (pa : Nat) (en : BitVec 128) (bs : List Byte) : (s.putLine pa en bs).inbox = s.inbox := rfl
@[simp] theorem putLine_roceWait (s : State) (pa : Nat) (en : BitVec 128) (bs : List Byte) : (s.putLine pa en bs).roceWait = s.roceWait := rfl
@[simp] theorem putLine_boot (s : State) (pa : Nat) (en : BitVec 128) (bs : List Byte) : (s.putLine pa en bs).boot = s.boot := rfl

@[simp] theorem modBlock_blocks (s : State) (b : Nat) (f : Block → Block) : (s.modBlock b f).blocks = s.blocks.modify b f := rfl
@[simp] theorem modWarp_blocks (s : State) (r : WarpRef) (f : Warp → Warp) :
    (s.modWarp r f).blocks = s.blocks.modify r.b (·.modWarp r.w f) := rfl
@[simp] theorem modCore_cores (s : State) (c : Nat) (f : Core → Core) : (s.modCore c f).cores = s.cores.modify c f := rfl
@[simp] theorem modDie_dies (s : State) (d : Nat) (f : Die → Die) : (s.modDie d f).dies = s.dies.modify d f := rfl
@[simp] theorem modGrid_grids (s : State) (g : Nat) (f : Grid → Grid) : (s.modGrid g f).grids = s.grids.modify g f := rfl
@[simp] theorem modCtx_ctxs (s : State) (c : Nat) (f : CtxInfo → CtxInfo) : (s.modCtx c f).ctxs = assocMod s.ctxs c f := rfl
@[simp] theorem putBytes_mem (s : State) (pa : Nat) (bs : List Byte) : (s.putBytes pa bs).mem = memPut s.mem pa bs := rfl
@[simp] theorem putLine_mem (s : State) (pa : Nat) (en : BitVec 128) (bs : List Byte) :
    (s.putLine pa en bs).mem = memPutEn s.mem pa en 0 bs := rfl

@[simp] theorem Block.modWarp_grid (k : Block) (w : Nat) (f : Warp → Warp) : (k.modWarp w f).grid = k.grid := rfl
@[simp] theorem Block.modWarp_lin (k : Block) (w : Nat) (f : Warp → Warp) : (k.modWarp w f).lin = k.lin := rfl
@[simp] theorem Block.modWarp_core (k : Block) (w : Nat) (f : Warp → Warp) : (k.modWarp w f).core = k.core := rfl
@[simp] theorem Block.modWarp_place (k : Block) (w : Nat) (f : Warp → Warp) : (k.modWarp w f).place = k.place := rfl
@[simp] theorem Block.modWarp_halted (k : Block) (w : Nat) (f : Warp → Warp) : (k.modWarp w f).halted = k.halted := rfl
@[simp] theorem Block.modWarp_haltAt (k : Block) (w : Nat) (f : Warp → Warp) : (k.modWarp w f).haltAt = k.haltAt := rfl
@[simp] theorem Block.modWarp_tickets (k : Block) (w : Nat) (f : Warp → Warp) : (k.modWarp w f).tickets = k.tickets := rfl
@[simp] theorem Block.modWarp_relaunched (k : Block) (w : Nat) (f : Warp → Warp) : (k.modWarp w f).relaunched = k.relaunched := rfl
@[simp] theorem Block.modWarp_ending (k : Block) (w : Nat) (f : Warp → Warp) : (k.modWarp w f).ending = k.ending := rfl
@[simp] theorem Block.modWarp_bytes (k : Block) (w : Nat) (f : Warp → Warp) : (k.modWarp w f).bytes = k.bytes := rfl
@[simp] theorem Block.modWarp_region (k : Block) (w : Nat) (f : Warp → Warp) : (k.modWarp w f).region = k.region := rfl
@[simp] theorem Block.modWarp_frames (k : Block) (w : Nat) (f : Warp → Warp) : (k.modWarp w f).frames = k.frames := rfl
@[simp] theorem Block.modWarp_bars (k : Block) (w : Nat) (f : Warp → Warp) : (k.modWarp w f).bars = k.bars := rfl
@[simp] theorem Block.modWarp_gbars (k : Block) (w : Nat) (f : Warp → Warp) : (k.modWarp w f).gbars = k.gbars := rfl
@[simp] theorem Block.modWarp_guards (k : Block) (w : Nat) (f : Warp → Warp) : (k.modWarp w f).guards = k.guards := rfl
@[simp] theorem Block.modWarp_tiles (k : Block) (w : Nat) (f : Warp → Warp) : (k.modWarp w f).tiles = k.tiles := rfl
@[simp] theorem Block.modWarp_latch (k : Block) (w : Nat) (f : Warp → Warp) : (k.modWarp w f).latch = k.latch := rfl
@[simp] theorem Block.modWarp_aFifo (k : Block) (w : Nat) (f : Warp → Warp) : (k.modWarp w f).aFifo = k.aFifo := rfl
@[simp] theorem Block.modWarp_wFifo (k : Block) (w : Nat) (f : Warp → Warp) : (k.modWarp w f).wFifo = k.wFifo := rfl
@[simp] theorem Block.modWarp_savedAt (k : Block) (w : Nat) (f : Warp → Warp) : (k.modWarp w f).savedAt = k.savedAt := rfl
@[simp] theorem Block.modWarp_recorded (k : Block) (w : Nat) (f : Warp → Warp) : (k.modWarp w f).recorded = k.recorded := rfl
@[simp] theorem Block.modWarp_cards (k : Block) (w : Nat) (f : Warp → Warp) : (k.modWarp w f).cards = k.cards := rfl
@[simp] theorem Block.modWarp_warps (k : Block) (w : Nat) (f : Warp → Warp) : (k.modWarp w f).warps = k.warps.modify w f := rfl

@[simp] theorem Warp.modLane_slot (w : Warp) (i : Nat) (f : Lane → Lane) : (w.modLane i f).slot = w.slot := rfl
@[simp] theorem Warp.modLane_ctxIdx (w : Warp) (i : Nat) (f : Lane → Lane) : (w.modLane i f).ctxIdx = w.ctxIdx := rfl
@[simp] theorem Warp.modLane_ctxIdx2 (w : Warp) (i : Nat) (f : Lane → Lane) : (w.modLane i f).ctxIdx2 = w.ctxIdx2 := rfl
@[simp] theorem Warp.modLane_active (w : Warp) (i : Nat) (f : Lane → Lane) : (w.modLane i f).active = w.active := rfl
@[simp] theorem Warp.modLane_ready (w : Warp) (i : Nat) (f : Lane → Lane) : (w.modLane i f).ready = w.ready := rfl
@[simp] theorem Warp.modLane_s (w : Warp) (i : Nat) (f : Lane → Lane) : (w.modLane i f).s = w.s := rfl
@[simp] theorem Warp.modLane_flags (w : Warp) (i : Nat) (f : Lane → Lane) : (w.modLane i f).flags = w.flags := rfl
@[simp] theorem Warp.modLane_entries (w : Warp) (i : Nat) (f : Lane → Lane) : (w.modLane i f).entries = w.entries := rfl
@[simp] theorem Warp.modLane_predCnt (w : Warp) (i : Nat) (f : Lane → Lane) : (w.modLane i f).predCnt = w.predCnt := rfl
@[simp] theorem Warp.modLane_mispCnt (w : Warp) (i : Nat) (f : Lane → Lane) : (w.modLane i f).mispCnt = w.mispCnt := rfl
@[simp] theorem Warp.modLane_replCnt (w : Warp) (i : Nat) (f : Lane → Lane) : (w.modLane i f).replCnt = w.replCnt := rfl
@[simp] theorem Warp.modLane_fuseCnt (w : Warp) (i : Nat) (f : Lane → Lane) : (w.modLane i f).fuseCnt = w.fuseCnt := rfl
@[simp] theorem Warp.modLane_splitCnt (w : Warp) (i : Nat) (f : Lane → Lane) : (w.modLane i f).splitCnt = w.splitCnt := rfl
@[simp] theorem Warp.modLane_parkCnt (w : Warp) (i : Nat) (f : Lane → Lane) : (w.modLane i f).parkCnt = w.parkCnt := rfl
@[simp] theorem Warp.modLane_scont (w : Warp) (i : Nat) (f : Lane → Lane) : (w.modLane i f).scont = w.scont := rfl
@[simp] theorem Warp.modLane_snest (w : Warp) (i : Nat) (f : Lane → Lane) : (w.modLane i f).snest = w.snest := rfl
@[simp] theorem Warp.modLane_quota (w : Warp) (i : Nat) (f : Lane → Lane) : (w.modLane i f).quota = w.quota := rfl
@[simp] theorem Warp.modLane_loaned (w : Warp) (i : Nat) (f : Lane → Lane) : (w.modLane i f).loaned = w.loaned := rfl
@[simp] theorem Warp.modLane_held (w : Warp) (i : Nat) (f : Lane → Lane) : (w.modLane i f).held = w.held := rfl
@[simp] theorem Warp.modLane_region (w : Warp) (i : Nat) (f : Lane → Lane) : (w.modLane i f).region = w.region := rfl
@[simp] theorem Warp.modLane_ending (w : Warp) (i : Nat) (f : Lane → Lane) : (w.modLane i f).ending = w.ending := rfl
@[simp] theorem Warp.modLane_stores (w : Warp) (i : Nat) (f : Lane → Lane) : (w.modLane i f).stores = w.stores := rfl
@[simp] theorem Warp.modLane_records (w : Warp) (i : Nat) (f : Lane → Lane) : (w.modLane i f).records = w.records := rfl
@[simp] theorem Warp.modLane_hist (w : Warp) (i : Nat) (f : Lane → Lane) : (w.modLane i f).hist = w.hist := rfl
@[simp] theorem Warp.modLane_pred (w : Warp) (i : Nat) (f : Lane → Lane) : (w.modLane i f).pred = w.pred := rfl
@[simp] theorem Warp.modLane_cur (w : Warp) (i : Nat) (f : Lane → Lane) : (w.modLane i f).cur = w.cur := rfl
@[simp] theorem Warp.modLane_lastIssue (w : Warp) (i : Nat) (f : Lane → Lane) : (w.modLane i f).lastIssue = w.lastIssue := rfl
@[simp] theorem Warp.modLane_issued (w : Warp) (i : Nat) (f : Lane → Lane) : (w.modLane i f).issued = w.issued := rfl
@[simp] theorem Warp.modLane_promotions (w : Warp) (i : Nat) (f : Lane → Lane) : (w.modLane i f).promotions = w.promotions := rfl
@[simp] theorem Warp.modLane_errs (w : Warp) (i : Nat) (f : Lane → Lane) : (w.modLane i f).errs = w.errs := rfl
@[simp] theorem Warp.modLane_lanes (w : Warp) (i : Nat) (f : Lane → Lane) : (w.modLane i f).lanes = w.lanes.modify i f := rfl

/-- Two changes of one element are one. -/
theorem modify_modify {α : Type} (l : List α) (i : Nat) (f g : α → α) : (l.modify i f).modify i g = l.modify i fun x => g (f x) := by
  apply List.ext_getElem?
  intro n
  simp only [List.getElem?_modify]
  cases l[n]? with
  | none => rfl
  | some a => by_cases h : i = n <;> simp [h]

/-- A change of an element depends only on its value there. -/
theorem modify_congr {α : Type} (l : List α) (i : Nat) (f g : α → α) (h : ∀ a, l[i]? = some a → f a = g a) :
    l.modify i f = l.modify i g := by
  apply List.ext_getElem?
  intro n
  simp only [List.getElem?_modify]
  cases hn : l[n]? with
  | none => rfl
  | some a =>
    by_cases hi : i = n
    · subst hi; simp [h a hn]
    · simp [hi]

/-- A warp of a state after the change of a warp. -/
theorem warp?_modWarp (s : State) (r q : WarpRef) (f : Warp → Warp) :
    (s.modWarp r f).warp? q = if q = r then (s.warp? r).map f else s.warp? q := by
  simp only [State.warp?, modWarp_blocks, List.getElem?_modify]
  by_cases hb : r.b = q.b
  · simp only [hb, if_true]
    cases hk : s.blocks[q.b]? with
    | none => by_cases h : q = r <;> simp [h]
    | some k =>
      by_cases hw : r.w = q.w
      · have : q = r := by cases q; cases r; simp_all
        simp [this]
      · have : q ≠ r := fun h => hw (by rw [h])
        simp [this, hw]
  · have : q ≠ r := fun h => hb (by rw [h])
    simp [hb, this]

/-- Two changes of one warp are one. -/
theorem modWarp_modWarp (s : State) (r : WarpRef) (f g : Warp → Warp) :
    (s.modWarp r f).modWarp r g = s.modWarp r fun w => g (f w) := by
  simp only [State.modWarp, State.modBlock, modify_modify, Block.modWarp]

/-- A change of a warp depends only on its value there. -/
theorem modWarp_congr (s : State) (r : WarpRef) (f g : Warp → Warp) (h : ∀ w, s.warp? r = some w → f w = g w) :
    s.modWarp r f = s.modWarp r g := by
  simp only [State.modWarp, State.modBlock]
  congr 1
  refine modify_congr _ _ _ _ fun k hk => ?_
  simp only [Block.modWarp]
  congr 1
  exact modify_congr _ _ _ _ fun w hw => h w (by simp [State.warp?, hk, hw])

/-- Changing a warp into what it is changes nothing. -/
theorem modWarp_self (s : State) (r : WarpRef) (w : Warp) (h : s.warp? r = some w) : s.modWarp r (fun _ => w) = s := by
  rw [modWarp_congr s r (fun _ => w) id fun w' h' => by simp_all]
  have e : ∀ k : Block, k.modWarp r.w id = k := fun k => by
    simp only [Block.modWarp]
    congr 1
    exact List.modify_id ..
  simp only [State.modWarp, State.modBlock, e]
  congr 1
  exact List.modify_id ..

/-- The warp that a word sees is the warp of the state. -/
theorem ctx?_warp {s : State} {c : Ctx} (h : s.ctx? = some c) : s.warp? c.r = some c.wp := by
  unfold State.ctx? at h
  split at h
  · cases h
  · next hb =>
    split at h
    · next hw hg =>
      split at h
      · cases h
      · split at h
        · cases h
        · cases h; simp [State.warp?, hb, hw]
    · cases h

/-- What a word sees of the state. -/
theorem ctx?_parts {s : State} {c : Ctx} (h : s.ctx? = some c) :
    c.r = s.turn ∧ s.blocks[c.r.b]? = some c.blk ∧ c.blk.warps[c.r.w]? = some c.wp ∧ s.grids[c.blk.grid]? = some c.grid ∧
    c.kern = c.grid.kernel ∧ c.wp.cur = some c.cur ∧ c.wp.entries[c.cur.e]? = some c.ent := by
  unfold State.ctx? at h
  split at h
  · cases h
  · next hb =>
    split at h
    · next hw hg =>
      split at h
      · cases h
      · next hc =>
        split at h
        · cases h
        · next he => cases h; exact ⟨rfl, hb, hw, hg, rfl, hc, he⟩
    · cases h

end Sys2Proof.Machine
end

