-- ==== Sys2Proof/Laws/Lanes.lean ====
section
/-! SUPPORT. Lanes: writes of registers and predicates, a change over a list of lanes, the lanes of a mask and of a word, and what a computing
word does to its warp. -/

namespace Sys2Proof.Machine

open Sys2Proof

/-! ## Writes in a lane -/

/-- A register write changes the registers alone. -/
theorem Lane.setVs_eq (l : Lane) (n : Nat) (xs : List PW) : l.setVs n xs = { l with v := (l.setVs n xs).v } := by
  induction xs generalizing l n with
  | nil => rfl
  | cons x xs ih => rw [Lane.setVs, ih]; rfl

/-- Register writes read the registers alone. -/
theorem Lane.setVs_v_congr (l m : Lane) (n : Nat) (xs : List PW) (h : l.v = m.v) : (l.setVs n xs).v = (m.setVs n xs).v := by
  induction xs generalizing l m n with
  | nil => exact h
  | cons x xs ih => exact ih _ _ _ (by simp [Lane.setV, h])

/-- A predicate write changes the predicates alone. -/
theorem Lane.setPred_eq (l : Lane) (p : BitVec 3) (x : PB) : l.setPred p x = { l with p := (l.setPred p x).p } := by
  unfold Lane.setPred; split <;> rfl

/-- Predicate writes change the predicates alone. -/
theorem Lane.setPreds_eq (l : Lane) (ps : List (BitVec 3 × PB)) : l.setPreds ps = { l with p := (l.setPreds ps).p } := by
  induction ps generalizing l with
  | nil => rfl
  | cons x xs ih => rw [Lane.setPreds, ih, Lane.setPred_eq]

/-- The poisoned predicates of a helper lane. -/
theorem Lane.spoilPreds (l : Lane) (ps : List (BitVec 3 × PB)) :
    ps.foldl (fun l p => l.setPred p.1 { val := false, poison := true }) l =
      l.setPreds (ps.map fun p => (p.1, { val := false, poison := true })) := by
  induction ps generalizing l with
  | nil => rfl
  | cons x xs ih => exact ih _

/-- A lane that raises no FP_EXCEPTION receives its result. -/
theorem Lane.compute_calm (l : Lane) (nf helper : Bool) (d : Option Nat) (x : LaneRes) (h : raises nf x.fl l.fpctl = false) :
    l.compute nf helper d x = l.given d (!nf && !helper) x := by
  unfold Lane.compute Lane.given
  simp only [h, Bool.false_eq_true, if_false]
  have p1 := Lane.setPreds_eq l x.preds
  cases d with
  | none => unfold Lane.orFlags; rw [p1]; cases nf <;> cases helper <;> rfl
  | some n =>
    dsimp only
    rw [Lane.setVs_eq]
    have hv : (((l.setPreds x.preds).orFlags nf helper x.fl).setVs n x.words).v = (l.setVs n x.words).v := by
      apply Lane.setVs_v_congr
      unfold Lane.orFlags
      rw [p1]
      split <;> rfl
    rw [hv]
    unfold Lane.orFlags
    rw [p1]
    cases nf <;> cases helper <;> rfl

/-- What a helper lane receives. -/
theorem Lane.compute_helper (l : Lane) (nf : Bool) (d : Option Nat) (x : LaneRes) :
    l.compute nf true d x = l.given d false (if raises nf x.fl l.fpctl then x.spoil else x) := by
  by_cases h : raises nf x.fl l.fpctl = true
  · unfold Lane.compute Lane.given LaneRes.spoil
    simp only [h, if_true, Lane.spoilPreds]
    rw [Lane.setPreds_eq l]
    cases d with
    | none => rfl
    | some n =>
      dsimp only
      rw [Lane.setVs_eq]
      congr 1
      exact Lane.setVs_v_congr _ _ _ _ rfl
  · have h : raises nf x.fl l.fpctl = false := by simpa using h
    rw [Lane.compute_calm l nf true d x h]
    simp [h]

/-! ## A change over a list of lanes -/

/-- Every other field of the warp stays. -/
theorem Warp.mapLanes_eq (wp : Warp) (ls : List Nat) (f : Nat → Lane → Lane) :
    wp.mapLanes ls f = { wp with lanes := (wp.mapLanes ls f).lanes } := by
  induction ls generalizing wp with
  | nil => rfl
  | cons i is ih => unfold Warp.mapLanes at *; rw [List.foldl_cons, ih]; rfl

/-- Each lane of the list is changed once, and no other. -/
theorem Warp.mapLanes_get (wp : Warp) (ls : List Nat) (f : Nat → Lane → Lane) (hn : ls.Nodup) (k : Nat) :
    (wp.mapLanes ls f).lanes[k]? = (wp.lanes[k]?).map fun l => if k ∈ ls then f k l else l := by
  induction ls generalizing wp with
  | nil => simp [Warp.mapLanes]
  | cons i is ih =>
    obtain ⟨hi, hn⟩ := List.nodup_cons.mp hn
    have e : wp.mapLanes (i :: is) f = (wp.modLane i (f i)).mapLanes is f := rfl
    rw [e, ih _ hn, Warp.modLane_lanes, List.getElem?_modify]
    cases wp.lanes[k]? with
    | none => rfl
    | some l =>
      by_cases h : i = k
      · subst h; simp [hi]
      · have h2 : k ≠ i := fun e => h e.symm
        simp [h, h2]

/-- The number of lanes stays. -/
theorem Warp.mapLanes_length (wp : Warp) (ls : List Nat) (f : Nat → Lane → Lane) :
    (wp.mapLanes ls f).lanes.length = wp.lanes.length := by
  induction ls generalizing wp with
  | nil => rfl
  | cons i is ih => unfold Warp.mapLanes at *; rw [List.foldl_cons, ih]; simp

@[simp] theorem Warp.mapLanes_rest (wp : Warp) (ls : List Nat) (f : Nat → Lane → Lane) : (wp.mapLanes ls f).rest = wp.rest := by
  rw [Warp.mapLanes_eq]; rfl

@[simp] theorem Warp.mapLanes_s (wp : Warp) (ls : List Nat) (f : Nat → Lane → Lane) : (wp.mapLanes ls f).s = wp.s := by
  rw [Warp.mapLanes_eq]

@[simp] theorem Warp.mapLanes_entries (wp : Warp) (ls : List Nat) (f : Nat → Lane → Lane) : (wp.mapLanes ls f).entries = wp.entries := by
  rw [Warp.mapLanes_eq]

@[simp] theorem Warp.mapLanes_cur (wp : Warp) (ls : List Nat) (f : Nat → Lane → Lane) : (wp.mapLanes ls f).cur = wp.cur := by
  rw [Warp.mapLanes_eq]

/-- A write of s-registers changes them alone. -/
theorem Warp.setSs_eq (wp : Warp) (n : Nat) (xs : List PW) : wp.setSs n xs = { wp with s := (wp.setSs n xs).s } := by
  induction xs generalizing wp n with
  | nil => rfl
  | cons x xs ih => rw [Warp.setSs, ih]

/-- A write of s-registers reads them alone. -/
theorem Warp.setSs_s_congr (v w : Warp) (n : Nat) (xs : List PW) (h : v.s = w.s) : (v.setSs n xs).s = (w.setSs n xs).s := by
  induction xs generalizing v w n with
  | nil => exact h
  | cons x xs ih => exact ih _ _ _ (by simp [h])

@[simp] theorem Warp.setSs_rest (wp : Warp) (n : Nat) (xs : List PW) : (wp.setSs n xs).rest = wp.rest := by
  rw [Warp.setSs_eq]; rfl

@[simp] theorem Warp.setSs_lanes (wp : Warp) (n : Nat) (xs : List PW) : (wp.setSs n xs).lanes = wp.lanes := by rw [Warp.setSs_eq]

@[simp] theorem Warp.setSs_entries (wp : Warp) (n : Nat) (xs : List PW) : (wp.setSs n xs).entries = wp.entries := by rw [Warp.setSs_eq]

@[simp] theorem Warp.setSs_cur (wp : Warp) (n : Nat) (xs : List PW) : (wp.setSs n xs).cur = wp.cur := by rw [Warp.setSs_eq]

/-! ## The lanes of a word -/

theorem mem_lanesOf (m : LaneMask) (i : Nat) : i ∈ lanesOf m ↔ i < 64 ∧ m.getLsbD i = true := by simp [lanesOf]

theorem lanesOf_nodup (m : LaneMask) : (lanesOf m).Nodup := List.nodup_range.filter _

theorem active_nodup (c : Ctx) (g : Guard) : (c.active g).Nodup := ((lanesOf_nodup _).filter _).filter _

theorem helpers_nodup (c : Ctx) : c.helpers.Nodup := by
  unfold Ctx.helpers; split
  · exact List.nodup_range.filter _
  · exact List.nodup_nil

/-- Active lanes are lanes of the entry. -/
theorem active_entry {c : Ctx} {g : Guard} {l : Nat} (h : l ∈ c.active g) : l < 64 ∧ c.ent.mask.getLsbD l = true := by
  have h2 : l ∈ lanesOf c.ent.mask := by
    unfold Ctx.active Ctx.selected at h
    exact List.mem_of_mem_filter (List.mem_of_mem_filter h)
  exact (mem_lanesOf _ _).mp h2

/-- No helper lane is active. -/
theorem helper_not_active {c : Ctx} {g : Guard} {l : Nat} (h : l ∈ c.helpers) : l ∉ c.active g := by
  intro ha
  have := (active_entry ha).2
  unfold Ctx.helpers at h
  split at h
  · have := (List.mem_filter.mp h).2; simp_all
  · cases h

/-- The bits of a mask of a list. -/
theorem maskOf_bit (l : List Nat) (i : Nat) (hi : i < 64) : (maskOf l).getLsbD i = decide (i ∈ l) := by
  have gen : ∀ (l : List Nat) (m : LaneMask),
      (l.foldl (fun m i => m ||| ((1 : LaneMask) <<< i)) m).getLsbD i = (m.getLsbD i || decide (i ∈ l)) := by
    intro l
    induction l with
    | nil => intro m; simp
    | cons a as ih =>
      intro m
      rw [List.foldl_cons, ih]
      simp only [BitVec.getLsbD_or, BitVec.getLsbD_shiftLeft, List.mem_cons]
      have : ((1 : LaneMask).getLsbD (i - a)) = decide (i - a = 0) := by
        have h1 : (1 : LaneMask) = BitVec.twoPow 64 0 := by decide
        rw [h1, BitVec.getLsbD_twoPow]
        by_cases h : i - a = 0 <;> simp [h, eq_comm]
      rw [this]
      by_cases h1 : i = a
      · subst h1; simp [hi]
      · by_cases h2 : i < a
        · simp [h1, h2, hi]
        · have h3 : ¬ i - a = 0 := by omega
          simp [h1, h2, hi, h3]
  unfold maskOf
  rw [gen]
  simp

/-! ## A computing word -/

/-- A lane as the warp has it, at a place that exists. -/
theorem lane_of_get {wp : Warp} {i : Nat} {l : Lane} (h : wp.lanes[i]? = some l) : wp.lane i = l := by
  simp [Warp.lane, nth, h]

/-- No active lane traps when none raises an enabled flag. -/
theorem fpTraps_calm (wp : Warp) (nf : Bool) (ls : List Nat) (f : Nat → LaneRes)
    (h : ∀ l ∈ ls, raises nf (f l).fl (wp.lane l).fpctl = false) : wp.fpTraps nf ls f = [] := by
  unfold Warp.fpTraps
  rw [List.filterMap_eq_nil_iff]
  intro l hl
  simp [h l hl]

/-- Words without flags never raise. -/
theorem raises_zero (nf : Bool) (en : FpFlags) : raises nf 0 en = false := by simp [raises]

/-- What a computing word does to its warp: active lanes receive their results, helper lanes theirs, a scalar destination that of the first
active lane, and nothing else changes. -/
structure Computes (wp w : Warp) (nf : Bool) (d : Option Reg) (act hl : List Nat) (f : Nat → LaneRes) : Prop where
  rest    : w.rest = wp.rest
  entries : w.entries = wp.entries
  cur     : w.cur = wp.cur
  active  : ∀ l ∈ act, LaneIs wp w l fun x => x.given (vectorDest d) (!nf) (f l)
  helpers : ∀ l ∈ hl, LaneIs wp w l fun x => x.given (vectorDest d) false (if raises nf (f l).fl x.fpctl then (f l).spoil else f l)
  others  : ∀ l, l ∉ act → l ∉ hl → w.lanes[l]? = wp.lanes[l]?
  scalars : w.s = scalarsAfter wp d (f (scalarLane act fun l => (f l).words)).words

/-- A result retires no lane. -/
@[simp] theorem Lane.given_retired (l : Lane) (d : Option Nat) (b : Bool) (x : LaneRes) : (l.given d b x).retired = l.retired := rfl

/-- The retired lanes depend on the retired bits alone. -/
theorem retiredMask_congr (v w : Warp) (h : ∀ k : Nat, (w.lanes[k]?).map Lane.retired = (v.lanes[k]?).map Lane.retired) :
    w.retiredMask = v.retiredMask := by
  have e : w.lanes.map Lane.retired = v.lanes.map Lane.retired := by
    apply List.ext_getElem?; intro k; simpa using h k
  have hl : w.lanes.length = v.lanes.length := by simpa using congrArg List.length e
  unfold Warp.retiredMask
  rw [hl]
  congr 1
  apply List.filter_congr
  intro i hi
  have hi : i < v.lanes.length := by simpa using hi
  have h2 := h i
  rw [List.getElem?_eq_getElem hi, List.getElem?_eq_getElem (hl ▸ hi)] at h2
  have h2 : (w.lanes[i]'(hl ▸ hi)).retired = v.lanes[i].retired := by simpa using h2
  simp [Warp.lane, nth, hi, hl, h2]

/-- A computing word retires no lane. -/
theorem Computes.retired {wp w : Warp} {nf : Bool} {d : Option Reg} {act hl : List Nat} {f : Nat → LaneRes}
    (h : Computes wp w nf d act hl f) : w.retiredMask = wp.retiredMask := by
  refine retiredMask_congr _ _ fun k => ?_
  by_cases h1 : k ∈ act
  · have := h.active k h1; unfold LaneIs at this; rw [this]; cases wp.lanes[k]? <;> simp
  · by_cases h2 : k ∈ hl
    · have := h.helpers k h2; unfold LaneIs at this; rw [this]
      cases wp.lanes[k]? with
      | none => rfl
      | some x => simp
    · rw [h.others k h1 h2]

/-- The lanes of a computing word: active lanes and helper lanes compute on their own registers. -/
def Warp.computeLanes (wp : Warp) (nf : Bool) (d : Option Nat) (act hl : List Nat) (f : Nat → LaneRes) : Warp :=
  (wp.mapLanes act fun i l => l.compute nf false d (f i)).mapLanes hl fun i l => l.compute nf true d (f i)

/-- The lanes of a word without a scalar destination. -/
theorem compute_lanes (wp : Warp) (nf : Bool) (d : Option Reg) (act hl : List Nat) (f : Nat → LaneRes) (ws : List PW) (ha : act.Nodup)
    (hh : hl.Nodup) (hd : ∀ l ∈ hl, l ∉ act) (calm : ∀ l ∈ act, raises nf (f l).fl (wp.lane l).fpctl = false)
    (hws : ws = scalarsAfter wp d (f (scalarLane act fun l => (f l).words)).words) :
    Computes wp { wp.computeLanes nf (vectorDest d) act hl f with s := ws } nf d act hl f := by
  have get : ∀ k, (wp.computeLanes nf (vectorDest d) act hl f).lanes[k]? = (wp.lanes[k]?).map fun l =>
        if k ∈ hl then (if k ∈ act then l.compute nf false (vectorDest d) (f k) else l).compute nf true (vectorDest d) (f k)
        else if k ∈ act then l.compute nf false (vectorDest d) (f k) else l := by
    intro k
    rw [Warp.computeLanes, Warp.mapLanes_get _ _ _ hh, Warp.mapLanes_get _ _ _ ha]
    cases wp.lanes[k]? <;> simp
  have hr : (wp.computeLanes nf (vectorDest d) act hl f).rest = wp.rest := by simp [Warp.computeLanes]
  refine ⟨by simpa [Warp.rest] using hr, by simp [Warp.computeLanes], by simp [Warp.computeLanes], fun l h => ?_, fun l h => ?_,
    fun l h1 h2 => ?_, hws⟩
  · have hx : l ∉ hl := fun hm => hd l hm h
    unfold LaneIs
    rw [get]
    cases hw : wp.lanes[l]? with
    | none => rfl
    | some x =>
      have := calm l h
      rw [lane_of_get hw] at this
      simp [h, hx, Lane.compute_calm x nf false _ (f l) this]
  · have hx := hd l h
    unfold LaneIs
    rw [get]
    cases wp.lanes[l]? <;> simp [h, hx, Lane.compute_helper]
  · dsimp only
    rw [get]
    cases wp.lanes[l]? <;> simp [h1, h2]

/-- What a computing word does when no active lane raises an enabled flag. -/
theorem compute_spec (wp : Warp) (nf : Bool) (d : Option Reg) (act hl : List Nat) (f : Nat → LaneRes) (ha : act.Nodup) (hh : hl.Nodup)
    (hd : ∀ l ∈ hl, l ∉ act) (hne : act ≠ []) (calm : ∀ l ∈ act, raises nf (f l).fl (wp.lane l).fpctl = false) :
    Computes wp (wp.compute nf d false act hl f) nf d act hl f := by
  have key : ∃ ws, wp.compute nf d false act hl f = { wp.computeLanes nf (vectorDest d) act hl f with s := ws } ∧
      ws = scalarsAfter wp d (f (scalarLane act fun l => (f l).words)).words := by
    cases d with
    | none => exact ⟨(wp.computeLanes nf none act hl f).s, rfl, by simp [scalarsAfter, Warp.computeLanes]⟩
    | some q =>
      by_cases hq : q.s = true
      · obtain ⟨a, as, rfl⟩ := List.exists_cons_of_ne_nil hne
        have ht : wp.fpTraps nf (a :: as) f = [] := fpTraps_calm wp nf _ f calm
        refine ⟨_, ?_, rfl⟩
        have e : wp.compute nf (some q) false (a :: as) hl f = (wp.computeLanes nf none (a :: as) hl f).setSs q.n.toNat
            (f (scalarLane (a :: as) fun l => (f l).words)).words := by
          simp [Warp.compute, hq, ht, Warp.scalarWords, Warp.computeLanes]
        rw [e, Warp.setSs_eq]
        simp only [vectorDest, scalarsAfter, hq, if_true]
        congr 1
        exact Warp.setSs_s_congr _ _ _ _ (by simp [Warp.computeLanes])
      · have hq : q.s = false := by simpa using hq
        refine ⟨(wp.computeLanes nf (some q.n.toNat) act hl f).s, ?_, by simp [scalarsAfter, hq, Warp.computeLanes]⟩
        have e : wp.compute nf (some q) false act hl f = wp.computeLanes nf (some q.n.toNat) act hl f := by
          simp [Warp.compute, hq, Warp.computeLanes]
        rw [e]
        simp [vectorDest, hq]
  obtain ⟨ws, e, h⟩ := key
  rw [e]
  exact compute_lanes wp nf d act hl f ws ha hh hd calm h

end Sys2Proof.Machine
end

