-- ==== Sys2Proof/Laws/Word.lean ====
section
/-! SUPPORT. The pipeline of a word: the end of a word for its entry, a word that issues normally, and a computing word. -/

namespace Sys2Proof.Machine

open Sys2Proof

/-! ## The end of a word -/

theorem ageless_ageEntry (p : Nat) (e : Entry) : (ageEntry p e).ageless = e.ageless := by
  unfold ageEntry Entry.promote
  split <;> [split <;> rfl; rfl]

theorem age_get (wp : Warp) (e k : Nat) :
    (wp.age e).entries[k]? = (wp.entries[k]?).map fun x => if k = e then x else ageEntry wp.promotions x := by
  simp only [Warp.age, List.getElem?_map, List.getElem?_zipIdx, Option.map_map]
  cases wp.entries[k]? <;> simp

theorem age_length (wp : Warp) (e : Nat) : (wp.age e).entries.length = wp.entries.length := by simp [Warp.age]

/-- Everything the end of a word does to its warp. -/
theorem finish_spec (c : Ctx) (wp : Warp) (now : Nat) (traps : List LaneTrap) (leaves : List Leave)
    (hc : wp.cur = some c.cur) (he : wp.entries[c.cur.e]? = some c.ent) :
    (wp.finish now traps leaves).rest = wp.rest ∧ (wp.finish now traps leaves).lanes = wp.lanes ∧
    (wp.finish now traps leaves).s = wp.s ∧ (wp.finish now traps leaves).lastIssue = now ∧
    Parts c now wp (wp.finish now traps leaves) traps leaves := by
  have hlt : c.cur.e < wp.entries.length := by
    rcases Nat.lt_or_ge c.cur.e wp.entries.length with h | h
    · exact h
    · rw [List.getElem?_eq_none h] at he; cases he
  unfold Warp.finish
  simp only [hc, he]
  refine ⟨rfl, rfl, rfl, trivial, ?_, ?_, ?_⟩
  · dsimp only
    rw [List.append_assoc, List.getElem?_append_left (by simpa [age_length] using hlt), List.getElem?_modify, age_get, he]
    simp [partedMask]
  · intro k hk hne
    dsimp only
    rw [List.append_assoc, List.getElem?_append_left (by simpa [age_length] using hk), List.getElem?_modify, age_get]
    have h2 : ¬ c.cur.e = k := fun h => hne h.symm
    cases wp.entries[k]? with
    | none => rfl
    | some x => simp [hne, h2, ageless_ageEntry]
  · dsimp only
    rw [List.append_assoc, List.drop_append_of_le_length (by simp [age_length])]
    rw [List.drop_eq_nil_of_le (by simp [age_length])]
    rfl

/-- A word without traps and leaves goes on as a whole. -/
theorem Parts.goesOn {c : Ctx} {now : Nat} {v w : Warp} (h : Parts c now v w [] []) : GoesOn c v w := by
  have h0 : maskOf [] = 0 := rfl
  constructor
  · rw [h.entry]; simp [partedMask, h0]
  · intro k hk
    by_cases hl : k < v.entries.length
    · exact h.others k hl hk
    · have hl : v.entries.length ≤ k := Nat.le_of_not_lt hl
      have hd : w.entries.drop v.entries.length = [] := by rw [h.parted]; simp [partedOff, h0]
      have hw : w.entries.length ≤ k := Nat.le_trans (List.drop_eq_nil_iff.mp hd) hl
      rw [List.getElem?_eq_none hl, List.getElem?_eq_none hw]

/-- The freeze trigger of trap codes does nothing without a trap. -/
theorem freezeOn_nil (s : State) : s.freezeOn [] = s := by simp [State.freezeOn]

/-! ## A word that issues -/

/-- A word that issues normally runs its body over the active and the helper lanes. -/
theorem issueWord_runs {s : State} {c : Ctx} {i : Instr} (h : Issues s c i) (body : State → Ctx → List Nat → List Nat → Body) :
    issueWord (opcodeOf i) i (guardOf i) body s = .next ((body s c (c.lanesFor i) c.helpers).end c.r []) := by
  unfold issueWord
  simp only [h.ctx]
  have hw : (wideWait (opcodeOf i)).filter (fun w => !c.together w) = none := by
    cases hh : wideWait (opcodeOf i) with
    | none => rfl
    | some w => simp [h.wide w hh]
  have hi : c.idle (opcodeOf i) (guardOf i) = false := by
    have := h.active
    simp only [Ctx.idle, Bool.and_eq_false_iff]
    left
    simpa [List.isEmpty_iff] using this
  simp only [hw, h.guard, hi, h.decode, List.map_nil]
  rfl

/-- The body of a word that only changes the issuing warp and ends with no trap. -/
theorem done_warp {s : State} {c : Ctx} (h : s.ctx? = some c) (f : Warp → Warp) (traps : List LaneTrap) (leaves : List Leave)
    (hc : (f c.wp).cur = some c.cur) (he : (f c.wp).entries[c.cur.e]? = some c.ent) :
    ∃ w, (Body.done (s.modWarp c.r f) traps leaves).end c.r [] = (s.modWarp c.r fun _ => w).freezeOn traps ∧
      w.rest = (f c.wp).rest ∧ w.lanes = (f c.wp).lanes ∧ w.s = (f c.wp).s ∧ w.lastIssue = s.cycle ∧
      Parts c s.cycle (f c.wp) w traps leaves := by
  obtain ⟨h1, h2, h3, h4, h5⟩ := finish_spec c (f c.wp) s.cycle traps leaves hc he
  refine ⟨_, ?_, h1, h2, h3, h4, h5⟩
  simp only [Body.end, State.finish, List.nil_append, modWarp_modWarp, modWarp_cycle]
  congr 1
  exact modWarp_congr s c.r _ _ fun w hw => by rw [ctx?_warp h] at hw; cases hw; rfl

/-- A computing word that issues normally and raises no enabled flag gives its results. -/
theorem computeWord_gives {s : State} {c : Ctx} {i : Instr} (h : Issues s c i) (nf : Bool) (d : Option Reg) (f : Ctx → Nat → LaneRes)
    (calm : Calm c i nf (f c)) :
    ∃ t w, computeWord (opcodeOf i) i (guardOf i) nf d f s = .next t ∧ Computed s t c i d nf (f c) w := by
  obtain ⟨-, -, -, -, -, hcur, hent⟩ := ctx?_parts h.ctx
  have sp : c.spoiled (guardOf i) = false := by simp [Ctx.spoiled, h.guard]
  have cs := compute_spec c.wp nf d (c.lanesFor i) c.helpers (f c) (active_nodup _ _) (helpers_nodup _)
    (fun l hl => helper_not_active hl) h.active calm
  obtain ⟨w, e, hr, hl, hs, hi, hp⟩ := done_warp h.ctx (fun w => w.compute nf d (c.spoiled (guardOf i)) (c.lanesFor i) c.helpers (f c))
    (c.wp.fpTraps nf (c.lanesFor i) (f c)) [] (by rw [sp, cs.cur, hcur]) (by rw [sp, cs.entries, hent])
  rw [fpTraps_calm c.wp nf _ _ calm] at e hp
  rw [freezeOn_nil] at e
  rw [sp] at hr hl hs hp
  refine ⟨s.modWarp c.r fun _ => w, w, ?_, ⟨rfl, by rw [hr, cs.rest], hi⟩, ?_, ?_, ?_, ?_, ?_⟩
  · unfold computeWord
    rw [issueWord_runs h, fpTraps_calm c.wp nf _ _ calm, e]
  · have hg := hp.goesOn
    exact ⟨by rw [hg.entry, cs.retired], fun k hk => by rw [hg.others k hk, cs.entries]⟩
  · exact fun l hl1 => by have := cs.active l hl1; unfold LaneIs at *; rw [hl, this]
  · exact fun l hl1 => by have := cs.helpers l hl1; unfold LaneIs at *; rw [hl, this]
  · exact fun l h1 h2 => by rw [hl, cs.others l h1 h2]
  · rw [hs, cs.scalars]; rfl

/-- A word whose meaning is a computing word gives the results its lanes compute. -/
theorem gives_of {s : State} {c : Ctx} {i : Instr} {nf : Bool} {d : Option Reg} {r : Nat → LaneRes} (h : Issues s c i)
    (f : Ctx → Nat → LaneRes) (he : exec i s = computeWord (opcodeOf i) i (guardOf i) nf d f s) (calm : Calm c i nf r) (hr : f c = r) :
    Gives s c i d nf r := by
  subst hr
  obtain ⟨t, w, e, hc⟩ := computeWord_gives h nf d f calm
  exact ⟨t, w, by rw [he, e], hc⟩

/-- Words without flags are calm. -/
theorem calm_of_zero {c : Ctx} {i : Instr} {nf : Bool} {r : Nat → LaneRes} (h : ∀ l, (r l).fl = 0) : Calm c i nf r := fun l _ => by
  rw [h l]; exact raises_zero _ _

/-- A word whose body only changes the issuing warp's lanes and s-registers, and retires no lane, edits it. -/
theorem edits_of_done {s : State} {c : Ctx} {i : Instr} {body : State → Ctx → List Nat → List Nat → Body} {f : Nat → Lane → Lane}
    {ss : List PW} (h : Issues s c i) (g : Warp → Warp) (he : exec i s = issueWord (opcodeOf i) i (guardOf i) body s)
    (hb : body s c (c.lanesFor i) c.helpers = .done (s.modWarp c.r g) [] [])
    (hrest : (g c.wp).rest = c.wp.rest) (hent : (g c.wp).entries = c.wp.entries) (hcur : (g c.wp).cur = c.wp.cur)
    (hl : ∀ l, LaneIs c.wp (g c.wp) l (f l)) (hs : (g c.wp).s = ss) (hr : ∀ l x, (f l x).retired = x.retired) :
    Edits s c i f ss := by
  obtain ⟨-, -, -, -, -, pcur, pent⟩ := ctx?_parts h.ctx
  obtain ⟨w, e, h1, h2, h3, h4, h5⟩ := done_warp h.ctx g [] [] (by rw [hcur, pcur]) (by rw [hent, pent])
  rw [freezeOn_nil] at e
  have hg := h5.goesOn
  have hret : (g c.wp).retiredMask = c.wp.retiredMask := retiredMask_congr _ _ fun k => by
    have := hl k
    unfold LaneIs at this
    rw [this]
    cases c.wp.lanes[k]? <;> simp [hr]
  refine ⟨s.modWarp c.r fun _ => w, w, ?_, ⟨rfl, by rw [h1, hrest], h4⟩, ?_, fun l => ?_, by rw [h3, hs]⟩
  · rw [he, issueWord_runs h, hb, e]
  · exact ⟨by rw [hg.entry, hret], fun k hk => by rw [hg.others k hk, hent]⟩
  · have := hl l
    unfold LaneIs at *
    rw [h2, this]

/-- The origin a lane takes with a moved value (05 R112). -/
theorem takeOrigin_eq (l : Lane) (o : Option VAddr) : l.takeOrigin o = { l with origin := l.origin.or o } := by
  cases l with
  | mk v p fl fc cy tf org sp st bi re ha lp => cases org <;> rfl

/-- A cross-lane word that issues normally, none of whose lanes raises an enabled flag. -/
theorem crosses_of {s : State} {c : Ctx} {i : Instr} {nf : Bool} {d : Option Reg} {r : Nat → LaneRes} {org : Nat → Option VAddr}
    (h : Issues s c i) (f : Ctx → List Nat → Nat → CrossRes) (he : exec i s = crossWord (opcodeOf i) i (guardOf i) nf d f s)
    (calm : Calm c i nf r) (hr : ∀ l, f c (c.lanesFor i) l = { res := r l, origin := org l }) : Crosses s c i d nf r org := by
  have hn : (c.lanesFor i).Nodup := active_nodup _ _
  have cs := compute_spec c.wp nf d (c.lanesFor i) [] r hn List.nodup_nil (fun l hl => by cases hl) h.active calm
  have sp : c.spoiled (guardOf i) = false := by simp [Ctx.spoiled, h.guard]
  have ol : originLanes c.wp nf d (c.lanesFor i) r = if scalarDest d then [] else c.lanesFor i := by
    have e : (d.map fun x : Reg => x.s).getD false = scalarDest d := by cases d <;> rfl
    unfold originLanes
    rw [e]
    split
    · rfl
    · rw [List.filter_eq_self]; intro l hl; simp [calm l hl]
  have on : (originLanes c.wp nf d (c.lanesFor i) r).Nodup := by rw [ol]; split <;> [exact List.nodup_nil; exact hn]
  refine edits_of_done h
    (fun w => (w.compute nf d (c.spoiled (guardOf i)) (c.lanesFor i) [] r).mapLanes (originLanes w nf d (c.lanesFor i) r)
      fun l x => x.takeOrigin (org l)) he ?_ ?_ ?_ ?_ (fun l => ?_) ?_ (fun l x => ?_)
  · simp only [hr, fpTraps_calm c.wp nf _ r calm]
  · rw [sp, Warp.mapLanes_rest, cs.rest]
  · rw [sp, Warp.mapLanes_entries, cs.entries]
  · rw [sp, Warp.mapLanes_cur, cs.cur]
  · unfold LaneIs
    rw [sp, Warp.mapLanes_get _ _ _ on, ol]
    by_cases hm : l ∈ c.lanesFor i
    · have := cs.active l hm
      unfold LaneIs at this
      rw [this]
      simp only [Option.map_map]
      congr 1
      funext x
      by_cases hs : scalarDest d = true <;> simp [hs, hm, takeOrigin_eq, Lane.given]
    · rw [cs.others l hm (by simp)]
      by_cases hs : scalarDest d = true <;> simp [hs, hm]
  · rw [sp, Warp.mapLanes_s, cs.scalars]; rfl
  · dsimp only; split <;> rfl

end Sys2Proof.Machine
end

