-- ==== Sys2Proof/Laws/Keep.lean ====
section
/-! SUPPORT. What the shared operations keep: the invariant of the state under each of them, the state under translation, and a word whose body is
done. -/

namespace Sys2Proof.Machine

open Sys2Proof

/-! ## The invariant reads few fields -/

/-- A change that leaves the memories, the ranged registers and the fuses keeps the invariant. -/
theorem Inv.congr {s t : State} (h : Inv s) (hm : t.mem = s.mem) (hb : t.blocks = s.blocks) (hg : t.grids = s.grids) (hd : t.dies = s.dies)
    (hs : t.mstat = s.mstat) (hp : t.parts = s.parts) (hf : t.fuses = s.fuses) : Inv t := by
  constructor
  · rw [hm]; exact h.mem
  · rw [hb]; exact h.scratch
  · rw [hg]; exact h.fills
  · rw [hd]; exact h.wdlim
  · rw [hs]; exact h.lto
  · rw [hs]; exact h.fclk
  · rw [hs]; exact h.boot
  · rw [hp]; exact h.duty
  · rw [hf]; exact h.fuses

/-- A change of memory alone, to a canonical one. -/
theorem Inv.ofMem {s t : State} (h : Inv s) (hm : Memory.wf t.mem = true) (hb : t.blocks = s.blocks) (hg : t.grids = s.grids)
    (hd : t.dies = s.dies) (hs : t.mstat = s.mstat) (hp : t.parts = s.parts) (hf : t.fuses = s.fuses) : Inv t :=
  have k : Inv { t with mem := s.mem } := h.congr rfl hb hg hd hs hp hf
  ⟨hm, k.scratch, k.fills, k.wdlim, k.lto, k.fclk, k.boot, k.duty, k.fuses⟩

theorem Inv.modBlock {s : State} (h : Inv s) (b : Nat) (f : Block → Block)
    (hf : ∀ k, Memory.wf k.bytes = true → Memory.wf (f k).bytes = true) : Inv (s.modBlock b f) :=
  ⟨h.mem, modBlock_wf s b f hf h.scratch, h.fills, h.wdlim, h.lto, h.fclk, h.boot, h.duty, h.fuses⟩

theorem Inv.modWarp {s : State} (h : Inv s) (r : WarpRef) (f : Warp → Warp) : Inv (s.modWarp r f) := h.modBlock r.b _ fun _ hk => hk

theorem Inv.modCore {s : State} (h : Inv s) (c : Nat) (f : Core → Core) : Inv (s.modCore c f) := h.congr rfl rfl rfl rfl rfl rfl rfl

theorem Inv.modCtx {s : State} (h : Inv s) (c : Nat) (f : CtxInfo → CtxInfo) : Inv (s.modCtx c f) := h.congr rfl rfl rfl rfl rfl rfl rfl

/-- An element of a list changed at one place is an old element, or the change of one. -/
theorem mem_modify {α : Type} {l : List α} {n : Nat} {f : α → α} {x : α} (h : x ∈ l.modify n f) : x ∈ l ∨ ∃ y ∈ l, x = f y := by
  obtain ⟨i, hi⟩ := List.mem_iff_getElem?.1 h
  rw [List.getElem?_modify] at hi
  cases hs : l[i]? with
  | none => simp [hs] at hi
  | some y =>
    have hy := List.mem_iff_getElem?.2 ⟨i, hs⟩
    simp only [hs] at hi
    split at hi <;> simp at hi <;> subst hi <;> [exact .inr ⟨y, hy, rfl⟩; exact .inl hy]

theorem Inv.modGrid {s : State} (h : Inv s) (g : Nat) (f : Grid → Grid) (hf : ∀ k, Memory.wf k.fill = true → Memory.wf (f k).fill = true) :
    Inv (s.modGrid g f) :=
  ⟨h.mem, h.scratch, fun x hx => (mem_modify hx).elim (h.fills x) fun ⟨y, hy, e⟩ => e ▸ hf y (h.fills y hy), h.wdlim, h.lto, h.fclk, h.boot,
    h.duty, h.fuses⟩

theorem Inv.modDie {s : State} (h : Inv s) (d : Nat) (f : Die → Die)
    (hf : ∀ k, (k.wdlim = 0 ∨ (20 ≤ k.wdlim.toNat ∧ k.wdlim.toNat ≤ 40)) → ((f k).wdlim = 0 ∨ (20 ≤ (f k).wdlim.toNat ∧ (f k).wdlim.toNat ≤ 40))) :
    Inv (s.modDie d f) :=
  ⟨h.mem, h.scratch, h.fills, fun x hx => (mem_modify hx).elim (h.wdlim x) fun ⟨y, hy, e⟩ => e ▸ hf y (h.wdlim y hy), h.lto, h.fclk, h.boot,
    h.duty, h.fuses⟩

theorem Inv.mapWarps {s : State} (h : Inv s) (f : WarpRef → Warp → Warp) : Inv (s.mapWarps f) := by
  refine ⟨h.mem, fun x hx => ?_, h.fills, h.wdlim, h.lto, h.fclk, h.boot, h.duty, h.fuses⟩
  obtain ⟨⟨k, b⟩, hk, rfl⟩ := List.mem_map.1 hx
  exact h.scratch k (List.fst_mem_of_mem_zipIdx hk)

/-! ## Memory -/

theorem Inv.putBytes {s : State} (h : Inv s) (pa : Nat) (bs : List Byte) : Inv (s.putBytes pa bs) :=
  h.ofMem (putBytes_wf s pa bs h.mem) rfl rfl rfl rfl rfl rfl

theorem Inv.putLine {s : State} (h : Inv s) (pa : Nat) (en : BitVec 128) (bs : List Byte) : Inv (s.putLine pa en bs) :=
  h.ofMem (putLine_wf s pa en bs h.mem) rfl rfl rfl rfl rfl rfl

theorem Inv.setMig {s : State} (h : Inv s) (e : PAddr) (on : Bool) : Inv (s.setMig e on) :=
  h.ofMem (setMig_wf s e on h.mem) rfl rfl rfl rfl rfl rfl

theorem Inv.copyFrame {s : State} (h : Inv s) (a b n : Nat) : Inv (copyFrame s a b n) :=
  h.ofMem (copyFrame_wf s a b n h.mem) rfl rfl rfl rfl rfl rfl

theorem Inv.markLeaf {s : State} (h : Inv s) (e : Option PAddr) (w : Bool) : Inv (s.markLeaf e w) := by
  cases e <;> [exact h; exact h.ofMem (memSet_wf _ _ _ h.mem) rfl rfl rfl rfl rfl rfl]

theorem Inv.install {s : State} (h : Inv s) (v : Via) (x : Xlate) : Inv (s.install v x) := by
  have h1 : Inv (if x.bits = 0 then s else s.modCore v.core fun c => { c with tlb := (x :: c.tlb).take Config.tlbEntries }) := by
    split <;> [exact h; exact h.modCore _ _]
  unfold State.install
  dsimp only
  cases v.lane with
  | none => exact h1
  | some p => exact h1.modWarp _ _

theorem Inv.translate {s : State} (h : Inv s) (v : Via) (ctx : Nat) (va : VAddr) (acc : Access) : Inv (translate s v ctx va acc).2 := by
  unfold Machine.translate
  split
  · exact h
  · split
    · exact h
    · exact h
    · split
      · exact (h.markLeaf _ _).install _ _
      · exact h

theorem Inv.home {s : State} (h : Inv s) (v : Via) (ctx : Nat) (va : VAddr) : Inv (s.home v ctx va).2 := by
  unfold State.home
  split
  · exact h
  · split
    · exact h
    · exact h
    · exact (h.markLeaf _ _).install _ _

/-- A translation a lane or core holds leaves the state as it is (19 R342). -/
theorem translate_cached {s : State} {v : Via} {ctx : Nat} {va : VAddr} {x : Xlate} (h : s.cached v ctx va = some x) (acc : Access) :
    translate s v ctx va acc = (if x.allows acc then .ok (x.addr va) else .fail, s) := by
  unfold translate; rw [h]

theorem home_cached {s : State} {v : Via} {ctx : Nat} {va : VAddr} {x : Xlate} (h : s.cached v ctx va = some x) :
    s.home v ctx va = (.ok (x.addr va), s) := by
  unfold State.home; rw [h]

/-- A fold of changes that each keep the invariant. -/
theorem inv_foldl {α : Type} {f : State → α → State} (hf : ∀ s x, Inv s → Inv (f s x)) (l : List α) {s : State} (h : Inv s) :
    Inv (l.foldl f s) := by
  induction l generalizing s with
  | nil => exact h
  | cons x l ih => exact ih (hf s x h)

/-! ## Stores on their way -/

theorem Inv.performBy {s : State} (h : Inv s) (r : WarpRef) (p : PendStore → Bool) : Inv (s.performBy r p) := by
  unfold State.performBy
  split
  · exact h
  · split
    · exact (inv_foldl (fun s x hs => hs.putBytes x.pa x.bytes) _ h).modWarp _ _
    · exact h

theorem Inv.drain {s : State} (h : Inv s) (r : WarpRef) : Inv (s.drain r) := h.performBy r _

theorem Inv.performLine {s : State} (h : Inv s) (line : PAddr) : Inv (s.performLine line) :=
  inv_foldl (fun _ r hs => hs.performBy r _) _ h

theorem Inv.performOne {s : State} (h : Inv s) (r : WarpRef) (k : Nat) : Inv (s.performOne r k) := by
  unfold State.performOne
  split <;> [exact h; exact (h.putBytes _ _).modWarp _ _]

/-- Performing stores changes no queue of a warp without any. -/
theorem performBy_none {s : State} {r : WarpRef} {w : Warp} {p : PendStore → Bool} (hw : s.warp? r = some w) (h : w.stores.any p = false) :
    s.performBy r p = s := by
  unfold State.performBy; simp only [hw, h]; rfl

theorem drain_none {s : State} {r : WarpRef} {w : Warp} (hw : s.warp? r = some w) (h : w.stores = []) : s.drain r = s :=
  performBy_none hw (by rw [h]; rfl)

theorem Inv.shareCopy {s : State} (h : Inv s) (r : WarpRef) (home : PAddr) (f : HeldLine → HeldLine) : Inv (s.shareCopy r home f) :=
  h.mapWarps _

/-! ## Region ends -/

theorem Inv.writeBackLine {s : State} (h : Inv s) (r : WarpRef) (l : HeldLine) : Inv (writeBackLine s r l).1 := by
  unfold Machine.writeBackLine
  split
  · exact h
  · have ht := h.translate { core := s.coreOf r.b, lane := none } (s.ctxOf r.b) l.line .write
    dsimp only
    generalize Machine.translate s _ _ _ _ = p at ht ⊢
    obtain ⟨res, u⟩ := p
    cases res with
    | migrating => exact ht
    | fail => exact ht.modWarp _ _
    | ok pa =>
      dsimp only at ht ⊢
      split
      · exact ht.modWarp _ _
      · exact (ht.putLine _ _ _).modWarp _ _

theorem Inv.writeBackLines {s : State} (h : Inv s) (r : WarpRef) (ls : List HeldLine) : Inv (writeBackLines s r ls).1 := by
  induction ls generalizing s with
  | nil => exact h
  | cons l ls ih =>
    have hl := h.writeBackLine r l
    unfold Machine.writeBackLines
    generalize Machine.writeBackLine s r l = p at hl ⊢
    obtain ⟨u, wb⟩ := p
    cases wb <;> exact ih hl

theorem Inv.endRegion {s : State} (h : Inv s) (r : WarpRef) : Inv (endRegion s r).1 := by
  unfold Machine.endRegion
  split
  · exact h
  · rename_i w _
    have hl := (h.drain r).writeBackLines r w.held
    generalize Machine.writeBackLines (s.drain r) r w.held = p at hl ⊢
    obtain ⟨u, b⟩ := p
    cases b <;> exact hl.modWarp _ _

theorem Inv.endRegionLines {s : State} (h : Inv s) (r : WarpRef) (vs : List VAddr) (ps : List PAddr) : Inv (endRegionLines s r vs ps).1 := by
  unfold Machine.endRegionLines
  split
  · exact h
  · rename_i w _
    have hl := h.writeBackLines r (w.held.filter (HeldLine.among vs ps))
    dsimp only
    generalize Machine.writeBackLines s r _ = p at hl ⊢
    obtain ⟨u, b⟩ := p
    cases b <;> [exact hl.modWarp _ _; exact hl]

theorem Inv.refreshLine {s : State} (h : Inv s) (r : WarpRef) (line : PAddr) : Inv (refreshLine s r line) :=
  ((h.performLine line).modWarp _ _).shareCopy _ _ _

theorem Inv.register {s : State} (h : Inv s) (r : WarpRef) (line : PAddr) (write : Bool) : Inv (register s r line write).1 := by
  unfold Machine.register
  split
  · exact h
  · rename_i w _
    split
    · split
      · exact h
      · split
        · exact h
        · split
          · exact h
          · exact h.modWarp _ _
    · dsimp only
      generalize decide (256 ≤ w.region.length) = ends
      have he : Inv (if ends = true then Machine.endRegion s r else (s, true)).1 := by split <;> [exact h.endRegion r; exact h]
      generalize (if ends = true then Machine.endRegion s r else (s, true)) = p at he ⊢
      generalize (if ends = true then { w with region := [] } else w) = v
      obtain ⟨u, done⟩ := p
      dsimp only at he ⊢
      split
      · exact he
      · split
        · exact he
        · exact (he.modWarp _ _).refreshLine _ _

theorem Inv.ownLineFirst {s t : State} (h : Inv s) (r : WarpRef) (line : PAddr) (write now : Bool)
    (ht : ownLineFirst s r line write now = some t) : Inv t := by
  have st : ∀ u : State, Inv u → Inv (if write then u.modWarp r fun w => w.modHome line HeldLine.markStale else u) := by
    intro u hu; split <;> [exact hu.modWarp _ _; exact hu]
  have h1 : Inv (if now then s.flush r line else s) := by split <;> [exact h.performBy r _; exact h]
  unfold Machine.ownLineFirst at ht
  generalize (if now then s.flush r line else s) = u at h1 ht
  dsimp only at ht
  split at ht
  · cases ht; exact h1
  · rename_i w _
    have h2 := h1.writeBackLines r (w.dirtyCopies line)
    generalize Machine.writeBackLines u r (w.dirtyCopies line) = q at h2 ht
    obtain ⟨v, held⟩ := q
    cases held <;> simp at ht
    exact ht ▸ st v h2

/-! ## Wakes and scratchpad -/

theorem Inv.wakeRegion {s : State} (h : Inv s) (r : WarpRef) (k : Nat) (f : Warp → Warp) : Inv (s.wakeRegion r k f) :=
  (h.endRegion r).modWarp _ _

theorem Inv.setEntry {s : State} (h : Inv s) (r : WarpRef) (k : Nat) (st : EState) : Inv (s.setEntry r k st) := h.modWarp _ _

theorem Inv.freezeOn {s : State} (h : Inv s) (ts : List LaneTrap) : Inv (s.freezeOn ts) := by
  unfold State.freezeOn; split <;> [exact h.congr rfl rfl rfl rfl rfl rfl rfl; exact h]

theorem Inv.testPhase {s : State} (h : Inv s) (r : WarpRef) (k : Nat) (ws : List WaitPhase) : Inv (s.testPhase r k ws) := by
  unfold State.testPhase
  split <;> [split <;> [exact h.setEntry _ _ _; exact h.wakeRegion _ _ _]; exact h]

theorem Inv.testEntry {s : State} (h : Inv s) (r : WarpRef) (e : Entry) (k : Nat) : Inv (s.testEntry r e k) := by
  unfold State.testEntry
  split
  · dsimp only; split <;> [exact h; split <;> [exact h.wakeRegion _ _ _; exact h.setEntry _ _ _]]
  · dsimp only
    split
    · exact h.testPhase _ _ _
    · split
      · exact h
      · split <;> [exact (h.modWarp _ _).freezeOn _; exact ((h.modWarp _ _).freezeOn _).testPhase _ _ _]
  · exact h

theorem Inv.testWarp {s : State} (h : Inv s) (r : WarpRef) : Inv (s.testWarp r) := by
  unfold State.testWarp
  split
  · exact h
  · exact inv_foldl (fun s x hs => hs.testEntry r x.1 x.2) _ h

theorem Inv.wakeScratch {s : State} (h : Inv s) : Inv s.wakeScratch :=
  inv_foldl (fun s r hs => by split <;> [(split <;> [exact hs.testWarp r; exact hs]); exact hs]) _ h

theorem Inv.putScratch {s : State} (h : Inv s) (b off : Nat) (bs : List Byte) : Inv (s.putScratch b off bs) :=
  (h.modBlock b _ fun k hk => memPut_wf k.bytes off bs hk).wakeScratch

/-! ## Words -/

theorem Inv.finish {s : State} (h : Inv s) (r : WarpRef) (ts : List LaneTrap) (ls : List Leave) : Inv (s.finish r ts ls) :=
  (h.modWarp _ _).freezeOn ts

theorem Inv.hold {s : State} (h : Inv s) (r : WarpRef) (w : Wait) : Inv (s.hold r w) := h.modWarp _ _

/-- The pipeline of a word keeps the invariant when its body does. -/
theorem Inv.issueWord {s t : State} {op : Nat} {i : Instr} {g : Guard} {body : State → Ctx → List Nat → List Nat → Body} (h : Inv s)
    (hb : ∀ c act hl, s.ctx? = some c → ∀ r gp, Inv ((body s c act hl).end r gp)) (ht : issueWord op i g body s = .next t) : Inv t := by
  unfold Machine.issueWord at ht
  split at ht
  · cases ht
  · rename_i c hc
    split at ht
    · cases ht; exact h.hold _ _
    · dsimp only at ht
      split at ht
      · cases ht; exact h.finish _ _ _
      · split at ht <;> cases ht <;> [exact h.finish _ _ _; exact hb c _ _ hc _ _]

theorem Inv.computeWord {s t : State} {op : Nat} {i : Instr} {g : Guard} {nf : Bool} {d : Option Reg} {f : Ctx → Nat → LaneRes} (h : Inv s)
    (ht : computeWord op i g nf d f s = .next t) : Inv t := by
  unfold Machine.computeWord at ht
  refine h.issueWord (fun c act hl hc r gp => ?_) ht
  exact (h.modWarp _ _).finish _ _ _

theorem Inv.crossWord {s t : State} {op : Nat} {i : Instr} {g : Guard} {nf : Bool} {d : Option Reg} {f : Ctx → List Nat → Nat → CrossRes}
    (h : Inv s) (ht : crossWord op i g nf d f s = .next t) : Inv t := by
  unfold Machine.crossWord at ht
  refine h.issueWord (fun c act hl hc r gp => ?_) ht
  exact (h.modWarp _ _).finish _ _ _

theorem Inv.predict {s : State} (h : Inv s) (g : Guard) : Inv (s.predict g) := by
  unfold State.predict
  split
  · exact h
  · split
    · exact h
    · exact (h.modWarp _ _).congr rfl rfl rfl rfl rfl rfl rfl

theorem Inv.badWord {s t : State} {w : W64} {b : Bool} (h : Inv s) (ht : badWord w b s = .next t) : Inv t := by
  unfold Machine.badWord at ht
  split at ht
  · cases ht
  · split at ht
    · cases ht; exact h.hold _ _
    · dsimp only at ht
      split at ht <;> cases ht <;> exact h.finish _ _ _

/-! ## What a shared operation can do -/

/-- Everything the pipeline of a word can do: wait as a whole, go on with its poisoned guards parted off, trap in every active lane, or run its
body. -/
theorem issueWord_cases {s t : State} {op : Nat} {i : Instr} {g : Guard} {body : State → Ctx → List Nat → List Nat → Body}
    (h : issueWord op i g body s = .next t) : ∃ c, s.ctx? = some c ∧
      let gp := (c.guardPoisoned g).map fun i => c.wp.poisonTrap i 3
      ((∃ w, wideWait op = some w ∧ c.together w = false ∧ t = s.hold c.r w) ∨
       (c.idle op g = true ∧ t = s.finish c.r gp []) ∨
       (∃ code, c.decodeTrap op (fieldsOk i c.kern) = some code ∧ t = s.finish c.r (gp ++ trapAll (c.active g) code 0) []) ∨
       (c.decodeTrap op (fieldsOk i c.kern) = none ∧ t = (body s c (c.active g) c.helpers).end c.r gp)) := by
  unfold issueWord at h
  split at h
  · cases h
  · rename_i c hc
    refine ⟨c, hc, ?_⟩
    split at h
    · rename_i w hw
      obtain ⟨h1, h2⟩ := Option.filter_eq_some_iff.1 hw
      cases h; exact .inl ⟨w, h1, by simpa using h2, rfl⟩
    · dsimp only at h
      split at h
      · cases h; exact .inr (.inl ⟨‹_›, rfl⟩)
      · split at h <;> cases h <;> [exact .inr (.inr (.inl ⟨_, ‹_›, rfl⟩)); exact .inr (.inr (.inr ⟨‹_›, rfl⟩))]

/-- A word stops on one account alone: no clause is in progress. -/
theorem issueWord_stops {s : State} {op : Nat} {i : Instr} {g : Guard} {body : State → Ctx → List Nat → List Nat → Body}
    (h : ∀ t, issueWord op i g body s ≠ .next t) : s.ctx? = none ∧ issueWord op i g body s = .fault .noIssuingWarp := by
  cases hc : s.ctx? with
  | none => exact ⟨rfl, by unfold issueWord; rw [hc]⟩
  | some c =>
    unfold issueWord at h
    simp only [hc] at h
    exfalso
    split at h
    · exact h _ rfl
    · split at h
      · exact h _ rfl
      · split at h <;> exact h _ rfl

/-- Everything a translation can do: answer from a translation held, walk to a leaf whose A and D it sets, or leave the state as it is. -/
theorem translate_cases (s : State) (v : Via) (ctx : Nat) (va : VAddr) (acc : Access) :
    (∃ x, s.cached v ctx va = some x ∧ translate s v ctx va acc = (if x.allows acc then .ok (x.addr va) else .fail, s)) ∨
    (s.cached v ctx va = none ∧
      ((walk s ctx va = .fail ∧ translate s v ctx va acc = (.fail, s)) ∨
       (∃ e, walk s ctx va = .migrating e ∧ translate s v ctx va acc = (.migrating, s)) ∨
       (∃ x e, walk s ctx va = .ok x e ∧ x.allows acc = false ∧ translate s v ctx va acc = (.fail, s)) ∨
       (∃ x e, walk s ctx va = .ok x e ∧ x.allows acc = true ∧
         translate s v ctx va acc = (.ok (x.addr va), (s.markLeaf e (acc == .write)).install v x)))) := by
  unfold translate
  cases hc : s.cached v ctx va with
  | some x => exact .inl ⟨x, rfl, rfl⟩
  | none =>
    refine .inr ⟨rfl, ?_⟩
    cases hw : walk s ctx va with
    | fail => exact .inl ⟨rfl, rfl⟩
    | migrating e => exact .inr (.inl ⟨e, rfl, rfl⟩)
    | ok x e =>
      cases ha : x.allows acc with
      | false => exact .inr (.inr (.inl ⟨x, e, rfl, ha, by simp [ha]⟩))
      | true => exact .inr (.inr (.inr ⟨x, e, rfl, ha, by simp [ha]⟩))

/-- A region whose lines are all clean ends with its registrations dropped, and nothing else of memory or of the other warps (06 R126). -/
theorem writeBackLines_clean (s : State) (r : WarpRef) (ls : List HeldLine) (h : ∀ l ∈ ls, l.dirty = 0) :
    writeBackLines s r ls = (s, false) := by
  induction ls with
  | nil => rfl
  | cons l ls ih =>
    have hl : writeBackLine s r l = (s, .done) := by unfold writeBackLine; rw [if_pos (h l (by simp))]
    unfold writeBackLines
    rw [hl]
    exact ih fun x hx => h x (by simp [hx])

theorem endRegion_clean {s : State} {r : WarpRef} {w : Warp} (hw : s.warp? r = some w) (h : ∀ l ∈ w.held, l.dirty = 0) (hs : w.stores = []) :
    endRegion s r = (s.modWarp r fun w => { w.raiseLost with region := [], ending := false }, true) := by
  unfold endRegion
  simp only [hw, drain_none hw hs, writeBackLines_clean s r w.held h]

/-- A word whose body leaves `u`, in which the issuing warp still stands at the word, ends as `u`. -/
theorem ends_of_done {s u : State} {c : Ctx} {i : Instr} {body : State → Ctx → List Nat → List Nat → Body} {traps : List LaneTrap}
    {leaves : List Leave} (h : Issues s c i) (he : exec i s = issueWord (opcodeOf i) i (guardOf i) body s)
    (hb : body s c (c.lanesFor i) c.helpers = .done u traps leaves) {v : Warp} (hv : u.warp? c.r = some v) (hc : v.cur = some c.cur)
    (hent : v.entries[c.cur.e]? = some c.ent) : Ends s c i u traps leaves := by
  obtain ⟨h1, h2, h3, h4, h5⟩ := finish_spec c v u.cycle traps leaves hc hent
  refine ⟨v, v.finish u.cycle traps leaves, hv, ?_, h1, h2, h3, h4, h5⟩
  rw [he, issueWord_runs h, hb]
  simp only [Body.end, State.finish, List.nil_append]
  congr 2
  exact modWarp_congr u c.r _ _ fun w hw => by rw [hv] at hw; cases hw; rfl

end Sys2Proof.Machine
end

