-- ==== Sys2Proof/Tests/Slice0.lean ====
section
/-! SUPPORT. Tests: terms that are not well-formed, words that decode to the instructions they stand for, and states that meet the hypotheses of
the statements. Words and expected values are from the spec. -/

namespace Sys2Proof.Tests

/- One theorem at a time: side by side, the states that the kernel evaluates would fill the memory. -/
set_option Elab.async false

open Sys2Proof Sys2Proof.Machine

/-! ## Words (07 R164-R168 and the encoding tables of 08-12, 21) -/

/-- The guard that is always true. -/
def gT : Guard := { neg := false, pred := 7 }
/-- Vector register n. -/
def v (n : Nat) : Reg := { s := false, n := BitVec.ofNat 8 n }
/-- s-register n. -/
def r (n : Nat) : Reg := { s := true, n := BitVec.ofNat 8 n }

/-- The state in which word `w` is in hand right after reset. -/
def placed (w : Nat) : State :=
  match fetchNext (State.reset.withFetchWord 64 w) with
  | some (_, t) => t
  | none => State.reset

/-- The hypotheses of `Issues`, decided. -/
def issues (s : State) (i : Instr) : Bool :=
  match s.ctx? with
  | none => false
  | some c =>
    c.ent.st == .runnable && ((wideWait (opcodeOf i)).map c.together).getD true && (c.guardPoisoned (guardOf i)).isEmpty &&
      !(c.lanesFor i).isEmpty && (c.decodeTrap (opcodeOf i) (fieldsOk i c.kern)).isNone

/-- What `issues` decides. -/
theorem issues_sound {s : State} {i : Instr} (h : issues s i = true) : ∃ c, Issues s c i := by
  unfold issues at h
  split at h
  · cases h
  · rename_i c hc
    simp only [Bool.and_eq_true] at h
    obtain ⟨⟨⟨⟨h1, h2⟩, h3⟩, h4⟩, h5⟩ := h
    refine ⟨c, hc, eq_of_beq h1, fun w hw => ?_, List.isEmpty_iff.mp h3, ?_, Option.isNone_iff_eq_none.mp h5⟩
    · simpa [hw] using h2
    · simpa [Ctx.lanesFor] using h4

/-- A row's word decodes to its instruction, which encodes to the word. -/
def decodes (x : Nat × Instr) : Bool := decodeTableWord 64 x.1 == some x.2 && encode x.2 == some (BitVec.ofNat 64 x.1)

/-- A row's instruction, placed after reset, is in hand for a warp that issues it, and it completes. -/
def runs (x : Nat × Instr) : Bool :=
  issues (placed x.1) x.2 && (match exec x.2 (placed x.1) with | .next _ => true | _ => false)


/-! ## Ill-formed terms -/

/-- One term for each bound of an operand kind (07 Table 7.8). -/
def illOperands : List Instr :=
  [.iadd ⟨gT, v 1, r 64, .reg (v 3), false, false⟩, .iadd64 ⟨gT, v 1, v 2, .reg (v 4), false, false⟩, .iadd64 ⟨gT, v 2, v 4, .reg (r 64), false, false⟩,
   .qnt8 ⟨gT, false, false, v 1, v 6, v 3⟩, .dqnt8 ⟨gT, false, false, r 4, v 6, v 3⟩, .lds ⟨gT, 0, 1, 5, r 64⟩, .send ⟨gT, 3, 1, 2, v 3, r 61⟩,
   .movs ⟨gT, v 1, 64, v 2⟩, .mov ⟨gT, v 1, v 2, true⟩, .movi ⟨gT, 3, 1, 0⟩, .atoml ⟨gT, true, 9, 2, 1, v 6, .rlx, .blk⟩, .atoml ⟨gT, false, 9, 2, 1, v 7, .rlx, .blk⟩,
   .cinv ⟨gT, 3, 4⟩, .haltb ⟨gT, 64, 2⟩, .bar ⟨gT, 1, some 64⟩, .cpy ⟨gT, 0, some 64, 1, v 2, none⟩, .ldl ⟨gT, 1, 3, 1, .imm 0, false, .rlx, .blk⟩,
   .stl ⟨gT, 0, v 3, 1, .reg (r 64), .rlx, .blk⟩, .clock ⟨gT, v 3⟩]
/-- One term for each modifier, code or .S bit that an encoding table does not list, of the integer and move words (08). -/
def illInts : List Instr :=
  [.iadd ⟨gT, r 1, v 2, .reg (r 3), false, false⟩, .iadd ⟨gT, v 1, v 2, .imm 0, true, false⟩, .imul ⟨gT, v 1, v 2, .reg (v 3), true, false⟩,
   .imad ⟨gT, v 1, v 2, v 3, v 4, false, false, true⟩, .funnel ⟨gT, v 1, v 2, v 3, v 4, true, false, false⟩, .bfi ⟨gT, v 1, v 2, v 3, v 4, false, true, false⟩,
   .idot4 ⟨gT, r 1, v 2, r 3, r 4, false, false, false⟩, .iabs ⟨gT, r 1, v 2, false⟩, .popc ⟨gT, v 1, v 2, true⟩, .iaddc ⟨gT, r 1, v 2, r 3, 1, 1⟩,
   .lop3 ⟨gT, r 1, v 2, r 3, r 4, 0⟩, .mov ⟨gT, r 1, v 2, false⟩, .movi ⟨gT, 2, 3, 0⟩, .movs ⟨gT, r 1, 2, v 3⟩, .sel ⟨gT, r 1, v 2, r 3, 1, false⟩]
/-- The same of the floating words and the conversions (08). -/
def illFloats : List Instr :=
  [.fadd ⟨gT, false, true, .rne, false, v 1, v 2, .reg (v 3)⟩, .fmin ⟨gT, false, false, .ru, false, v 1, v 2, .reg (v 3)⟩, .hmin2 ⟨gT, false, false, .rne, true, v 1, v 2, .reg (v 3)⟩,
   .fmul ⟨gT, false, false, .rz, false, v 1, v 2, .imm 0⟩, .ffma ⟨gT, false, 1, .rne, false, v 1, v 2, v 3, v 4⟩, .hfma2 ⟨gT, false, 2, .rne, false, v 1, v 2, v 3, v 4⟩,
   .qdot4 ⟨gT, false, 0, .rne, false, r 1, v 2, r 3, r 4⟩, .fsqrt ⟨gT, false, .ru, true, v 1, v 2⟩, .frcp ⟨gT, false, .ru, false, v 1, v 2⟩, .fround ⟨gT, false, .ru, true, r 1, v 2⟩,
   .cvtf2i ⟨gT, false, .rne, false, 1, 8, 4, v 1, v 2⟩, .cvtf2i ⟨gT, false, .rne, false, 2, 9, 4, v 1, v 2⟩, .cvtf2i ⟨gT, false, .rne, false, 0, 4, 4, v 1, v 2⟩,
   .cvti2f ⟨gT, false, .rne, false, 0, 4, 4, v 1, v 2⟩, .cvtf2f ⟨gT, false, .rne, false, 0, 8, 4, v 1, v 2⟩, .cvti2i ⟨gT, true, .rne, false, 0, 4, 4, v 1, v 2⟩,
   .pack ⟨gT, .rne, false, 0, 4, v 1, v 2, v 3⟩, .pack ⟨gT, .ru, false, 0, 0, v 1, v 2, v 3⟩, .pack ⟨gT, .rne, false, 1, 2, v 1, v 2, v 3⟩, .unpack ⟨gT, 2, 0, v 2, v 2⟩,
   .qnt8Scale ⟨gT, false, false, r 1, v 2⟩, .qnt8 ⟨gT, false, false, r 1, v 4, v 3⟩]
/-- The same of the compares and the cross-lane words (08, 09). -/
def illLanes : List Instr :=
  [.isetp ⟨gT, false, false, 6, 0, 1, v 2, v 3, 0⟩, .isetp ⟨gT, true, false, 1, 0, 1, v 2, v 3, 0⟩, .nsetp ⟨gT, false, false, 1, 0, 1, v 2, v 3, 4⟩,
   .fsetp ⟨gT, false, false, 12, 0, 1, v 2, v 3, 0⟩, .fsetp ⟨gT, false, true, 1, 0, 1, v 2, v 4, 0⟩, .fset ⟨gT, false, false, true, 1, 0, v 1, v 2, v 3, 0⟩,
   .iset ⟨gT, false, false, false, 1, 0, r 1, v 2, v 3, 0⟩, .shfl ⟨gT, false, 0, 7, 1, v 2, v 3, 1⟩, .qxch ⟨gT, false, 0, 1, v 2⟩, .vote ⟨gT, 3, false, 1, 2⟩,
   .redux ⟨gT, false, 6, false, false, false, v 1, v 2⟩, .redux ⟨gT, false, 0, true, false, false, v 1, v 2⟩, .redux ⟨gT, false, 1, false, true, false, v 1, v 2⟩,
   .redux ⟨gT, false, 0, false, false, true, v 1, v 2⟩, .prefixScan ⟨gT, false, 0, false, false, true, r 1, v 2⟩, .prefixScan ⟨gT, false, 0, false, true, false, v 1, v 2⟩,
   .fredux ⟨gT, false, .rne, 3, v 1, v 2⟩, .fredux ⟨gT, false, .ru, 1, v 1, v 2⟩, .readlane ⟨gT, false, r 1, 2, .imm 0⟩, .readlane ⟨gT, false, v 1, 2, .reg (v 3)⟩,
   .writelane ⟨gT, false, 1, 2, .reg (v 3)⟩]
/-- The same of the memory, card and system words (10-12, 21), and a reserved word that is none (07 R170). -/
def illOthers : List Instr :=
  [.ldl ⟨gT, 0, 1, 2, .imm 0, false, .rel, .blk⟩, .stl ⟨gT, 0, v 1, 2, .imm 0, .acq, .blk⟩, .atoml ⟨gT, true, 10, 2, 1, v 4, .rlx, .blk⟩, .atoml ⟨gT, false, 11, 2, 1, v 4, .rlx, .blk⟩,
   .viewq ⟨gT, 15, v 1, 2⟩, .atoms ⟨gT, false, 12, .rlx, false, 2, 1, v 4, v 5⟩, .ldsmB64 ⟨gT, 1, 2, 3, v 4⟩, .ldsmB128 ⟨gT, 1, 4, 3, v 4⟩, .waita ⟨gT, 7, .blk, 1, 2, v 3, v 4⟩,
   .ringadv ⟨gT, r 1, 2, v 3, r 4⟩, .gset ⟨gT, 1, .reg (v 2)⟩, .engwait ⟨gT, 1, .reg (v 2)⟩, .mmalease ⟨gT, 65⟩, .emit ⟨gT, 2, 1, 2, v 3⟩, .wrreg ⟨gT, .imm 0, r 3⟩, .illegalOpcode 0x0170010203002001]
theorem test_wellFormed_refuses : (illOperands ++ illInts ++ illFloats ++ illLanes ++ illOthers).all (!WellFormed ·) = true := by decide +kernel
/-- Words of the int encodings, written from the tables of the spec. -/
def intWords : List (Nat × Instr) :=
  [(0x00B0000000000000, .nop { g := { neg := true, pred := 3 } }),
   (0x0170010203002001, .iadd { g := gT, d := v 1, a := v 2, b := .reg (v 3), sat := true, u := true }),
   (0x02780405FFFFFFFE, .isub { g := gT, d := v 4, a := v 5, b := .imm 0xFFFFFFFE, sat := false, u := false }),
   (0x0370060708000400, .imul { g := gT, d := v 6, a := v 7, b := .reg (r 8), sat := false, u := false }),
   (0x0470060708000400, .imulh { g := gT, d := v 6, a := v 7, b := .reg (r 8), sat := false, u := false }),
   (0x0570060708000400, .imulhn { g := gT, d := v 6, a := v 7, b := .reg (r 8), sat := false, u := false }),
   (0x0870060708000400, .imin { g := gT, d := v 6, a := v 7, b := .reg (r 8), sat := false, u := false }),
   (0x0970060708000400, .imax { g := gT, d := v 6, a := v 7, b := .reg (r 8), sat := false, u := false }),
   (0x0A70060708000400, .nmin { g := gT, d := v 6, a := v 7, b := .reg (r 8), sat := false, u := false }),
   (0x0B70060708000400, .nmax { g := gT, d := v 6, a := v 7, b := .reg (r 8), sat := false, u := false }),
   (0x0670010203042A01, .imad { g := gT, d := v 1, a := r 2, b := v 3, c := r 4, sat := true, u := true, u1 := false }),
   (0x0770010203040A00, .iadd3 { g := gT, d := v 1, a := r 2, b := v 3, c := r 4, sat := false, u := false, u1 := false }),
   (0x0C70010200002000, .iabs { g := gT, d := v 1, a := v 2, sat := true }),
   (0x0D70010200001800, .ineg { g := gT, d := r 1, a := r 2, sat := false }),
   (0x0E70010203040005, .iaddc { g := gT, d := v 1, a := v 2, b := v 3, pin := 4, pout := 5 }),
   (0x0F70010203071C07, .isubb { g := gT, d := r 1, a := r 2, b := r 3, pin := 7, pout := 7 })]

theorem test_decode_intWords : intWords.all decodes = true := by decide

theorem test_issues_intWords : intWords.all runs = true := by decide

/-- Words of the bits encodings, written from the tables of the spec. -/
def bitsWords1 : List (Nat × Instr) :=
  [(0x10780A0B80000001, .andw { g := gT, d := v 10, a := v 11, b := .imm 0x80000001, sat := false, u := false }),
   (0x11780A0B80000001, .orw { g := gT, d := v 10, a := v 11, b := .imm 0x80000001, sat := false, u := false }),
   (0x12780A0B80000001, .xorw { g := gT, d := v 10, a := v 11, b := .imm 0x80000001, sat := false, u := false }),
   (0x15780A0B80000001, .shl { g := gT, d := v 10, a := v 11, b := .imm 0x80000001, sat := false, u := false }),
   (0x16780A0B80000001, .shr { g := gT, d := v 10, a := v 11, b := .imm 0x80000001, sat := false, u := false }),
   (0x17780A0B80000001, .sar { g := gT, d := v 10, a := v 11, b := .imm 0x80000001, sat := false, u := false }),
   (0x18780A0B80000001, .rotl { g := gT, d := v 10, a := v 11, b := .imm 0x80000001, sat := false, u := false }),
   (0x20780A0B80000001, .idiv { g := gT, d := v 10, a := v 11, b := .imm 0x80000001, sat := false, u := false }),
   (0x21780A0B80000001, .ndiv { g := gT, d := v 10, a := v 11, b := .imm 0x80000001, sat := false, u := false }),
   (0x22780A0B80000001, .irem { g := gT, d := v 10, a := v 11, b := .imm 0x80000001, sat := false, u := false }),
   (0x23780A0B80000001, .nrem { g := gT, d := v 10, a := v 11, b := .imm 0x80000001, sat := false, u := false }),
   (0x1370010200000000, .notw { g := gT, d := v 1, a := v 2, sat := false }),
   (0x14700102030400E8, .lop3 { g := gT, d := v 1, a := v 2, b := v 3, c := v 4, lut := 0xE8 }),
   (0x1A70010200000800, .popc { g := gT, d := v 1, a := r 2, sat := false }),
   (0x1B70010200000800, .clz { g := gT, d := v 1, a := r 2, sat := false }),
   (0x1C70010200000800, .ctz { g := gT, d := v 1, a := r 2, sat := false })]

/-- Words of the bits encodings, written from the tables of the spec. -/
def bitsWords2 : List (Nat × Instr) :=
  [(0x1D70010200000800, .brev { g := gT, d := v 1, a := r 2, sat := false }),
   (0x1970010203040001, .funnel { g := gT, d := v 1, a := v 2, b := v 3, c := v 4, sat := false, u := true, u1 := false }),
   (0x1E70010203040001, .bfx { g := gT, d := v 1, a := v 2, b := v 3, c := v 4, sat := false, u := true, u1 := false }),
   (0x1F70010203040000, .bfi { g := gT, d := v 1, a := v 2, b := v 3, c := v 4, sat := false, u := false, u1 := false }),
   (0x2470010203042001, .isad { g := gT, d := v 1, a := v 2, b := v 3, c := v 4, sat := true, u := true, u1 := false }),
   (0x2570010203042002, .idot4 { g := gT, d := v 1, a := v 2, b := v 3, c := v 4, sat := true, u := false, u1 := true }),
   (0x2670010203040001, .idot2 { g := gT, d := v 1, a := v 2, b := v 3, c := v 4, sat := false, u := true, u1 := false }),
   (0x2770010203040000, .prmt { g := gT, d := v 1, a := v 2, b := v 3, c := v 4, sat := false, u := false, u1 := false })]

theorem test_decode_bitsWords1 : bitsWords1.all decodes = true := by decide

theorem test_issues_bitsWords1 : bitsWords1.all runs = true := by decide

theorem test_decode_bitsWords2 : bitsWords2.all decodes = true := by decide

theorem test_issues_bitsWords2 : bitsWords2.all runs = true := by decide

/-- Words of the move encodings, written from the tables of the spec. -/
def moveWords : List (Nat × Instr) :=
  [(0x2871020400000000, .mov { g := gT, d := v 2, a := v 4, pair := true }),
   (0x297A0200DEADBEEF, .movi { g := gT, d := 2, sz := 2, imm := 0xDEADBEEF }),
   (0x2A70010903000800, .movs { g := gT, d := v 1, sa := 9, b := v 3 }),
   (0x2B70050600001000, .smovv { g := gT, sd := 5, a := 6 }),
   (0x2C70020406002000, .iadd64 { g := gT, d := v 2, a := v 4, b := .reg (v 6), sat := true, u := false }),
   (0x2D70020406000001, .isub64 { g := gT, d := v 2, a := v 4, b := .reg (v 6), sat := false, u := true }),
   (0x2E78020400000007, .imul64 { g := gT, d := v 2, a := v 4, b := .imm 7, sat := false, u := false }),
   (0x2F71020406050000, .sel { g := gT, d := v 2, a := v 4, b := v 6, p := 5, pair := true })]

theorem test_decode_moveWords : moveWords.all decodes = true := by decide

theorem test_issues_moveWords : moveWords.all runs = true := by decide

/-- Words of the fp encodings, written from the tables of the spec. -/
def fpWords : List (Nat × Instr) :=
  [(0x3074010203004000, .fadd { g := gT, nf := true, bf := false, rm := .rz, sat := false, d := v 1, a := v 2, b := .reg (v 3) }),
   (0x317001020300A000, .fsub { g := gT, nf := false, bf := false, rm := .rd, sat := true, d := v 1, a := v 2, b := .reg (v 3) }),
   (0x327001020300C000, .fmul { g := gT, nf := false, bf := false, rm := .ru, sat := false, d := v 1, a := v 2, b := .reg (v 3) }),
   (0x33700A040306E400, .ffma { g := gT, nf := false, sz := 0, rm := .ru, sat := true, d := v 10, a := v 4, b := r 3, c := v 6 }),
   (0x3470010203000000, .fmin { g := gT, nf := false, bf := false, rm := .rne, sat := false, d := v 1, a := v 2, b := .reg (v 3) }),
   (0x3574010203000000, .fmax { g := gT, nf := true, bf := false, rm := .rne, sat := false, d := v 1, a := v 2, b := .reg (v 3) }),
   (0x3870010203008000, .fdiv { g := gT, nf := false, bf := false, rm := .rd, sat := false, d := v 1, a := v 2, b := .reg (v 3) }),
   (0x4270010203000000, .fcopysign { g := gT, nf := false, bf := false, rm := .rne, sat := false, d := v 1, a := v 2, b := .reg (v 3) }),
   (0x4570010203006000, .fscale { g := gT, nf := false, bf := false, rm := .rz, sat := true, d := v 1, a := v 2, b := .reg (v 3) }),
   (0x487101020300C000, .hadd2 { g := gT, nf := false, bf := true, rm := .ru, sat := false, d := v 1, a := v 2, b := .reg (v 3) }),
   (0x4970010203002000, .hmul2 { g := gT, nf := false, bf := false, rm := .rne, sat := true, d := v 1, a := v 2, b := .reg (v 3) }),
   (0x4B71010203000000, .hmin2 { g := gT, nf := false, bf := true, rm := .rne, sat := false, d := v 1, a := v 2, b := .reg (v 3) }),
   (0x4C70010203000000, .hmax2 { g := gT, nf := false, bf := false, rm := .rne, sat := false, d := v 1, a := v 2, b := .reg (v 3) }),
   (0x4A71010203046000, .hfma2 { g := gT, nf := false, sz := 1, rm := .rz, sat := true, d := v 1, a := v 2, b := v 3, c := v 4 }),
   (0x4D70010203046000, .hdot2 { g := gT, nf := false, sz := 0, rm := .rz, sat := true, d := v 1, a := v 2, b := v 3, c := v 4 }),
   (0x4E73010203046000, .qdot4 { g := gT, nf := false, sz := 3, rm := .rz, sat := true, d := v 1, a := v 2, b := v 3, c := v 4 })]

theorem test_decode_fpWords : fpWords.all decodes = true := by decide

theorem test_issues_fpWords : fpWords.all runs = true := by decide

/-- Words of the fun encodings, written from the tables of the spec. -/
def funWords1 : List (Nat × Instr) :=
  [(0x3674070800000000, .fabs { g := gT, nf := true, rm := .rne, x := false, d := v 7, a := v 8 }),
   (0x3774070800000000, .fneg { g := gT, nf := true, rm := .rne, x := false, d := v 7, a := v 8 }),
   (0x397407080000C000, .fsqrt { g := gT, nf := true, rm := .ru, x := false, d := v 7, a := v 8 }),
   (0x3A74070800000000, .frcp { g := gT, nf := true, rm := .rne, x := false, d := v 7, a := v 8 }),
   (0x3B74070800000000, .frsq { g := gT, nf := true, rm := .rne, x := false, d := v 7, a := v 8 }),
   (0x3C74070800000000, .fexp2 { g := gT, nf := true, rm := .rne, x := false, d := v 7, a := v 8 }),
   (0x3D74070800000000, .flog2 { g := gT, nf := true, rm := .rne, x := false, d := v 7, a := v 8 }),
   (0x3E74070800000000, .fsin { g := gT, nf := true, rm := .rne, x := false, d := v 7, a := v 8 }),
   (0x3F74070800000000, .fcos { g := gT, nf := true, rm := .rne, x := false, d := v 7, a := v 8 }),
   (0x4074070800000000, .ftanh { g := gT, nf := true, rm := .rne, x := false, d := v 7, a := v 8 }),
   (0x4174070800000000, .fclass { g := gT, nf := true, rm := .rne, x := false, d := v 7, a := v 8 }),
   (0x4374070800000000, .ffract { g := gT, nf := true, rm := .rne, x := false, d := v 7, a := v 8 }),
   (0x4474070800008001, .fround { g := gT, nf := true, rm := .rd, x := true, d := v 7, a := v 8 }),
   (0x4674070800000000, .fgetexp { g := gT, nf := true, rm := .rne, x := false, d := v 7, a := v 8 }),
   (0x5074020400006086, .cvtf2i { g := gT, nf := true, rm := .rz, sat := true, sz := 0, src := 8, dst := 6, d := v 2, a := v 4 }),
   (0x5171020400008028, .cvti2f { g := gT, nf := false, rm := .rd, sat := false, sz := 1, src := 2, dst := 8, d := v 2, a := v 4 })]

/-- Words of the fun encodings, written from the tables of the spec. -/
def funWords2 : List (Nat × Instr) :=
  [(0x52730204000000B9, .cvtf2f { g := gT, nf := false, rm := .rne, sat := false, sz := 3, src := 11, dst := 9, d := v 2, a := v 4 }),
   (0x5372020400002014, .cvti2i { g := gT, nf := false, rm := .rne, sat := true, sz := 2, src := 1, dst := 4, d := v 2, a := v 4 }),
   (0x547101020300E00B, .pack { g := gT, rm := .ru, sat := true, sz := 1, t := 11, d := v 1, a := v 2, b := v 3 }),
   (0x55710203000000C0, .unpack { g := gT, sz := 1, t := 12, d := v 2, a := v 3 }),
   (0x5671010200000100, .qnt8Scale { g := gT, nf := false, e5 := true, d := v 1, a := v 2 }),
   (0x5674010403000000, .qnt8 { g := gT, nf := true, e5 := false, d := v 1, a := v 4, b := v 3 }),
   (0x5771040103000000, .dqnt8 { g := gT, nf := false, e5 := true, d := v 4, a := v 1, b := v 3 })]

theorem test_decode_funWords1 : funWords1.all decodes = true := by decide

theorem test_issues_funWords1 : funWords1.all runs = true := by decide

theorem test_decode_funWords2 : funWords2.all decodes = true := by decide

theorem test_issues_funWords2 : funWords2.all runs = true := by decide

/-- Words of the pred encodings, written from the tables of the spec. -/
def predWords : List (Nat × Instr) :=
  [(0x6070010203040012, .isetp { g := gT, nf := false, pair := false, cmp := 2, comb := 1, pd := 1, a := v 2, b := v 3, pc := 4 }),
   (0x6171010204000005, .nsetp { g := gT, nf := false, pair := true, cmp := 5, comb := 0, pd := 1, a := v 2, b := v 4, pc := 0 }),
   (0x627401020306043B, .fsetp { g := gT, nf := true, pair := false, cmp := 11, comb := 3, pd := 1, a := v 2, b := r 3, pc := 6 }),
   (0x6370010203040096, .plop { g := gT, pd := 1, pa := 2, pb := 3, pc := 4, lut := 0x96 }),
   (0x6470090000000000, .pmovGet { g := gT, d := 9 }),
   (0x6470000900000155, .pmovSet { g := gT, a := v 9, mask := 0x55 }),
   (0x6570010203000006, .fset { g := gT, nf := false, pair := false, u := false, cmp := 6, comb := 0, d := v 1, a := v 2, b := v 3, pc := 0 }),
   (0x6671010204050062, .iset { g := gT, nf := false, pair := true, u := true, cmp := 2, comb := 2, d := v 1, a := v 2, b := v 4, pc := 5 })]

theorem test_decode_predWords : predWords.all decodes = true := by decide

theorem test_issues_predWords : predWords.all runs = true := by decide

/-- Words of the cross encodings, written from the tables of the spec. -/
def crossWords : List (Nat × Instr) :=
  [(0x707102040605000E, .shfl { g := gT, pair := true, m := 2, w := 3, d := 2, a := v 4, b := v 6, pc := 5 }),
   (0x7170020300000003, .qxch { g := gT, pair := false, k := 3, d := 2, a := v 3 }),
   (0x7271020400000001, .qbcast { g := gT, pair := true, k := 1, d := 2, a := v 4 }),
   (0x7370020300000005, .vote { g := gT, op := 1, n := true, pd := 2, pa := 3 }),
   (0x7370020300001003, .voteBallot { g := gT, pair := false, n := false, d := r 2, pa := 3 }),
   (0x747002030000100A, .redux { g := gT, pair := false, op := 2, u := true, sat := false, x := false, d := r 2, a := v 3 }),
   (0x757402030000C000, .fredux { g := gT, nf := true, rm := .ru, op := 0, d := v 2, a := v 3 }),
   (0x7671020400000000, .matchAny { g := gT, pair := true, d := 2, a := v 4 }),
   (0x7670020300000001, .matchAll { g := gT, pair := false, pd := 2, a := v 3 }),
   (0x7770060000000000, .elect { g := gT, pd := 6 }),
   (0x7971020400000019, .prefixScan { g := gT, pair := true, op := 1, u := true, sat := false, x := true, d := v 2, a := v 4 }),
   (0x7A78090200000005, .readlane { g := gT, pair := false, d := v 9, a := 2, b := .imm 5 }),
   (0x7B78090200000005, .writelane { g := gT, pair := false, d := 9, a := 2, b := .imm 5 })]

theorem test_decode_crossWords : crossWords.all decodes = true := by decide

theorem test_issues_crossWords : crossWords.all runs = true := by decide

/-- Words of the control encodings, written from the tables of the spec. -/
def controlWords : List (Nat × Instr) :=
  [(0x80A80000FFFFFFF0, .bra { g := { neg := true, pred := 2 }, off := 0xFFFFFFF0 }),
   (0x8170000600000800, .brx { g := gT, a := r 6 }),
   (0x8278000000000003, .call { g := gT, off := 3 }),
   (0x8370000600000000, .callx { g := gT, a := v 6 }),
   (0x8470000000000000, .ret { g := gT }),
   (0x85780100000000C8, .join { g := gT, pd := 1, t := 200 }),
   (0x8670000000000000, .exitw { g := gT }),
   (0x8778000000001234, .trapw { g := gT, imm := 0x1234 }),
   (0x8878000000000009, .brk { g := gT, imm := 9 }),
   (0x8970000000000000, .yieldw { g := gT }),
   (0x8A7800000000FFFF, .pause { g := gT, n := 0xFFFF })]

theorem test_decode_controlWords : controlWords.all decodes = true := by decide

theorem test_issues_controlWords : controlWords.all runs = true := by decide

/-- Words of the lines encodings, written from the tables of the spec. -/
def linesWords : List (Nat × Instr) :=
  [(0x9070030508000401, .openl { g := gT, mode := .w, ln := 3, v := 5, b := r 8 }),
   (0x9170030508000004, .reopen { g := gT, mode := .s, ln := 3, v := 5, b := v 8 }),
   (0x9270030000000000, .recall { g := gT, ln := 3 }),
   (0x9370070000000000, .flushl { g := gT, ln := 7 }),
   (0x94730201004B007C, .ldl { g := gT, sz := 3, d := 2, ln := 1, off := .imm 0x7C, sx := true, ord := .acq, scp := .dev }),
   (0x9571020105111500, .stl { g := gT, sz := 1, d := r 2, ln := 1, off := .reg (r 5), ord := .rel, scp := .gang }),
   (0x9671020104240008, .atoml { g := gT, pair := true, op := 8, d := 2, ln := 1, b := v 4, ord := .sc, scp := .sys }),
   (0x9870020100000002, .lineq { g := gT, q := 2, d := 2, ln := 1 }),
   (0x997002090000100E, .viewq { g := gT, f := 14, d := r 2, v := 9 }),
   (0x9A70000902000001, .pref { g := gT, t := true, v := 9, b := v 2 })]

theorem test_decode_linesWords : linesWords.all decodes = true := by decide

theorem test_issues_linesWords : linesWords.all runs = true := by decide

/-- Words of the scratch encodings, written from the tables of the spec. -/
def scratchWords : List (Nat × Instr) :=
  [(0xA071020903000000, .lds { g := gT, sz := 1, d := 2, v := 9, b := v 3 }),
   (0xA172020903001000, .sts { g := gT, sz := 2, d := r 2, v := 9, b := v 3 }),
   (0xA2700209030500B4, .atoms { g := gT, pair := false, op := 4, ord := .acqrel, gang := true, d := 2, v := 9, b := v 3, c := v 5 }),
   (0xA370020903000000, .ldsmB64 { g := gT, sz := 0, d := 2, v := 9, b := v 3 }),
   (0xA371040903000000, .ldsmB128 { g := gT, sz := 0, d := 4, v := 9, b := v 3 }),
   (0xA470010903060015, .waita { g := gT, cmp := 5, scp := .die, pd := 1, v := 9, b := v 3, c := v 6 }),
   (0xA570000903060203, .siga { g := gT, scp := .dev, v := 9, b := v 3, c := r 6 }),
   (0xA870000000000012, .fence { g := gT, kind := 2, scp := .sys }),
   (0xA97000000500040E, .bar { g := gT, k := 6, n := some 5 }),
   (0xAA70030902040000, .barbPost { g := gT, d := 3, v := 9, b := v 2, c := v 4 }),
   (0xAA70000902040001, .barbWait { g := gT, v := 9, b := v 2, c := v 4 }),
   (0xAB70000000000003, .gbar { g := gT, k := 3 }),
   (0xAC78000000000A05, .waitf { g := gT, mask := 0xA05 }),
   (0xAD7001090204000F, .send { g := gT, n1 := 15, pd := 1, v := 9, b := v 2, c := v 4 }),
   (0xAE70010902040000, .ringadv { g := gT, d := v 1, v := 9, b := v 2, c := v 4 })]

theorem test_decode_scratchWords : scratchWords.all decodes = true := by decide

theorem test_issues_scratchWords : scratchWords.all runs = true := by decide

/-- Words of the cards encodings, written from the tables of the spec. -/
def cardsWords1 : List (Nat × Instr) :=
  [(0xB070000402000400, .cpy { g := gT, eng := 0, t := none, v := 4, b := r 2, gm := none }),
   (0xB070070402001405, .cpy { g := gT, eng := 1, t := some 7, v := 4, b := r 2, gm := some 0 }),
   (0xB170070402051006, .cpyf { g := gT, eng := 2, t := some 7, v := 4, b := v 2, gm := some 5 }),
   (0xB270000402000003, .cpyp { g := gT, eng := 3, t := none, v := 4, b := v 2, gm := none }),
   (0xB370000402000001, .cpyq { g := gT, eng := 1, t := none, v := 4, b := v 2, gm := none }),
   (0xB4780C0000000001, .gset { g := gT, slot := 12, b := .imm 1 }),
   (0xB570000307000400, .engwait { g := gT, e := 3, b := .reg (r 7) }),
   (0xB8700004020F0004, .mma { g := gT, v := 4, b := v 2, gm := some 15 }),
   (0xB978000000000040, .mmalease { g := gT, n := 64 }),
   (0xBA70000402000000, .mmadrain { g := gT, v := 4, b := v 2, gm := none }),
   (0xBB70060000030004, .mmazero { g := gT, acc := 6, gm := some 3 }),
   (0xC070050402000000, .attn { g := gT, d := 5, v := 4, b := v 2, gm := none }),
   (0xC170000402090404, .kvappend { g := gT, v := 4, b := r 2, gm := some 9 }),
   (0xC270000402090404, .kvmap { g := gT, v := 4, b := r 2, gm := some 9 }),
   (0xC370000402090404, .kvrot { g := gT, v := 4, b := r 2, gm := some 9 }),
   (0xC470000402090404, .embg { g := gT, v := 4, b := r 2, gm := some 9 })]

/-- Words of the cards encodings, written from the tables of the spec. -/
def cardsWords2 : List (Nat × Instr) :=
  [(0xC570000402090404, .embu { g := gT, v := 4, b := r 2, gm := some 9 }),
   (0xC670000402090404, .embswap { g := gT, v := 4, b := r 2, gm := some 9 }),
   (0xC870010200040803, .emit { g := gT, n1 := 3, pd := 1, h := 2, c := v 4 }),
   (0xC970010402000000, .launch { g := gT, pd := 1, v := 4, b := v 2 })]

theorem test_decode_cardsWords1 : cardsWords1.all decodes = true := by decide

theorem test_issues_cardsWords1 : cardsWords1.all runs = true := by decide

theorem test_decode_cardsWords2 : cardsWords2.all decodes = true := by decide

theorem test_issues_cardsWords2 : cardsWords2.all runs = true := by decide

/-- Words of the system encodings, written from the tables of the spec. -/
def systemWords : List (Nat × Instr) :=
  [(0xD070050000100000, .csrr { g := gT, d := v 5, csr := 0x010 }),
   (0xD170000300410000, .csrw { g := gT, csr := 0x041, a := v 3 }),
   (0xD278030000000100, .rdreg { g := gT, d := 3, b := .imm 256 }),
   (0xD370000309000000, .wrreg { g := gT, b := .reg (v 9), a := v 3 }),
   (0xD478000000000008, .tret { adj := true }),
   (0xD570000406000C00, .cinv { g := gT, a := 4, b := 6 }),
   (0xD670040000000000, .clock { g := gT, d := v 4 }),
   (0xD870000102000C00, .haltb { g := gT, a := 1, b := 2 }),
   (0xD970000102000C00, .resumeb { g := gT, a := 1, b := 2 }),
   (0xDA70050102030C00, .rdwreg { g := gT, d := 5, h := 1, b := r 2, c := v 3 }),
   (0xDB70050102031800, .wrwreg { g := gT, d := r 5, h := 1, b := v 2, c := v 3 }),
   (0xDC70050102030A00, .rdline { g := gT, d := 5, h := 1, b := v 2, c := r 3 }),
   (0xDD70050102000C00, .drain0 { g := gT, d := v 5, a := 1, b := 2 }),
   (0xDD70050102001C01, .drain1 { g := gT, d := r 5, a := 1, b := 2 }),
   (0xDF78000000000003, .callcv { g := gT, imm := 3 })]

theorem test_decode_systemWords : systemWords.all decodes = true := by decide

theorem test_issues_systemWords : systemWords.all runs = true := by decide

/-- Words of the reserved encodings, written from the tables of the spec. -/
def reservedWords : List (Nat × Instr) :=
  [(0xE070000000000000, .illegalOpcode 0xE070000000000000)]

theorem test_decode_reservedWords : reservedWords.all decodes = true := by decide

/-- One step from reset with a word placed runs it: the entry has gone on to the word after it. -/
def steps (x : Nat × Instr) : Bool :=
  match step (State.reset.withFetchWord 64 x.1) with
  | .next t => ((t.warp? { b := 0, w := 0 }).map fun w => w.entries.any fun e => e.pc == 16).getD false
  | _ => false
theorem test_steps_int : intWords.all steps = true := by decide
theorem test_steps_x : [moveWords, fpWords, predWords, crossWords].flatten.all steps = true := by decide +kernel

/-! ## Witnesses: states that meet the hypotheses of the statements, and what the statements say of them -/

/-- A test of a state and of its word in hand. -/
def within (s : State) (f : Ctx → Bool) : Bool :=
  match s.ctx? with
  | some c => f c
  | none => false

/-- `EndsAs`, decided; the grids are left out. -/
def endsAs (o : Out) (c : Ctx) (u : State) (traps : List LaneTrap) (leaves : List Leave) : Bool :=
  match u.warp? c.r, o with
  | some v, .next t =>
    match t.warp? c.r with
    | some w =>
      { t with grids := [] } == { (u.modWarp c.r fun _ => w).freezeOn traps with grids := [] } && w.rest == v.rest && w.lanes == v.lanes &&
        w.s == v.s && w.lastIssue == u.cycle &&
        w.entries[c.cur.e]? == some { c.ent with pc := c.ent.pc + 8, mask := c.ent.mask &&& ~~~ (partedMask c traps leaves ||| v.retiredMask),
                                                 retry := false } &&
        ((List.range v.entries.length).all fun k => k == c.cur.e || (w.entries[k]?).map Entry.ageless == (v.entries[k]?).map Entry.ageless) &&
        w.entries.drop v.entries.length == partedOff c u.cycle traps leaves
    | none => false
  | _, _ => false

/-- `Ends`, decided. -/
def ends (s : State) (c : Ctx) (i : Instr) (u : State) (traps : List LaneTrap) (leaves : List Leave) : Bool :=
  endsAs (exec i s) c u traps leaves

/-- The warp of the tests. -/
def r0 : WarpRef := { b := 0, w := 0 }
/-- A vector register set in every lane. -/
def setV (n : Nat) (f : Nat → W32) (s : State) : State :=
  s.modWarp r0 (·.mapLanes (List.range 32) fun l x => x.setV n { val := f l, poison := false })
/-- An s-register set. -/
def setS (n : Nat) (x : W32) (s : State) : State := s.modWarp r0 (·.setSs n [{ val := x, poison := false }])
/-- Every lane changed. -/
def lanes (f : Lane → Lane) (s : State) : State := s.modWarp r0 (·.mapLanes (List.range 32) fun _ x => f x)
/-- All 32 lanes leave for an address. -/
def all32 (pc : W64) (st : EState) : Leave := { mask := 0xFFFFFFFF, pc := pc, st := st }
/-- The entry of the tests holds lane 0 alone. -/
def alone (s : State) : State := s.modWarp r0 fun w => { w with entries := w.entries.map fun e => { e with mask := 1 } }
/-- An answer that is a next state, decided. -/
def leads (o : Out) (t : State) : Bool := match o with | .next u => u == t | _ => false
/-- A test of the state that an answer gives. -/
def thenIs (o : Out) (f : State → Bool) : Bool := match o with | .next u => f u | _ => false
/-- A lane's work that was not held, with its result. -/
def got {α : Type} [BEq α] (x : Except State α) (y : α) : Bool := match x with | .ok z => z == y | .error _ => false
/-- A test of the warp of the tests. -/
def ofWarp (s : State) (f : Warp → Bool) : Bool := (s.warp? r0).any f
/-- A Halyard card of the warp of the tests, which waits for its number. -/
def card0 : Card :=
  { id := 7, core := 0, eng := 1, op := 0xB0, blk := 0, warp := 0, pc := 8, queued := false, recBlk := 0, recOff := 0, record := List.replicate 256 0,
    desc := [], guard := none, ticket := none, flag := some 3, dest := 256, tile := 0, started := false, foot := [], prog := 0, version := 0,
    waited := false, stat := [], scale := [], load := [], groups := 0, lost := [], pool := [], error := none, foreign := false, place := none, stayed := none, wrote := [] }

theorem test_witness_IntegerArithmetic : issues (placed 0x0170010203002001) (.iadd { g := gT, d := v 1, a := v 2, b := .reg (v 3), sat := true, u := true }) = true := by
  decide +kernel
/-- 04 R82: a signalling NaN operand with NV enabled raises it in every lane. -/
theorem test_witness_FpExceptionPartsItsLanes :
    let o : FBin := { g := gT, nf := false, bf := false, rm := .rne, sat := false, d := v 1, a := v 2, b := .reg (v 3) }
    let s := lanes (fun x => { x with fpctl := 0x1F }) (setV 2 (fun _ => 0x7F800001) (placed 0x3070010203000000))
    within s (fun c => issues s (.fadd o) && (fpTrapsOf c (.fadd o) false fun l =>
      resF (faddV .f32 .rne false (f32 (c.val o.a l)) (f32 (c.srcVal o.b l))) false).length == 32) = true := by decide +kernel
theorem test_witness_NaNAndSpecialResults : (f32 0x7FC00000).isNaN = true ∧ (f32 0x7F800001).isSig = true := by decide +kernel
theorem test_witness_NaNAndSpecialResults_invalid : f32 0xBFC00000 = .fin true 0xC00000 (-23) ∧
    (fval .f32 (faddV .f32 .rz true (.inf true) (.inf false)).bits).isNaN = true ∧ ffractV (f32 0xBFC00000) = { bits := 0x3F000000, fl := 0 } ∧
    fsqrtV .f32 .rz (f32 0xBFC00000) = { bits := 0x7FC00000, fl := flNV } ∧ frsqV 0xBFC00000 = { bits := 0x7FC00000, fl := flNV } := by decide +kernel
theorem test_witness_BranchesPartTheirLanes :
    let s := setV 7 (fun _ => 0) (setV 6 (fun l => if l < 16 then 0x40 else 0x80) (placed 0x8170000600000000))
    let b := placed 0x8078000000000004
    (within s fun c => issues s (.brx { g := gT, a := v 6 }) &&
      ends s c (.brx { g := gT, a := v 6 }) s [] [{ mask := 0xFFFF, pc := 0x40, st := .runnable }, { mask := 0xFFFF0000, pc := 0x80, st := .runnable }]) = true ∧
    (within b fun c => issues b (.bra { g := gT, off := 4 }) &&
      ends b c (.bra { g := gT, off := 4 }) b [] [all32 0x28 .runnable]) = true := by decide +kernel
theorem test_witness_CallsPushReturnsPop :
    let b := placed 0x8278000000000003
    let s := setV 7 (fun _ => 0) (setV 6 (fun l => if l < 16 then 0x40 else 0x80) (placed 0x8370000600000000))
    let t := lanes (fun x => { x with stack := [0x100] }) (placed 0x8470000000000000)
    let t1 := t.modWarp r0 fun w => { w with records := [{ ra := 0x100, groups := [], lanes := 0xFFFFFFFF, returned := 0, depths := List.replicate 64 0 }] }
    let e := placed 0x8470000000000000
    (within b fun c => issues b (.call { g := gT, off := 3 }) && (b.badTarget c.blk.core c.grid 0x20).isNone &&
      ends b c (.call { g := gT, off := 3 }) (lanes (fun x => { x with stack := 0x10 :: x.stack }) b) [] [all32 0x20 .runnable]) = true ∧
    (within s fun c => issues s (.callx { g := gT, a := v 6 }) && (s.badTarget c.blk.core c.grid 0x40).isNone && (s.badTarget c.blk.core c.grid 0x80).isNone &&
      ends s c (.callx { g := gT, a := v 6 }) ((lanes (fun x => { x with stack := 0x10 :: x.stack }) s).modWarp r0 fun w =>
        { w with records := [{ ra := 0x10, groups := [(0x40, 0xFFFF), (0x80, 0xFFFF0000)], lanes := 0xFFFFFFFF, returned := 0,
                               depths := List.replicate 64 0 }] })
        [] [{ mask := 0xFFFF, pc := 0x40, st := .runnable }, { mask := 0xFFFF0000, pc := 0x80, st := .waiting .callGroup }]) = true ∧
    (within t fun c => issues t (.ret { g := gT }) &&
      ends t c (.ret { g := gT }) (lanes (fun x => { x with stack := [] }) t) [] [all32 0x100 .runnable]) = true ∧
    (within t1 fun c => issues t1 (.ret { g := gT }) &&
      ends t1 c (.ret { g := gT }) ((lanes (fun x => { x with stack := [] }) t1).modWarp r0 fun w =>
        { w with records := w.records.map fun y => { y with returned := 0xFFFFFFFF } }) [] [all32 8 (.waiting .callReturned)]) = true ∧
    (within e fun c => issues e (.ret { g := gT }) &&
      ends e c (.ret { g := gT }) e ((List.range 32).map fun l => mkTrap l 0x0C 3 0 0) []) = true := by decide +kernel
/-- 16 slots of 8 bytes for each of 32 lanes, in the scratchpad. -/
def csView : View := { placedView (.nop { g := gT }) with rank := 3, etype := 6, ext := [16, 32, 1], str := [1, 16, 0] }
/-- Lane 0 alone, with a call-stack view. -/
def stacked (f : Lane → Lane) (s : State) : State :=
  ((alone s).modWarp r0 (·.modLane 0 f)).modGrid 0 fun g =>
    { g with kernel := { g.kernel with csview := some 5, views := g.kernel.views.set 5 csView } }
theorem test_witness_CallsPushReturnsPop_spill :
    let s := stacked (fun x => { x with stack := [0x80, 0x90, 0xA0, 0xB0], spilled := 2 }) (placed 0x8278000000000003)
    let q := stacked (fun x => { x with stack := [0x80, 0x90, 0xA0, 0xB0], spilled := 15 }) (placed 0x8278000000000003)
    let n := (stacked (fun x => { x with stack := [0x80, 0x90, 0xA0, 0xB0] }) (placed 0x8278000000000003)).modGrid 0 fun g => { g with kernel := { g.kernel with csview := none } }
    let e := (stacked (fun x => { x with spilled := 4 }) (placed 0x8470000000000000)).modBlock 0 fun k => { k with bytes := memPut k.bytes 16 (natLE 8 0xB0 ++ natLE 8 0xA0) }
    let o : BraOp := { g := gT, off := 3 }
    (within s fun c => issues s (.call o) && (s.badTarget c.blk.core c.grid 0x20).isNone && c.lanesFor (.call o) == [0] &&
      ends s c (.call o) ((s.modBlock 0 fun k => { k with bytes := memPut k.bytes 16 (natLE 8 0xB0 ++ natLE 8 0xA0) }).modWarp r0 (·.modLane 0 fun x =>
        { x with stack := [0x10, 0x80, 0x90], spilled := 4 })) [] [{ mask := 1, pc := 0x20, st := .runnable }]) = true ∧
    (within q fun c => issues q (.call o) && ends q c (.call o) q [mkTrap 0 0x0C 2 0 0] []) = true ∧
    (within n fun c => issues n (.call o) && ends n c (.call o) n [mkTrap 0 0x0C 4 0 0] []) = true ∧
    (within e fun c => issues e (.ret { g := gT }) && c.wp.records.isEmpty &&
      ends e c (.ret { g := gT }) (e.modWarp r0 (·.modLane 0 fun x => { x with stack := [0xB0], spilled := 2 })) [] [{ mask := 1, pc := 0xA0, st := .runnable }]) = true := by
  decide +kernel
theorem test_witness_JoinTrapBreakYieldPause :
    let j := placed 0x85780100000000C8
    let t := placed 0x8778000000001234
    let p := placed 0x8A78000000000000
    (within j fun c => issues j (.join { g := gT, pd := 1, t := 200 }) &&
      ends j c (.join { g := gT, pd := 1, t := 200 }) j [] [all32 8 (.waiting (.join 1 (some 200)))]) = true ∧
    (within t fun c => issues t (.trapw { g := gT, imm := 0x1234 }) &&
      ends t c (.trapw { g := gT, imm := 0x1234 }) t ((List.range 32).map fun l => mkTrap l 0x12 0 0 0x1234) []) = true ∧
    (within p fun c => issues p (.pause { g := gT, n := 0 }) && ends p c (.pause { g := gT, n := 0 }) p [] [all32 16 .runnable]) = true := by decide +kernel
theorem test_witness_ExitRetires :
    let s := placed 0x8670000000000000
    (within s fun _ => issues s (.exitw { g := gT }) && (endRegion s r0).2 &&
      match exec (.exitw { g := gT }) s with
      | .next t => ((t.warp? r0).map fun w => (w.lanes.all (·.retired)) && w.lanes.all fun l => l.binds.all (· == .unbound)).getD false
      | _ => false) = true := by decide +kernel
theorem test_witness_PredictionsAreCounted :
    let s := placed 0x8028000000000004
    let g : Guard := { neg := false, pred := 2 }
    let t := s.modWarp r0 fun w => { w with pred := some { pc := 8, predicted := 1, actual := 3 } }
    let y := s.modWarp r0 fun w => { w with hist := [(8, 0x10000000F)], lanes := w.lanes.map fun l => { l with p := l.p.set 2 { val := true, poison := false } } }
    (within s fun c => ((s.predict g).warp? c.r).any fun w => w.predCnt == 1 && w.pred == some { pc := 8, predicted := 0, actual := 0 } && w.hist == [(8, 0)]) = true ∧
    (within y fun c => c.ent.pc == 8 && ((y.predict g).warp? c.r).any fun w => w.pred == some { pc := 8, predicted := 0xF, actual := 0xFFFFFFFF } &&
      w.hist == [(8, 0xFFFFFFFF)] && w.control.hist.isEmpty && w.control.pred.isNone) = true ∧
    (match exec (.maskResolve r0) t with
     | .next x => (x.warp? r0).any fun w => w.mispCnt == 1 && w.replCnt == 1 && w.pred.isNone
     | _ => false) = true := by decide +kernel

/-- A core whose TLB maps the low gigabyte of context 0 onto itself. -/
def mapped (s : State) : State :=
  s.modCore 0 fun k => { k with tlb := [{ ctx := 0, va := 0, bits := 30, pa := 0, rd := true, wr := true, ex := true }] }
/-- Every lane's binding of L1. -/
def bindL1 (f : Nat → Bind) (s : State) : State := s.modWarp r0 (·.mapLanes (List.range 32) fun l x => x.setBind 1 (f l))
/-- A pinned line of address 0 with its registration. -/
def pinned0 (data : List Byte) (dirty : BitVec 128) (s : State) : State :=
  s.modWarp r0 fun w => { w with
    held := [{ line := 0, parked := false, pinned := true, data := data, dirty := dirty, stale := false, lost := false, home := 0 }],
    region := [{ line := 0, write := true }] }
/-- The line of address 0 held in mode .S. -/
def synced0 (s : State) : State :=
  s.modWarp r0 fun w => { w with
    held := [{ line := 0, parked := false, pinned := false, data := [], dirty := 0, stale := false, lost := false, home := 0 }] }
/-- The hypotheses of `OpenBindsItsLanes`, and its conclusion. -/
def openCase (s : State) (o : OpenOp) (i : Instr) (released : Ctx → List Nat) : Bool :=
  within s fun c => issues s i && !c.ent.retry &&
    match releaseIn s c.r o.ln (released c) with
    | none => false
    | some s1 =>
      let (xs, s2) := openLanes s1 c o c.helpers ((List.range 64).filter fun l => (c.lanesFor i).contains l || c.helpers.contains l)
      match s2.warp? c.r with
      | none => false
      | some w =>
        let need := openNeeds xs
        let f := fit w c.kern.exact (s2.lendable c.r.b c.blk.core) (need.map fun x => (x.1, vlineOf x.2.1))
        xs.length == 1 && (xs.all fun x => match x.2 with | .need _ _ => true | _ => false) && f.blocked.isEmpty &&
          (need.all fun x => !s2.badSector (lineOf x.2.2) (x.2.1.toNat % 128)) &&
          match bindAll (bindPlain (s2.modWarp c.r (·.takeFit f)) c o xs) c o w need with
          | .ok (s4, []) =>
            ends s c i (s4.modWarp c.r (·.returnLoans)) [] [] && ((s4.warp? c.r).any fun v =>
              (need.all fun x => (v.lane x.1).bind o.ln == .bound (vlineOf x.2.1) o.v o.mode (cursorOf x.2.1.toNat) &&
                (v.held? (vlineOf x.2.1)).any fun h => !h.parked && (o.mode == .s || h.pinned)) &&
              (v.lane 5).bind o.ln == .unbound)
          | _ => false
theorem test_witness_OpenBindsItsLanes :
    let o : OpenOp := { g := gT, mode := .w, ln := 3, v := 5, b := v 8 }
    let p : OpenOp := { g := gT, mode := .s, ln := 3, v := 5, b := r 8 }
    openCase (alone (mapped (setV 8 (fun l => BitVec.ofNat 32 (4 * l)) (placed 0x9070030508000001)))) o (.openl o) (fun c => List.range c.wp.lanes.length) = true ∧
    openCase (alone (mapped (setS 8 1023 (placed 0x9170030508000404)))) p (.reopen p) (fun c => c.lanesFor (.reopen p) ++ c.helpers) = true := by
  decide +kernel
/-- A context whose view 5 has the given fields, with coordinate `x` in s8. -/
def viewed (c : Ctx) (f : View → View) : Ctx := { c with kern := { c.kern with views := c.kern.views.map f } }
theorem test_witness_OpenChecksInOrder :
    let o : OpenOp := { g := gT, mode := .r, ln := 3, v := 5, b := r 8 }
    let at_ (x : W32) : State := mapped (setS 8 x (placed 0x9070030508000400))
    (within (at_ 1024) fun c => (c.kern.view 5).space == 0 && openLane (at_ 1024) c o false 0 == (.trap (mkTrap 0 7 0 0 0), at_ 1024)) = true ∧
    (within (at_ 0xFFFFFFFF) fun c => openLane (at_ 0xFFFFFFFF) (viewed c fun y => { y with oobZero := true }) o false 0 == (.zero 0x1FFFFFFFFFFFF80 0x7C, at_ 0xFFFFFFFF)) = true ∧
    (within (at_ 1023) fun c => openLane (at_ 1023) (viewed c fun y => { y with rd := false }) o false 0 == (.trap (mkTrap 0 9 0 4092 0), at_ 1023)) = true ∧
    (within (at_ 1023) fun c => (openLane (at_ 1023) c o false 0).1 == .need 4092 4092) = true := by decide +kernel
theorem test_witness_RecallFlushPrefetchAndQueries :
    let b : Nat → Bind := fun _ => .bound 0 5 .rw 4
    let s (w : Nat) : State := mapped (pinned0 (List.replicate 128 7) 0xF0 (bindL1 b (placed w)))
    let o : LineOp := { g := gT, ln := 1 }
    (within (s 0x9270010000000000) fun c => issues (s 0x9270010000000000) (.recall o) &&
      match releaseIn (s 0x9270010000000000) c.r o.ln (List.range c.wp.lanes.length) with
      | some u => ends (s 0x9270010000000000) c (.recall o) u [] [] && (u.warp? r0).any fun w => w.lanes.all fun l => l.bind 1 == .unbound
      | none => false) = true ∧
    (within (s 0x9370010000000000) fun c => issues (s 0x9370010000000000) (.flushl o) &&
      match writeBackLines (s 0x9370010000000000) c.r (c.wp.heldIn o.ln (List.range c.wp.lanes.length)) with
      | (u, false) => ends (s 0x9370010000000000) c (.flushl o) u [] [] && memGet u.mem 4 == 7 && memGet u.mem 3 == 0
      | _ => false) = true := by decide +kernel
theorem test_witness_WriteBackSendsTheDirtyBytes :
    let s : State := mapped (pinned0 (List.replicate 128 7) 0xF0 (placed 0x9370010000000000))
    let h : HeldLine := { line := 0, parked := false, pinned := true, data := List.replicate 128 7, dirty := 0xF0, stale := false, lost := false, home := 0 }
    (Memory.wf s.mem && h.dirty != 0 && h.data.length == 128 && (s.cached { core := s.coreOf 0, lane := none } (s.ctxOf 0) h.line).any (·.wr) &&
      !s.unreachable (s.ctxOf 0) 0) = true ∧
    (match writeBackLine s r0 h with
     | (t, .done) => t.mem == [(4, 7), (5, 7), (6, 7), (7, 7)] && (t.warp? r0).any fun w => w.held == [{ h with dirty := 0 }]
     | _ => false) = true := by decide +kernel
theorem test_witness_HeldLinesAreReadAndWritten :
    let s (w : Nat) (m : Mode) : State := mapped (pinned0 (List.replicate 128 0x85) 0 (bindL1 (fun l => .bound 0 5 m (BitVec.ofNat 7 (4 * l))) (placed w)))
    let ld : LdlOp := { g := gT, sz := 0, d := 2, ln := 1, off := .imm 0, sx := false, ord := .rlx, scp := .blk }
    let st : StlOp := { g := gT, sz := 2, d := v 2, ln := 1, off := .imm 3, ord := .rlx, scp := .blk }
    let a := s 0x9470020100000000 .rw
    let b := s 0x9572020100000003 .w
    (within a fun c => issues a (.ldl ld) && c.helpers.isEmpty &&
      (List.range 32).all (fun l => (c.wp.lane l).bind 1 == .bound 0 5 .rw (BitVec.ofNat 7 (4 * l)) &&
        ((c.wp.held? 0).any fun h => h.pinned && !h.parked && !h.stale && !h.lost && h.home == 0) && c.wp.registered 0 false) &&
      ends a c (.ldl ld) (a.modWarp c.r fun w => w.mapLanes (List.range 32) fun _ x => x.setVs 2 [{ val := 0x85858585, poison := false }]) [] []) = true ∧
    (within b fun c => issues b (.stl st) &&
      ends b c (.stl st) (b.modWarp c.r fun w => { w with held := w.held.map fun h => { h with
        data := (List.range 128).map fun k => if k % 4 = 3 then 0 else 0x85,
        dirty := 0x88888888888888888888888888888888 } }) [] []) = true := by decide +kernel
theorem test_witness_SyncAccessesActAtTheHome :
    let s (w : Nat) : State := mapped (synced0 (bindL1 (fun l => .bound 0 5 .s (BitVec.ofNat 7 (4 * l))) (placed w)))
    let ld : LdlOp := { g := gT, sz := 0, d := 2, ln := 1, off := .imm 0, sx := false, ord := .acq, scp := .dev }
    let st : StlOp := { g := gT, sz := 0, d := v 2, ln := 1, off := .imm 0, ord := .rlx, scp := .blk }
    let at_ : AtomlOp := { g := gT, pair := false, op := 0, d := 4, ln := 1, b := v 2, ord := .rlx, scp := .dev }
    let a := (s 0x94700201000B0000).putBytes 124 [1, 2, 3, 4]
    let b := setV 2 (fun _ => 5) (s 0x9570020100000000)
    let y := (setV 2 (fun _ => 5) (s 0x9670040102030000)).putBytes 0 [1]
    (within a fun c => issues a (.ldl ld) && (endRegion a c.r).2 && (endRegion a c.r).1 == a && (a.conflict c.r 0 true true).isNone && !a.badRange 124 4 &&
      ends a c (.ldl ld) (a.modWarp c.r fun w => w.mapLanes (List.range 32) fun l x =>
        x.setVs 2 [{ val := if l = 31 then 0x04030201 else 0, poison := false }]) [] []) = true ∧
    (within b fun c => issues b (.stl st) && (c.kern.view 5).wr &&
      ends b c (.stl st) (b.modWarp c.r fun w =>
        { w with stores := (List.range 32).map fun l => { pa := 4 * l, bytes := [5, 0, 0, 0] } }) [] []) = true ∧
    (within y fun _ => issues y (.atoml at_) &&
      match exec (.atoml at_) y with
      | .next t => t.bytes 0 4 == [6, 0, 0, 0] && t.bytes 124 4 == [5, 0, 0, 0] && (t.warp? r0).any fun w => (w.lane 0).v[4]? == some { val := 1, poison := false }
      | _ => false) = true := by decide +kernel
/-- The lines that L3 of `openCase` needs, one for each of two lanes, and a warp with quota 1 whose core has no pool. -/
def splitCase (exact : Bool) : State :=
  let s := mapped (setV 8 (fun l => BitVec.ofNat 32 (32 * l)) (placed 0x9070030508000001))
  (s.modGrid 0 fun g => { g with kernel := { g.kernel with exact := exact } }).modWarp r0 fun w =>
    { w with quota := 1, entries := w.entries.map fun e => { e with mask := 3 } }
theorem test_witness_OpenBindsItsLanes_split :
    let o : OpenOp := { g := gT, mode := .w, ln := 3, v := 5, b := v 8 }
    let s := splitCase true
    (within s fun c => issues s (.openl o) &&
      match releaseIn s c.r 3 (List.range c.wp.lanes.length) with
      | none => false
      | some s1 =>
        let (xs, s2) := openLanes s1 c o c.helpers ((List.range 64).filter fun l => (c.lanesFor (.openl o)).contains l || c.helpers.contains l)
        match s2.warp? c.r with
        | none => false
        | some w =>
          let f := fit w c.kern.exact (s2.lendable c.r.b c.blk.core) ((openNeeds xs).map fun x => (x.1, vlineOf x.2.1))
          f == { bound := [0], blocked := [1], loaned := 0, split := true } && !c.helpers.contains 1 &&
          match bindAll (bindPlain (s2.modWarp c.r (·.takeFit f)) c o xs) c o w ((openNeeds xs).filter fun x => f.bound.contains x.1) with
          | .ok (_, []) =>
            thenIs (exec (.openl o) s) fun t => ofWarp t fun v => v.splitCnt == 1 && (v.lane 0).bind 3 == .bound 0 5 .w 0 && (v.lane 1).bind 3 == .unbound &&
              v.entries.any fun e => e.mask == 2 && e.st == .capBlocked && e.pc == 8
          | _ => false) = true ∧
    ofWarp s (fun w => fit w false 5 [(0, 0), (1, 128)] == { bound := [0, 1], blocked := [], loaned := 1, split := false } &&
      fit w true 5 [(0, 0), (1, 128)] == { bound := [0], blocked := [1], loaned := 0, split := true } && w.heldCount == 0 && w.quota == 1) = true := by
  decide +kernel
/-- Two blocks of context 0 on core 0: word `w` in hand in the second, and a region of the first that holds line 0. -/
def rivals (w : Nat) (write : Bool) : State :=
  match fetchNext ((State.reset.withFetchWord 64 0x0070000000000000).withFetchWord 64 w) with
  | some (_, t) => (mapped t).modWarp r0 fun y => { y with cur := none, region := [{ line := 0, write := write }] }
  | none => State.reset
theorem test_witness_OpenChecksInOrder_conflicts :
    let o : OpenOp := { g := gT, mode := .w, ln := 3, v := 5, b := r 8 }
    let s := rivals 0x9070030508000401
    let q : WarpRef := { b := 1, w := 0 }
    let f : State := { s false with blocks := (s false).blocks.map fun k => { k with warps := k.warps.map fun w => { w with region := [] } },
                                    cards := [{ card0 with started := true, foot := [(.line 0, true)] }] }
    ((s true).ctxOf 0 != sysCtx && (s true).ctxOf 1 != sysCtx && (s true).conflict q 0 true true == some (4, 0) &&
      (s true).conflict q 0 false false == some (3, 0) && (s true).conflict q 0 true false == some (2, 0) &&
      (s false).conflict q 0 true false == some (1, 0) && ((s false).conflict q 0 false false).isNone) = true ∧
    (f.conflict q 0 false false == some (5, auxCard 0 1)) = true ∧
    (within (s true) fun c => c.r == q && c.wp.region.isEmpty && (s true).flush q 0 == s true && !(s true).mustQueue q c.wp 0 &&
      got (bindLane (s true) c o c.wp 4 0 0) (s true, some (mkTrap 4 0x0A 2 0 0))) = true := by decide +kernel
theorem test_witness_HeldLinesAreReadAndWritten_stops :
    let s (w : Nat) (f : Nat → Bind) (m : LaneMask) : State := (bindL1 f (placed w)).modWarp r0 fun w => { w with entries := w.entries.map fun e => { e with mask := m } }
    let ld : LdlOp := { g := gT, sz := 0, d := 2, ln := 1, off := .imm 0, sx := false, ord := .rlx, scp := .blk }
    let st : StlOp := { g := gT, sz := 2, d := v 2, ln := 1, off := .imm 3, ord := .rlx, scp := .blk }
    let a := s 0x9470020100000000 (fun l => match l with | 0 => .unbound | 1 => .bound 128 5 .w 8 | 2 => .bound 0 5 .rw 2 | _ => .zero 256 5 .wz 4) 15
    let b := s 0x9572020100000003 (fun l => match l with | 0 => .poisoned 128 5 .r 0 | _ => .bound 256 5 .r 1) 3
    let z : Nat → Bind := fun _ => .zero 256 5 .rw 4
    let p : Nat → Bind := fun l => .poisoned (BitVec.ofNat 57 (128 + 4 * l)) 5 .rw 4
    (within a fun c => issues a (.ldl ld) && c.helpers.isEmpty &&
      ends a c (.ldl ld) a [mkTrap 0 5 0 0 0, mkTrap 1 9 0 136 0, mkTrap 2 6 0 0 2, mkTrap 3 9 0 260 0] []) = true ∧
    (within b fun c => issues b (.stl st) && ends b c (.stl st) b [c.wp.poisonTrap 0 1, mkTrap 1 9 0 260 0] []) = true ∧
    (within (s 0x9470020100000000 z 3) fun c => issues (s 0x9470020100000000 z 3) (.ldl ld) &&
      ends (s 0x9470020100000000 z 3) c (.ldl ld) ((s 0x9470020100000000 z 3).modWarp r0 fun w => w.mapLanes [0, 1] fun _ x => x.setVs 2 [zeroPW]) [] []) = true ∧
    (within (s 0x9572020100000003 z 3) fun c => issues (s 0x9572020100000003 z 3) (.stl st) &&
      ends (s 0x9572020100000003 z 3) c (.stl st) (s 0x9572020100000003 z 3) [] []) = true ∧
    (within (s 0x9470020100000000 p 3) fun c => issues (s 0x9470020100000000 p 3) (.ldl ld) &&
      ends (s 0x9470020100000000 p 3) c (.ldl ld) ((s 0x9470020100000000 p 3).modWarp r0 fun w => w.mapLanes [0, 1] fun l x =>
        Lane.setVs { x with origin := some (BitVec.ofNat 57 (128 + 4 * l)) } 2 [poisonPW]) [] []) = true := by decide +kernel
/-- A word in hand for lane 0 alone, whose L1 is bound in mode .RW to line 0, held as `f` changes it, with a region. -/
def lineWord (w : Nat) (f : HeldLine → HeldLine) (g : List Registration) : State :=
  (alone (mapped (pinned0 (List.replicate 128 0x85) 0xF (bindL1 (fun _ => .bound 0 5 .rw 4) (placed w))))).modWarp r0 fun w =>
    { w with held := w.held.map f, region := g }
/-- Lane 0's access to line 0 in a state. -/
def access0 (s : State) (write : Bool) : AccRes Unit :=
  match s.ctx? with
  | some c => pinnedAccess s c 0 0 4 write
  | none => .held s
theorem test_witness_HeldLinesAreReadAndWritten_registers :
    let ld : LdlOp := { g := gT, sz := 0, d := 2, ln := 1, off := .imm 0, sx := false, ord := .rlx, scp := .blk }
    let st : StlOp := { g := gT, sz := 0, d := v 2, ln := 1, off := .imm 0, ord := .rlx, scp := .blk }
    let l := 0x9470020100000000
    let a := (lineWord l id []).putBytes 4 [1, 2, 3, 4]
    let b := lineWord 0x9570020100000000 id [{ line := 0, write := false }]
    let no (s : State) : State := s.modCore 0 fun k => { k with tlb := [] }
    let y := (rivals l true).modWarp { b := 1, w := 0 } fun w => { w with
      lanes := w.lanes.map fun x => x.setBind 1 (.bound 0 5 .rw 4), entries := w.entries.map fun e => { e with mask := 1 },
      held := [{ line := 0, parked := false, pinned := true, data := List.replicate 128 7, dirty := 0, stale := false, lost := false, home := 0 }] }
    (within a fun c => issues a (.ldl ld) && c.lanesFor (.ldl ld) == [0] && c.wp.holds 0 && match access0 a false with
      | .ok _ u => (ofWarp u fun w => w.registered 0 false && !w.registered 0 true && (w.held? 0).any fun h => !h.stale && h.home == 0) &&
        ends a c (.ldl ld) (u.setVs r0 0 2 [{ val := 0x04030201, poison := false }]) [] []
      | _ => false) = true ∧
    (within b fun c => issues b (.stl st) && match access0 b true with
      | .ok _ u => (ofWarp u fun w => w.registered 0 true) && ends b c (.stl st) (storeHeld u r0 0 4 [0, 0, 0, 0]) [] []
      | _ => false) = true ∧
    (within (no a) fun c => access0 (no a) false == .trap (mkTrap 0 9 0 4 3) (no a) && ends (no a) c (.ldl ld) (no a) [mkTrap 0 9 0 4 3] []) = true ∧
    (within y fun c => c.r == { b := 1, w := 0 } && issues y (.ldl ld) && !y.mustQueue c.r c.wp 0 &&
      (match y.conflict c.r 0 false false, access0 y false with
       | some (3, aux), .trap t u => t == mkTrap 0 0x0A 3 4 aux && ends y c (.ldl ld) u [t] []
       | _, _ => false)) = true := by decide +kernel
theorem test_witness_HeldLinesAreReadAndWritten_parked :
    let ld : LdlOp := { g := gT, sz := 0, d := 2, ln := 1, off := .imm 0, sx := false, ord := .rlx, scp := .blk }
    let l := 0x9470020100000000
    let a := (lineWord l (fun h => { h with parked := true, stale := false }) []).putBytes 4 [1, 2, 3, 4]
    let q := (a.modWarp r0 fun w => { w with quota := 0 }).modGrid 0 fun g => { g with kernel := { g.kernel with exact := true } }
    let z := lineWord l (fun h => { h with lost := true }) []
    (within a fun c =>
      let f := fit c.wp c.kern.exact (a.lendable 0 0) [(0, 0)]
      f.blocked.isEmpty && !c.wp.holds 0 && c.wp.pins 0 && match repinLine (a.modWarp r0 (·.takeFit f)) r0 0 0 with
        | some t =>
          let u := t.modWarp r0 Warp.release
          (ofWarp u fun w => (w.held? 0).any fun h => !h.parked && h.dirty == 0xF && h.data.take 8 == [0x85, 0x85, 0x85, 0x85, 1, 2, 3, 4]) &&
            (match access0 u false with
             | .ok _ x => ends a c (.ldl ld) (x.setVs r0 0 2 [{ val := 0x04030201, poison := false }]) [] []
             | _ => false)
        | none => false) = true ∧
    (within q fun c =>
      let f := fit c.wp c.kern.exact (q.lendable 0 0) [(0, 0)]
      f.blocked == [0] && ends q c (.ldl ld) ((q.modWarp r0 (·.takeFit f)).modWarp r0 Warp.release) [] [{ mask := 1, pc := 8, st := .capBlocked }]) = true ∧
    (within z fun c => ends z c (.ldl ld) (z.modWarp r0 fun w => { w with held := w.held.map HeldLine.found }) [mkTrap 0 0x0F 3 0 0] []) = true := by decide +kernel
theorem test_witness_HeldLinesAreReadAndWritten_helpers :
    let ld : LdlOp := { g := gT, sz := 0, d := 2, ln := 1, off := .imm 0, sx := false, ord := .rlx, scp := .blk }
    let l := 0x9470020100000000
    let a := lineWord l (fun h => { h with parked := true }) []
    let none_ := a.modCore 0 fun k => { k with tlb := [] }
    let h := (lineWord l id [{ line := 0, write := true }]).modGrid 0 fun g => { g with kernel := { g.kernel with quad := true } }
    let hp := h.modWarp r0 fun w => { w with lanes := w.lanes.modify 1 fun x => { x with retired := true } }
    ((repinLine none_ r0 0 0).any fun u => ofWarp u fun w => (w.held? 0).isNone && (w.lane 0).bind 1 == .poisoned 4 5 .rw 4) = true ∧
    (within hp fun c => c.helpers == [1] && issues hp (.ldl ld) && ends hp c (.ldl ld) (hp.modWarp r0 fun w =>
      w.mapLanes [0, 1] fun _ x => x.setVs 2 [{ val := 0x85858585, poison := false }]) [] []) = true := by decide +kernel
theorem test_witness_SyncAccessesActAtTheHome_stops :
    let s (w : Nat) (f : Nat → Bind) (m : LaneMask) : State := (mapped (bindL1 f (placed w))).modWarp r0 fun w => { w with entries := w.entries.map fun e => { e with mask := m } }
    let st : StlOp := { g := gT, sz := 0, d := v 2, ln := 1, off := .imm 0, ord := .rlx, scp := .blk }
    let ato : AtomlOp := { g := gT, pair := false, op := 0, d := 4, ln := 1, b := v 2, ord := .rlx, scp := .dev }
    let a := s 0x9670040102030000 (fun l => match l with
      | 0 => .unbound | 1 => .bound 0 5 .s 2 | 2 => .zero 256 5 .s 4 | 3 => .bound 128 5 .rw 8 | 4 => .poisoned 384 5 .r 0 | _ => .poisoned 384 5 .s 0) 63
    let b := (s 0x9570020100000000 (fun _ => .bound 0 5 .s 4) 1).modGrid 0 fun g =>
      { g with kernel := { g.kernel with views := g.kernel.views.map fun y => { y with wr := false } } }
    (within a fun c => issues a (.atoml ato) && ends a c (.atoml ato) a
      [mkTrap 0 5 0 0 0, mkTrap 1 6 0 0 2, mkTrap 2 9 0 260 0, mkTrap 3 9 0 136 0, mkTrap 4 9 0 384 0, c.wp.poisonTrap 5 2] []) = true ∧
    (within b fun c => issues b (.stl st) && ends b c (.stl st) b [mkTrap 0 9 0 4 0] []) = true ∧
    (let y := rivals 0x9570020100000000 true
     within y fun c => syncAccess y c 3 0 4 4 false true == .trap (mkTrap 3 0x0A 4 4 0) y) = true := by decide +kernel
/-- 21 R395: the sector at 64 stays marked until the writes of a card cover it whole. -/
theorem test_card_covers_sector :
    let s : State := { State.reset with bad := [32, 64], cards := [card0] }
    let put (s : State) (k : Nat) : State := cardPut s card0 (64 + 8 * k) (List.replicate 8 1)
    (put (put (put s 0) 3) 1).bad = [32, 64] ∧ (put (put (put (put s 0) 3) 1) 2).bad = [32] := by decide +kernel
/-- 21 R395: a fill that meets a marked sector leaves the lane Poisoned. -/
theorem test_witness_OpenBindsItsLanes_marked :
    let s : State := { mapped (placed 0x9070030508000401) with bad := [0] }
    let o : OpenOp := { g := gT, mode := .rw, ln := 3, v := 5, b := r 8 }
    (within s fun c => let (t, x) := register (s.flush r0 0) r0 0 (modeWrites .rw)
      x == .ok && t.badSector 0 4 && (t.warp? r0).isSome && fills c.wp 0 .rw &&
      got (bindLane s c o c.wp 3 4 4) (t.setBind r0 3 3 (.poisoned 4 5 .rw 4), none)) = true := by decide +kernel

/-- Bytes put into the scratchpad of block 0. -/
def pad (off : Nat) (bs : List Byte) (s : State) : State := s.modBlock 0 fun k => { k with bytes := memPut k.bytes off bs }
theorem test_witness_ScratchpadElements :
    let s := pad 0x20 [0x80, 1, 2, 3] (setV 3 (fun l => BitVec.ofNat 32 (8 + l)) (placed 0xA070020903000000))
    let o : LdsOp := { g := gT, sz := 0, d := 2, v := 9, b := v 3 }
    let st : StsOp := { g := gT, sz := 0, d := v 3, v := 9, b := v 3 }
    let far := setV 3 (fun _ => 1024) s
    (within s fun c => scratchElem s c (c.kern.view 9) (v 3) 0 == .place 0 0x20 && (s.scratchConflict c.r 0 0x20 true).isNone &&
      (ldsLane o c s 0 == .ok () (s.setVs r0 0 2 [{ val := 0x03020180, poison := false }])) &&
      stsLane st c s 1 == .ok () (pad 0x24 [9, 0, 0, 0] s)) = true ∧
    (within far fun c => scratchElem far c (c.kern.view 9) (v 3) 0 == .outside 0 && ldsLane o c far 0 == .trap (mkTrap 0 7 0 0 0) far) = true := by
  decide +kernel
theorem test_witness_ScratchpadElements_stops :
    let s := setV 3 (fun l => BitVec.ofNat 32 (8 + l)) (placed 0xA070020903000000)
    let o : LdsOp := { g := gT, sz := 0, d := 2, v := 9, b := v 3 }
    let st : StsOp := { g := gT, sz := 0, d := v 3, v := 9, b := v 3 }
    let at_ : AtomsOp := { g := gT, pair := false, op := 0, ord := .rlx, gang := false, d := 4, v := 9, b := v 3, c := v 2 }
    let si : SigaOp := { g := gT, scp := .blk, v := 9, b := v 3, c := v 2 }
    let far := setV 3 (fun _ => 1024) s
    let bad := s.modWarp r0 (·.mapLanes [0] fun _ x => x.setV 3 { val := 8, poison := true })
    let dat := s.modWarp r0 (·.mapLanes [0] fun _ x => x.setV 2 { val := 8, poison := true })
    let f : State := { s with cards := [{ card0 with started := true, foot := [(.scratch 0 0, true)] }] }
    let gang (s : State) : State := s.modGrid 0 fun g => { g with kernel := { g.kernel with views := g.kernel.views.map fun y => { y with space := 2 } } }
    let in0 := setV 4 (fun _ => 0) (gang s)
    let out1 := setV 4 (fun _ => 1) (gang s)
    (within far fun c => stsLane st c far 0 == .trap (mkTrap 0 7 0 0 0) far && atomsLane at_ c far 0 == .trap (mkTrap 0 7 0 0 0) far &&
      sigaLane si c far 0 == .trap (mkTrap 0 7 0 0 0) far && ldsmLane o 8 c far 0 == .trap (mkTrap 0 7 0 0 0) far) = true ∧
    (within s fun c => ldsmLane o 16 c s 1 == .trap (mkTrap 1 7 0 0 6) s && ldsmLane o 16 c s 0 == .ok () (s.setVs r0 0 2 (List.replicate 4 zeroPW))) = true ∧
    (within bad fun c => scratchElem bad c (c.kern.view 9) (v 3) 0 == .poison && ldsLane o c bad 0 == .trap (c.wp.poisonTrap 0 6) bad &&
      stsLane st c bad 0 == .trap (c.wp.poisonTrap 0 6) bad) = true ∧
    (within dat fun c => atomsLane at_ c dat 0 == .trap (c.wp.poisonTrap 0 2) dat &&
      stsLane { st with d := v 2 } c dat 0 == .trap (c.wp.poisonTrap 0 1) dat) = true ∧
    (within f fun c => f.scratchConflict c.r 0 0x20 true == some (auxCard 0 1) && stsLane st c f 0 == .trap (mkTrap 0 0x0A 5 0x20 (auxCard 0 1)) f &&
      ldsLane o c f 0 == .trap (mkTrap 0 0x0A 5 0x20 (auxCard 0 1)) f && atomsLane at_ c f 0 == .trap (mkTrap 0 0x0A 5 0x20 (auxCard 0 1)) f) = true ∧
    (within in0 fun c => scratchElem in0 c (c.kern.view 9) (v 3) 0 == .place 0 0x20 && gangBlock in0 c.blk.grid c.blk.lin c.kern.gang 0 == some 0) = true ∧
    (within out1 fun c => scratchElem out1 c (c.kern.view 9) (v 3) 0 == .outside 5) = true := by decide +kernel
theorem test_witness_ScratchpadWordsRunTheirLanes :
    let s := alone (setV 3 (fun l => BitVec.ofNat 32 l) (placed 0xA170030903000000))
    let o : StsOp := { g := gT, sz := 0, d := v 3, v := 9, b := v 3 }
    (within s fun c => issues s (.sts o) && match eachLane (stsLane o c) (c.lanesFor (.sts o)) s with
      | .ok (u, ts) => ts.isEmpty && ends s c (.sts o) u ts []
      | .error _ => false) = true := by decide +kernel
theorem test_witness_MessageRingsFillAndDrain :
    let s (tail : Byte) := pad 0x40 ([0, 0, 0, 0, tail, 0, 0, 0, 2, 0, 32, 0] ++ List.replicate 4 0) (setV 4 (fun _ => 7) (setV 2 (fun _ => 16) (placed 0xAD70010902040000)))
    let o : SendOp := { g := gT, n1 := 0, pd := 1, v := 9, b := v 2, c := v 4 }
    let q : RingadvOp := { g := gT, d := v 1, v := 9, b := v 2, c := v 4 }
    (within (s 1) fun c => scratchElem (s 1) c (c.kern.view 9) (v 2) 0 == .place 0 0x40 && (((s 1).ring 0 0x40).check 0x40 1).isNone &&
      sendLane o c (s 1) 0 == .ok () ((pad 0x44 [2, 0, 0, 0] (pad (0x50 + 32) [4, 0, 0, 0, 7, 0, 0, 0] (s 1))).modWarp r0
        (·.modLane 0 (·.setPred 1 { val := true, poison := false })))) = true ∧
    (within (s 2) fun c => sendLane o c (s 2) 0 == .ok () ((pad 0x4C [1, 0, 0, 0] (s 2)).modWarp r0
        (·.modLane 0 (·.setPred 1 { val := false, poison := false }))) &&
      ringadvLane q none c (s 2) 0 == .ok () ((pad 0x40 [2, 0, 0, 0] (s 2)).setVs r0 0 1 [{ val := 2, poison := false }])) = true := by
  decide +kernel
theorem test_witness_WaitsAndFencesComplete :
    let s (x : W32) := setV 6 (fun _ => x) (setV 7 (fun _ => 100) (placed 0xA470010903060000))
    let o : WaitaOp := { g := gT, cmp := 0, scp := .blk, pd := 1, v := 9, b := v 3, c := v 6 }
    let f := placed 0xAC78000000000A05
    (within (s 0) fun c => issues (s 0) (.waita o) && (endRegion (s 0) c.r).2 &&
      ends (s 0) c (.waita o) (lanes (·.setPred 1 { val := false, poison := false }) (s 0)) [] []) = true ∧
    (within (alone (s 1)) fun c => ends (alone (s 1)) c (.waita o) (alone (s 1)) [] [{ mask := 1, pc := 8, st := .waiting (.waita
        [{ lane := 0, blk := 0, off := 0, cmp := 0, c := 1, sat := false }] 1 (some 100)) }]) = true ∧
    (within f fun c => ends f c (.waitf { g := gT, mask := 0xA05 }) f [] []) = true ∧
    (let g := f.modWarp r0 fun w => { w with flags := w.flags.set 11 1 }
     within g fun c => ends g c (.waitf { g := gT, mask := 0xA05 }) g [] [all32 8 (.waiting (.waitf 0xA05))]) = true := by decide +kernel
theorem test_witness_BarriersPass :
    let s := setS 5 33 (placed 0xA97000000500040E)
    let o : BarOp := { g := gT, k := 6, n := some 5 }
    let p : BarOp := { g := gT, k := 6, n := none }
    let z := setS 5 0 s
    let q := placed 0xA970000000000006
    let gb := placed 0xAB70000000000003
    (within s fun c => issues s (.bar o) && ends s c (.bar o)
        (s.modBlock 0 fun k => { k with bars := k.bars.set 6 { count := 32, arrived := 1, phase := false, nfix := some 33 } }) []
        [all32 8 (.waiting (.barrier 6 false))]) = true ∧
    (within z fun c => ends z c (.bar o) z ((List.range 32).map fun l => mkTrap l 2 0 0 0) []) = true ∧
    (within q fun c => issues q (.bar p) && ends q c (.bar p)
        (q.modBlock 0 fun k => { k with bars := k.bars.set 6 { count := 0, arrived := 0, phase := true, nfix := none } }) [] []) = true ∧
    (within gb fun c => issues gb (.gbar { g := gT, k := 3 }) && (gangOf gb 0).contains 0 && ends gb c (.gbar { g := gT, k := 3 })
        (gb.modBlock 0 fun k => { k with gbars := k.gbars.set 3 { count := 0, arrived := 0, phase := true, nfix := none } }) [] []) = true := by
  decide +kernel
theorem test_witness_ByteBarriers :
    let s (h : Byte) := pad 0x40 [5, 0, 0, 0, 0, 0, 0, h] (setV 4 (fun _ => 1) (setV 2 (fun _ => 8) (placed 0xAA70000902040001)))
    let o : BarbWaitOp := { g := gT, v := 9, b := v 2, c := v 4 }
    let po : BarbPostOp := { g := gT, d := 3, v := 9, b := v 2, c := v 4 }
    (within (s 0) fun c => issues (s 0) (.barbWait o) && scratchElem (s 0) c (c.kern.view 9) (v 2) 0 == .place 0 0x40 &&
      ends (s 0) c (.barbWait o) (s 0) [] [] &&
      barbPostLane po c (s 0) 0 == .ok () ((pad 0x40 [6, 0, 0, 0, 0, 0, 0, 0x40] (s 0)).setVs r0 0 3 [{ val := 0, poison := false }])) = true ∧
    (within (alone (s 0x20)) fun c => ends (alone (s 0x20)) c (.barbWait o) (alone (s 0x20)) [] [{ mask := 1, pc := 8, st := .waiting (.barb
        [{ lane := 0, blk := 0, off := 0x40, q := true, word := 0xAA70000902040001 }]) }]) = true ∧
    (within (s 0x80) fun c => ends (s 0x80) c (.barbWait o) (s 0x80) ((List.range 32).map fun l => mkTrap l 0x0D 0 0 0) []) = true ∧
    (({ count := 2 ^ 31 - 2, high := 0 } : BarbRec).post 1).isSome = true ∧ (({ count := 2 ^ 31 - 1, high := 0 } : BarbRec).post 1).isNone = true := by
  decide +kernel

/-- Four bytes of a word. -/
def w4 (x : Nat) : List Byte := natLE 4 x
/-- A box of `n` elements from `org` in view 0 (11 Table 11.3). -/
def box (head org n : Nat) : List Byte := w4 head ++ w4 org ++ List.replicate 16 0 ++ w4 n ++ w4 1 ++ w4 1 ++ w4 1 ++ w4 1 ++ w4 0
/-- A CPY record: 4 elements from element 0 to element 128 of view 0, with STATUS written (11 Tables 11.2, 11.3). -/
def copyRec : List Byte := w4 4 ++ List.replicate 60 0 ++ box 0x100 0 4 ++ box 0x180 128 4 ++ List.replicate 96 0
theorem test_witness_CardWordsEnqueueTheirCard :
    let s := pad 0x300 copyRec (setS 2 0xC0 (placed 0xB070000402000400))
    let o : CpyOp := { g := gT, eng := 0, t := none, v := 4, b := r 2, gm := none }
    (within s fun c => issues s (.cpy o) && !(c.wp.coords o.b (c.kern.view o.v) (c.first (.cpy o))).2 &&
      match readRecord s c (c.kern.view o.v) (c.wp.coords o.b (c.kern.view o.v) (c.first (.cpy o))).1 256 256, readDesc s c 0xB0 copyRec with
      | .ok 0 0x300 rb, .ok 0 0 [] =>
        rb == copyRec && (recordFail c.kern 0xB0 rb [] (flagOf c).isSome false).isNone &&
          (let card := newCard c (cpyWord 0xB0 o) (flagOf c) 0 0x300 rb []
           (endRegionLines s c.r [] []).2 && hasRoom s card && ends s c (.cpy o) (enqueue s card) [] [] &&
             (let f : State := { s with cards := (List.range 64).map fun k => { card with id := k, queued := true } }
              !hasRoom f card && ends f c (.cpy o) { f with cards := f.cards ++ [{ card with id := 0 }], nextCard := 1 } []
                [{ mask := c.ent.mask, pc := 8, st := .waiting (.cardRoom 0) }]))
      | _, _ => false) = true := by decide +kernel
theorem test_witness_CardWordsRefuseBadRecords :
    let o : CpyOp := { g := gT, eng := 0, t := none, v := 4, b := r 2, gm := none }
    let p := (setS 2 0xC0 (placed 0xB070000402000400)).modWarp r0 (·.setSs 2 [{ val := 0xC0, poison := true }])
    let m := setS 2 0xC1 (placed 0xB070000402000400)
    let z := setS 2 0xC0 (placed 0xB070000402000400)
    (within p fun c => (c.wp.coords o.b (c.kern.view o.v) (c.first (.cpy o))).2 &&
      ends p c (.cpy o) p ((List.range 32).map fun l => c.wp.poisonTrap l 4) []) = true ∧
    (within m fun c => readRecord m c (c.kern.view o.v) [0xC1] 256 256 == .trap 7 0 0 6 &&
      ends m c (.cpy o) m ((List.range 32).map fun l => mkTrap l 7 0 0 6) []) = true ∧
    (within z fun c => recordFail c.kern 0xB0 (List.replicate 256 0) [] (flagOf c).isSome o.t.isSome == some (1, 0x41) &&
      ends z c (.cpy o) z ((List.range 32).map fun l => mkTrap l 0x0E 1 0 0x41) []) = true ∧
    (let rb := w4 0 ++ List.replicate 60 0 ++ box 0x100 0 4 ++ List.replicate 144 0
     let db := List.replicate 320 0
     within z fun c => isKv 0xC2 && (spotFail c.kern rb).isNone && descFail c.kern db == some 0x8000 &&
       recordFail c.kern 0xC2 rb [] false false == some (1, 0x8000) && recordFail c.kern 0xC2 rb db false false == some (1, 0x8000)) = true := by
  decide +kernel
theorem test_witness_QueuesTakeCards :
    let s := placed 0xB070000402000400
    (within s fun c =>
      let card := newCard c { op := 0xB0, eng := 1, v := 4, b := r 2, gm := none, dest := 7 } (some 3) 0 0x300 copyRec []
      let t := enqueue s card
      (s.cores[0]?).any (fun k => k.iss.length == 4) && t.mem == s.mem && t.nextCard == 1 && (t.cards.map (·.ticket)) == [some 1] &&
        ((t.cores[0]?).any fun k => k.iss == [0, 1, 0, 0]) && (t.warp? r0).any fun w => w.flags[3]? == some 1 && w.s[7]? == some { val := 1, poison := false }) = true := by
  decide +kernel
theorem test_witness_EngineCommands :
    let gs := placed 0xB4780C0000000001
    let ew := setS 7 1 (placed 0xB570000307000400)
    let ml := placed 0xB978000000000040
    let mz := placed 0xBB70060000030004
    let held (s : State) : State := s.modCore 0 fun k => { k with holder := some 0 }
    let gset : GsetOp := { g := gT, slot := 12, b := .imm 1 }
    (within gs fun c => issues gs (.gset gset) && (c.blk.guards[12]?).getD .unset == .unset &&
      ends gs c (.gset gset) (gs.modBlock 0 fun k => { k with guards := k.guards.set 12 .isTrue }) [] []) = true ∧
    (within ew fun c => issues ew (.engwait { g := gT, e := 3, b := .reg (r 7) }) && !ticketDone ew 0 3 1 && ticketDone ew 0 3 0 && ticketDone ew 0 3 0x80000001 &&
      ends ew c (.engwait { g := gT, e := 3, b := .reg (r 7) }) ew [] [all32 8 (.waiting (.engwait 3 1))]) = true ∧
    (within ml fun c => ends ml c (.mmalease { g := gT, n := 64 }) (ml.modCore 0 fun y => { y with reqs := [(0, 64)] }) [] [all32 8 (.waiting .mmaLease)]) = true ∧
    (within (held ml) fun c => ends (held ml) c (.mmalease { g := gT, n := 64 }) ((held ml).modCore 0 fun y => { y with lease := 64 }) [] []) = true ∧
    (within mz fun c =>
      let card : Card := { newCard c { op := 0xBB, eng := 4, v := 0, b := { s := false, n := 0 }, gm := some 3, dest := 256 } (flagOf c) 0 0 (List.replicate 256 0) [] with tile := 6 }
      issues mz (.mmazero { g := gT, acc := 6, gm := some 3 }) && hasRoom mz card && ends mz c (.mmazero { g := gT, acc := 6, gm := some 3 }) (enqueue mz card) [] []) = true := by
  decide +kernel

/-- Page tables of context 0 that map its low gigabyte onto the bottom of local memory, all rights (19 R337-R340, R345). -/
def tabled (s : State) : State :=
  (({ s with tctl := { s.tctl with ctxtbase := 0x10000000 } }.putBytes 0x10000000 (natLE 8 0x10200001)).putBytes 0x10200000
    (natLE 8 0x10400001)).putBytes 0x10400000 (natLE 8 0x1F)
/-- A kernel header: gang 1, 8 registers, quota 8, no view, handler at address 0 (13 Table 13.4). -/
def header : List Byte := w4 0x00080001 ++ w4 0x08000000 ++ w4 0x00FF0000 ++ List.replicate 52 0
/-- An object header with one kernel, whose header follows it (13 Table 13.3). -/
def objHeader : List Byte := w4 0x59444843 ++ w4 0x30000 ++ w4 1 ++ w4 0 ++ w4 0 ++ w4 0x40 ++ w4 0 ++ w4 4096 ++ List.replicate 32 0
/-- The node table of context 0 with one node: 32 threads, records of 16 bytes, threshold `thr` (20 R363, Table 20.4). -/
def noded (thr : Nat) (s : State) : State :=
  (({ s with nodetab := [(0, 0x20000000)] }.putBytes 0x20000000 (natLE 8 (2 ^ 57 + 0x1000) ++ natLE 8 0 ++ natLE 8 32 ++ w4 (16 + 256 * (thr - 1)))).putBytes
    0x1000 objHeader).putBytes 0x1040 header
theorem test_witness_LaunchAndEmit :
    let rec_ : List Byte := w4 0 ++ w4 0 ++ w4 3 ++ w4 2 ++ w4 1 ++ List.replicate 108 0
    let s := tabled ((pad 0x80 rec_ (setV 2 (fun _ => 32) (placed 0xC970010402000000))).putBytes 0 header)
    let o : LaunchOp := { g := gT, pd := 1, v := 4, b := v 2 }
    let e (thr : Nat) := alone (noded thr (tabled (placed 0xC870010200040803)))
    let eo : EmitOp := { g := gT, n1 := 3, pd := 1, h := 2, c := v 4 }
    (within s fun c => issues s (.launch o) && !(c.wp.coords o.b (c.kern.view o.v) 0).2 &&
      readRecord s c (c.kern.view o.v) (c.wp.coords o.b (c.kern.view o.v) 0).1 128 128 == .ok 0 0x80 rec_ && (launchFail s c rec_).isNone &&
      (let child := childGrid s c rec_
       (s.badTarget c.blk.core child child.kernel.entry).isNone && child.gx == 3 && child.gy == 2 && child.kernel.nv == 8) && (endRegion s c.r).2 &&
      pendingRoom s c.blk.core && c.blk.grid < s.grids.length &&
      match exec (.launch o) s with
      | .next t => t.grids.length == 2 && ((t.dies[0]?).any fun d => d.pending == 1) && (t.grids.map (·.waits)) == [[1], []] &&
          (t.warp? r0).any fun w => ((w.lane 0).pred 1).val && !((w.lane 1).pred 1).val
      | _ => false) = true ∧
    (within (e 2) fun c => issues (e 2) (.emit eo) && ((e 2).node? 0 0).any (fun d => d.fits && d.thr == 2 && d.recb == 16) &&
      match exec (.emit eo) (e 2) with
      | .next t => t.nodes == [{ ctx := 0, node := 0, cycle := 0, grid := c.blk.grid, die := 0, bytes := List.replicate 16 0 }] && t.grids.length == 1
      | _ => false) = true ∧
    (within (e 1) fun _ => ((e 1).node? 0 0).any (fun d => d.fits && d.thr == 1) &&
      match exec (.emit eo) (e 1) with
      | .next t => t.nodes.isEmpty && t.grids.length == 2 && ((t.grids[1]?).any fun g => g.threads == 32 && g.gx == 1)
      | _ => false) = true := by decide +kernel

theorem test_witness_CsrWords :
    let s := (placed 0xD070050000200000).modCore 0 id
    let k := { s with cycle := 0x500000007 }
    let w := setV 3 (fun l => BitVec.ofNat 32 (100 + l)) (placed 0xD170000300410000)
    let p := setV 3 (fun l => BitVec.ofNat 32 l) (placed 0xD170000308900000)
    let wd := setS 3 19 ((placed 0xDF78000000000003).modWarp r0 fun x => { x with cur := x.cur.map fun y => { y with word := 0xD170000308900800 } })
    (within k fun c => issues k (.csrr { g := gT, d := v 5, csr := 0x020 }) && c.helpers.isEmpty && (csrTrap c 0x020 false).isNone &&
      ends k c (.csrr { g := gT, d := v 5, csr := 0x020 }) (k.modWarp r0 (·.mapLanes (List.range 32) fun _ l =>
        { (l.setVs 5 [{ val := 7, poison := false }]) with cycleH := 5 })) [] []) = true ∧
    (within w fun c => issues w (.csrw { g := gT, csr := 0x041, a := v 3 }) &&
      ends w c (.csrw { g := gT, csr := 0x041, a := v 3 }) (w.modWarp r0 fun x => { x with mispCnt := 131 }) [] []) = true ∧
    (within p fun c => !c.kern.priv && ends p c (.csrw { g := gT, csr := 0x890, a := v 3 }) p ((List.range 32).map fun l => mkTrap l 9 0 0 0) []) = true ∧
    (within wd fun c => c.kern.priv && issues wd (.csrw { g := gT, csr := 0x890, a := r 3 }) &&
      ends wd c (.csrw { g := gT, csr := 0x890, a := r 3 }) (wd.modDie 0 fun d => { d with wdlim := 40 }) [] []) = true := by decide +kernel
theorem test_witness_RegistersByNumber :
    let s := setV 255 (fun l => BitVec.ofNat 32 l) (placed 0xD2780300000000FF)
    let q := lanes (·.setPred 0 { val := true, poison := false }) (placed 0xD278030000000100)
    let t := placed 0xD278030000000108
    let w := setV 9 (fun _ => 262) (setV 3 (fun _ => 1) (placed 0xD370000309000000))
    let o (n : W32) : RdregOp := { g := gT, d := 3, b := .imm n }
    (within s fun c => issues s (.rdreg (o 255)) && c.helpers.isEmpty && ends s c (.rdreg (o 255)) (setV 3 (fun l => BitVec.ofNat 32 l) s) [] []) = true ∧
    (within q fun c => ends q c (.rdreg (o 256)) (setV 3 (fun _ => 1) q) [] []) = true ∧
    (within t fun c => ends t c (.rdreg (o 264)) t ((List.range 32).map fun l => mkTrap l 2 0 0 264) []) = true ∧
    (within w fun c => issues w (.wrreg { g := gT, b := .reg (v 9), a := v 3 }) &&
      ends w c (.wrreg { g := gT, b := .reg (v 9), a := v 3 }) (lanes (·.setPred 6 { val := true, poison := false }) w) [] []) = true ∧
    (let h := (lanes (fun l => { l with handler := true }) s).modBlock 0 fun k => { k with bytes := memPut k.bytes (k.frames + 0x1C) [5] }
     within h fun c => issues h (.rdreg (o 255)) && (c.wp.lane 0).handler && c.kern.nv == 256 &&
       match exec (.rdreg (o 255)) h with
       | .next t => (t.warp? r0).any fun w => (w.lane 0).v[3]? == some { val := 5, poison := false } && (w.lane 1).v[3]? == some zeroPW
       | _ => false) = true := by decide +kernel
theorem test_witness_CodeInvalidationWaits :
    let s := setS 6 1 (setS 4 0xFFF (placed 0xD570000406000C00))
    let z := placed 0xD570000406000C00
    (within s fun c => issues s (.cinv { g := gT, a := 4, b := 6 }) &&
      ends s c (.cinv { g := gT, a := 4, b := 6 }) s [] [all32 8 (.waiting (.cinv 0 0x1000))]) = true ∧
    (within z fun c => ends z c (.cinv { g := gT, a := 4, b := 6 }) z [] []) = true := by decide +kernel
/-- A user block whose warp has no clause in progress, and word `w` in hand in a block of privileged code. -/
def beside (w : Nat) : State :=
  match fetchNext (((State.reset.withFetchWord 64 0x0070000000000000).modWarp r0 fun x => { x with cur := none }).withFetchWord 64 w) with
  | some (_, t) => t
  | none => State.reset
/-- The privileged warp. -/
def r1 : WarpRef := { b := 1, w := 0 }
/-- An s-register of the privileged warp set. -/
def setS1 (n : Nat) (x : W32) (s : State) : State := s.modWarp r1 (·.setSs n [{ val := x, poison := false }])
theorem test_witness_PrivilegedWordsOnContexts :
    let hb := setS1 2 0xFFFFFFFF (beside 0xD870000102000C00)
    let rb := (setS1 2 0 (beside 0xD970000102000C00)).modBlock 0 fun k => { k with halted := true }
    let dr := setS1 2 143 (beside 0xDD70050102000C00)
    let cv := beside 0xDF78000000000003
    (within hb fun c => issues hb (.haltb { g := gT, a := 1, b := 2 }) && hb.ctxOf c.r.b == 512 && c.wp.reg (Reg.sc 1) 0 == zeroPW &&
      match exec (.haltb { g := gT, a := 1, b := 2 }) hb with
      | .next t => ((t.blocks.map (·.halted)) == [true, false]) && (t.ctxInfo 0).noPlace && (t.warp? r1).any fun w => w.entries.all fun e => e.pc == 16
      | _ => false) = true ∧
    (within rb fun _ => issues rb (.resumeb { g := gT, a := 1, b := 2 }) &&
      match exec (.resumeb { g := gT, a := 1, b := 2 }) rb with
      | .next t => (t.blocks.map (·.halted)) == [false, false]
      | _ => false) = true ∧
    (within dr fun c => issues dr (.drain0 { g := gT, d := v 5, a := 1, b := 2 }) && ends dr c (.drain0 { g := gT, d := v 5, a := 1, b := 2 }) dr [] []) = true ∧
    (within cv fun c => issues cv (.callcv { g := gT, imm := 3 }) &&
      ends cv c (.callcv { g := gT, imm := 3 }) cv [] [{ mask := c.ent.mask, pc := 8, st := .waiting (.chervil 3) }]) = true := by decide +kernel
theorem test_witness_PrivilegedWordsOnContexts_discard :
    let x : Card := { card0 with queued := true, ticket := some 1, recOff := 0x300, record := copyRec }
    let s : State := { setS1 2 0 (beside 0xDD70050102000C00) with cards := [x], nextCard := 8 }
    let y : State := { s with cards := [{ x with started := true }] }
    let o : DrainOp := { g := gT, d := v 5, a := 1, b := 2 }
    (within s fun c => issues s (.drain0 o) && (s.cards.filter fun z => z.queued && z.core == 0 && s.ctxOf z.blk == 0 && !z.started) == [x] &&
      drainDiscard s 0 0 == completeCard (releaseSlot s x) x 2 0 && (drainDiscard s 0 0).cards.isEmpty &&
      ends s c (.drain0 o) (drainDiscard s 0 0) [] [] && match exec (.drain0 o) s with
      | .next t => t.scratchWord 0 0x314 == 2 && t.cards.isEmpty
      | _ => false) = true ∧
    (within y fun c => ends y c (.drain0 o) y [] [{ mask := c.ent.mask, pc := 8, st := .waiting (.drain 0 0 false (v 5)) }]) = true := by decide +kernel
theorem test_witness_PrivilegedWordsOnWarps :
    let ready (s : State) : State := (s.modBlock 0 fun k => { k with halted := true }).modWarp r0 fun w => { w with
      lanes := w.lanes.map fun l => l.setV 7 { val := 99, poison := true } }
    let rd := setS1 2 7 (ready (beside 0xDA70050102030C00))
    let o : RdwregOp := { g := gT, d := 5, h := 1, b := r 2, c := v 3 }
    let no := setS1 1 0x01000000 rd
    (within rd fun c => issues rd (.rdwreg o) && c.helpers.isEmpty && (rd.handle? 0) == some r0 &&
      match exec (.rdwreg o) rd with
      | .next t => (t.warp? r1).any fun w => (c.lanesFor (.rdwreg o)).all fun l => (w.lane l).v[5]? == some { val := 99, poison := false }
      | _ => false) = true ∧
    (within no fun c => (no.handle? 0x01000000).isNone &&
      ends no c (.rdwreg o) no ((c.lanesFor (.rdwreg o)).map fun l => mkTrap l 9 0 0 0) []) = true ∧
    (let wr := setS1 5 77 (ready (beside 0xDB70050102031800))
     within wr fun _ => issues wr (.wrwreg { g := gT, d := r 5, h := 1, b := v 2, c := v 3 }) &&
       match exec (.wrwreg { g := gT, d := r 5, h := 1, b := v 2, c := v 3 }) wr with
       | .next t => (t.warp? r0).any fun w => (w.lane 0).v[0]? == some { val := 77, poison := false } && (w.lane 1).v[0]? == some zeroPW
       | _ => false) = true ∧
    (let rl := (ready (beside 0xDC70050102030A00)).modWarp r0 fun w =>
       { w with lanes := w.lanes.map (·.setBind 0 (.bound 0x80 5 .rw 4)),
                held := [{ line := 0x80, parked := false, pinned := true, data := List.replicate 128 7, dirty := 0, stale := false, lost := false, home := 0x80 }] }
     within rl fun c => issues rl (.rdline { g := gT, d := 5, h := 1, b := v 2, c := r 3 }) && (rl.target? 0 0).isSome &&
       match exec (.rdline { g := gT, d := 5, h := 1, b := v 2, c := r 3 }) rl with
       | .next t => (t.warp? r1).any fun w => (c.lanesFor (.rdline { g := gT, d := 5, h := 1, b := v 2, c := r 3 })).all fun l =>
           (w.lane l).v[5]? == some { val := 0x07070707, poison := false }
       | _ => false) = true := by decide +kernel
theorem test_witness_WordsThatFailDecodeTrap :
    let u := (placed 0x0070000000000000).modWarp r0 fun x => { x with cur := x.cur.map fun y => { y with hdr := 0x4000000000000000 } }
    let e := placed 0xE070000000000000
    let b := placed 0x0170010203000002
    let bad := u
    (within u fun c => !c.kern.priv && ends u c (.haltb { g := gT, a := 1, b := 2 }) u ((List.range 32).map fun l => mkTrap l 9 0 0 0) []) = true ∧
    (within e fun c => ends e c (.illegalOpcode 0xE070000000000000) e ((List.range 32).map fun l => mkTrap l 1 0 0 0) []) = true ∧
    (within b fun c => (match decodeWord 0x0170010203000002 with | .error _ => true | .ok _ => false) &&
      endsAs (runWord 0x0170010203000002 b) c b ((List.range 32).map fun l => mkTrap l 2 0 0 0) []) = true ∧
    (within bad fun c => !classAdmits (unpackHeader c.cur.hdr).cls.toNat 0x01 c.isLast &&
      ends bad c (.iadd { g := gT, d := v 1, a := v 2, b := .reg (v 3), sat := false, u := false }) bad ((List.range 32).map fun l => mkTrap l 3 0 0 0) []) = true := by
  decide +kernel
theorem test_witness_ReturnFromHandler :
    let s := placed 0xD478000000000008
    let o : TretOp := { adj := true }
    let h := (lanes (fun l => { l with handler := true, tf := { l.tf with pc := 0x20 } }) s).modWarp r0 fun w =>
      { w with entries := w.entries.map fun e => { e with handler := true } }
    let p := h.modWarp r0 fun w => { w with entries := (w.entries.map fun e => { e with mask := 0xFFFF }) ++
      (w.entries.map fun e => { e with mask := 0xFFFF0000, pc := 0x40 }) }
    (within s fun c => issues s (.tret o) && c.isLast && ends s c (.tret o) s ((List.range 32).map fun l => mkTrap l 9 0 0 0) []) = true ∧
    (within p fun c => c.ent.handler && (c.wp.entries.all fun e => e.atTret.isNone) && c.wp.handlerMask &&& ~~~ maskOf (c.lanesFor (.tret o)) != 0 &&
      ends p c (.tret o) p [] [{ mask := 0xFFFF, pc := 8, st := .waiting (.tret 8) }]) = true ∧
    (within (h) fun c => c.wp.handlerMask &&& ~~~ maskOf (c.lanesFor (.tret o)) == 0 &&
      match exec (.tret o) h with
      | .next t => (t.warp? r0).any fun w => w.lanes.all (fun l => !l.handler) && w.entries.any fun e => e.pc == 0x28 && e.mask == 0xFFFFFFFF && e.st == .runnable && !e.handler
      | _ => false) = true := by decide +kernel

/-- The grid of block 0 with a handler at 0x20. -/
def handled (s : State) : State := s.modGrid 0 fun g => { g with kernel := { g.kernel with handler := some 0x20 } }
/-- The entry of the tests trap-parked at its word, between clauses. -/
def parkedWith (code : Nat) (s : State) : State := s.modWarp r0 fun w => { w with
  cur := none, entries := w.entries.map fun e => { e with st := .trapParked ((List.range 32).map fun l => mkTrap l code 0 0 5) 0x8778000000000005 } }
theorem test_witness_TakingAHandledTrap :
    let s := handled (parkedWith 0x12 (setV 248 (fun l => BitVec.ofNat 32 l) (placed 0x8778000000000005)))
    let t := takeHandler s r0 0
    (((s.blocks[0]?).bind fun b => s.grids[b.grid]?).any fun g => (s.badTarget 0 g 0x20).isNone) = true ∧ (endRegion s r0).2 = true ∧
    ((t.warp? r0).any fun w => w.entries.all (fun e => e.pc == 0x20 && e.handler && e.st == .runnable) &&
      (w.lane 31).tf == { pc := 8, code := 0x12, word := 0x8778000000000005, addr := 0, mask := 0xFFFFFFFF, aux := 5 }) = true ∧
    ((t.blocks[0]?).any fun b => memBytes b.bytes (frameAt b 0 31) 4 == [31, 0, 0, 0]) = true := by decide +kernel
theorem test_witness_DeliveryChoosesTheLowestLane :
    let s := parkedWith 0x12 (placed 0x8778000000000005)
    let h := handled s
    let c := handled (parkedWith 4 (placed 0x8778000000000005))
    let no := (placed 0x8778000000000005).modWarp r0 fun w => { w with cur := none }
    ((s.kernelOf? 0).any fun k => !k.priv && (s.warp? r0).any fun w => w.entries.any fun e => e.faults k && !e.memoryError) = true ∧
    ((h.kernelOf? 0).any fun k => (h.warp? r0).any fun w => w.entries.all (fun e => !e.faults k) && !w.inHandler && w.firstParked == some 0 && w.cur.isNone) = true ∧
    ((c.kernelOf? 0).any fun k => (c.warp? r0).any fun w => w.entries.any fun e => e.faults k) = true ∧
    ((no.warp? r0).any fun w => w.firstParked.isNone) = true ∧ s.going 0 = true := by decide +kernel
theorem test_witness_PrivilegedTraps :
    let s (scont : W32) := (parkedWith 0x12 (placed 0xDF78000000000003)).modWarp r0 fun w => { w with scont := scont }
    (((takePrivileged (s 0x40) r0 0).warp? r0).any fun w => w.snest == 1 && w.entries.all fun e => e.pc == 0x40 && e.st == .runnable) = true ∧
    (((takePrivileged (s 0) r0 0).blocks[0]?).any fun b => b.place == .gone) = true ∧ (takePrivileged (s 0) r0 0).log.length = 1 ∧
    (endRegion (s 0x40) r0).2 = true ∧ (endRegion (s 0) r0).2 = true := by decide +kernel

/-- The entry of the tests changed, with no clause in progress. -/
def ent (f : Entry → Entry) (s : State) : State := s.modWarp r0 fun w => { w with cur := none, entries := w.entries.map f }
/-- The entry of the tests waits. -/
def waiting (x : Wait) (s : State) : State := ent (fun e => { e with st := .waiting x }) s
/-- The entry of the tests. -/
def e0 : EntryRef := { b := 0, w := 0, e := 0 }
/-- A block with no clause in progress and a NOP where its entry stands. -/
def idle0 : State := ent id (placed 0x0070000000000000)
/-- A tag of page 0 with its code, interlocked. -/
def tag0 (bs : List Byte) : Tag :=
  { secver := 0, stepping := 0, sobj := false, sgn := false, il := true, ctx := 0, page := 0, nblk := 1, start := 0, bytes := memPut [] 0 bs }
/-- Code of page 0 in the cache of die 0, as interlocked code. -/
def coded (bs : List Byte) (s : State) : State :=
  (s.modGrid 0 fun g => { g with il := true }).modDie 0 fun d => { d with tags := d.tags ++ [tag0 bs] }
theorem test_witness_WarpEventsComplete_waits :
    let s := waiting .clauseWait (coded (natLE 8 (2 ^ 44)) idle0)
    let j := { (idle0.modWarp r0 fun w => { w with cur := none, entries :=
      (w.entries.map fun e => { e with mask := 0xFFFF, st := .waiting (.join 2 (some 50)) }) ++ (w.entries.map fun e => { e with mask := 0xFFFF0000, pc := 0x40 }) }) with cycle := 51 }
    let a := { waiting (.waita [{ lane := 3, blk := 0, off := 0, cmp := 0, c := 1, sat := true }, { lane := 4, blk := 0, off := 0, cmp := 0, c := 1, sat := false }]
      2 (some 50)) idle0 with cycle := 51 }
    let p := { waiting (.pause 50) idle0 with cycle := 50 }
    let o := { ent (fun e => { e with age := 4096 }) idle0 with cycle := 50 }
    let many := idle0.modWarp r0 fun w => { w with entries := (List.range 18).flatMap fun k => w.entries.map fun e => { e with mask := 1, pc := BitVec.ofNat 64 (8 * k) } }
    ((ofWarp s fun w => w.entries.all fun e => s.entryWait? 0 e == some 1) = true ∧ ofWarp s (flagsClear · 1) = true ∧
      leads (exec (.clauseWaitPass e0) s) (ent (fun e => { e with st := .runnable, woken := true }) s) = true) ∧
    (leads (exec (.entryPromote e0) o) ((ent (fun e => { e with promoted := some 0 }) o).modWarp r0 fun w => { w with promotions := 1 }) = true ∧
      ofWarp many (fun w => (w.markOverflow.entries.map (·.overflow)) == List.replicate 16 false ++ [true, true]) = true) ∧
    (ofWarp j (fun w => (w.entries[0]?).any fun x => w.awaited &&& ~~~ w.lanesBy (fun y => x.besides y && y.joins) != 0) = true ∧ j.still 0 = false ∧
      leads (exec (.joinTimeout e0) j) (j.modWarp r0 fun w =>
        { w.mapLanes (List.range 16) (fun _ l => l.setPred 2 { val := true, poison := false }) with
          entries := w.entries.modify 0 fun e => { e with st := .runnable, pc := 16, woken := true } }) = true) ∧
    ((endRegion a r0).2 = true ∧ (endRegion a r0).1 = a ∧ leads (exec (.waitaTimeout e0) a)
      ((ent (fun e => { e with st := .runnable, pc := 16, woken := true, since := 51 }) a).modWarp r0
        (·.mapLanes [3, 4] fun i l => l.setPred 2 { val := i == 4, poison := false })) = true) ∧
    (leads (exec (.pauseExpire e0) p) (ent (fun e => { e with st := .runnable, woken := true }) p) = true) := by decide +kernel
theorem test_witness_WarpEventsComplete_blocks :
    let c := ent (fun e => { e with st := .capBlocked }) idle0
    let m := (waiting .migration idle0).modWarp r0 fun w => { w with ending := true, region := [{ line := 0, write := true }] }
    let d := { idle0 with cycle := 2 ^ 26 }
    let w := { waiting (.waitf 1) idle0 with cycle := 2 ^ 26 }
    let err : WarpErr := { trap := mkTrap 0 0x0E 2 0x80 5, pc := some 0x40 }
    let x := idle0.modWarp r0 fun v => { v with errs := [err] }
    (c.going 0 = true ∧ (c.kernelOf? 0).isSome = true ∧ ofWarp c (fun v => v.entries.all fun e => !e.runs) = true ∧
      thenIs (exec (.capacityRetry e0) c) (fun t => ofWarp t fun v => v.entries.all fun e => e.st == .runnable && e.retry) = true) ∧
    ((endRegion m r0).2 = true ∧ migrating m 0 = false ∧ m.still 0 = false ∧ thenIs (exec (.regionEndComplete r0) m) (fun t => ofWarp t fun v => v.region.isEmpty && !v.ending &&
      v.entries.all fun e => e.st == .runnable && e.pc == 8) = true) ∧
    (d.going 0 = true ∧ (d.wdlim? 0 == some 26) = true ∧ thenIs (exec (.watchdogWarp r0) d) (fun t => ofWarp t fun v => v.entries.all fun e => e.pc == 8 &&
      (match e.st with | .trapParked ts _ => ts == (List.range 32).map (fun l => mkTrap l 0x13 1 0 26) | _ => false)) = true) ∧
    (thenIs (exec (.watchdogEntry e0) w) (fun t => ofWarp t fun v => v.entries.all fun e => e.pc == 8 &&
      (match e.st with | .trapParked ts _ => ts == (List.range 32).map (fun l => mkTrap l 0x13 2 0 26) | _ => false)) = true) ∧
    (ofWarp x (fun v => v.awaited != 0 && (v.entryOf (lowest v.awaited)).isSome && !v.lanes.all (·.retired)) = true ∧
      thenIs (exec (.engineErrorDeliver r0) x) (fun t => ofWarp t fun v => v.errs.isEmpty && v.entries.all fun e => e.pc == 0x40 &&
        (match e.st with | .trapParked ts _ => ts == (List.range 32).map (fun l => mkTrap l 0x0E 2 0x80 5) | _ => false) &&
        v.lanes.all fun l => l.tf.pc == 0x40 && l.tf.mask == 0xFFFFFFFF && l.tf.code == 0x20E && l.tf.addr == 0x80 && l.tf.aux == 5) = true) := by decide +kernel
theorem test_witness_WarpEventsComplete_calls :
    let i := waiting (.cinv 0 0x1000) (coded (natLE 8 0) idle0)
    let q := { waiting (.cardRoom 7) idle0 with cards := [card0], nextCard := 8 }
    let v (n : W32) := setS 0 0 (setS 1 7 (waiting (.chervil n) idle0))
    let w := beside 0xDF78000000000003
    let two := waiting (.waitf 1) (w.modWarp r0 fun x => { x with active := true })
    let sw := (two.modBlock 1 fun b => { b with grid := 0 }).modWarp r1 fun x => { x with slot := 0 }
    let sw2 := (sw.modWarp r1 fun x => { x with active := false, cur := none }).modWarp r0 fun x => { x with flags := x.flags.set 0 1 }
    (leads (exec (.cinvComplete r0) i) ((ent (fun e => { e with st := .runnable, pc := 16, woken := true }) i).modDie 0 fun d => { d with tags := [] }) = true) ∧
    (hasRoom q card0 = true ∧ thenIs (exec (.cardEnqueueResume e0) q) (fun t => (t.cards.map fun c => (c.id, c.queued, c.ticket)) == [(8, true, some 1)] &&
      ofWarp t fun x => x.flags[3]? == some 1 && x.entries.all fun e => e.pc == 16 && e.st == .runnable) = true) ∧
    (thenIs (exec (.chervilAnswer r0) (v 3)) (fun t => ofWarp t fun x => (x.s.take 2).map (·.val) == [0, 1] && x.entries.all fun e => e.pc == 16) = true) ∧
    (thenIs (exec (.chervilAnswer r0) (v 2)) (fun t => t.log == [natLE 4 0 ++ natLE 4 7 ++ List.replicate 24 0]) = true) ∧
    (thenIs (exec (.chervilAnswer r0) (v 9)) (fun t => ofWarp t fun x => (x.s.take 2).map (·.val) == [0xFFFFFFFF, 7]) = true) ∧
    (thenIs (exec (.chervilAnswer r0) (v 0)) (fun t => ofWarp t fun x => (x.s.take 2).map (·.val) == [0xFFFFFFFF, 7]) = true) ∧
    (thenIs (exec (.chervilAnswer r0) (v 1)) (fun t => ofWarp t fun x => (x.s.take 2).map (·.val) == [0, 7] && x.entries.all fun e => e.pc == 16) = true) ∧
    (let d : State := { setS 2 1 (v 1) with dump := some { ctx := 0, grid := 9 }, ctxs := [(0, { part := none, life := .dumping, noPlace := true, signed := [] })] }
     thenIs (exec (.chervilAnswer r0) d) (fun t => t.reports == [.dumpDone 0 0x100000007]) = true) ∧
    (sw2.going 1 = true ∧ firstReady sw2 r1 = true ∧ ofWarp sw2 (fun x => x.swappable && !sw2.resolves r0 x) = true ∧ ((slotActive sw2 0 0).map (·.1)) = [r0] ∧
      leads (exec (.warpSwap r0 r1) sw2) ((sw2.modWarp r0 fun x => { x with active := false }).modWarp r1 fun x => { x with active := true }) = true) := by
  decide +kernel

/-- A queued card of the tests that copies 4 elements of view 0. -/
def copyCard : Card := { card0 with queued := true, ticket := some 1, recOff := 0x300, record := copyRec }
/-- A state with one card, and what it copies in the scratchpad. -/
def carded (c : Card) (s : State) : State := pad 0 [1, 2, 3] { s with cards := [c], nextCard := 8 }
/-- A record with a byte barrier at element 64 of view 1, bits `head` in its head word (11 Table 11.2). -/
def barrierRec (head : Nat) : List Byte :=
  w4 head ++ w4 0 ++ w4 0x100 ++ w4 0 ++ w4 64 ++ List.replicate 44 0 ++ box 0x100 0 4 ++ box 0x180 128 4 ++ List.replicate 96 0
/-- The kernel's view 0 in memory. -/
def inMemory (s : State) : State := s.modGrid 0 fun g => { g with kernel := { g.kernel with views := g.kernel.views.map fun y => { y with space := 0 } } }
theorem test_witness_EngineEventsComplete_starts :
    let gd := { copyCard with guard := some 2 }
    let f := (carded gd idle0).modBlock 0 fun k => { k with guards := k.guards.set 2 .isFalse }
    let t := (carded gd idle0).modBlock 0 fun k => { k with guards := k.guards.set 2 .isTrue }
    let m := idle0.modCore 0 fun k => { k with reqs := [(0, 5), (1, 9), (0, 7)] }
    let h : State := { idle0 with tables := [{ ctx := 0, tid := 4, vers := [], hot := [1] }] }
    ((f.queuedCard? 7 == some gd) && inOrder f gd && thenIs (exec (.cardStart 7) f) (fun u => u == discardCard f gd && u.cards.isEmpty &&
      u.scratchWord 0 0x314 == 2 && u.scratchWord 0 512 == 0) = true) ∧
    ((clearOfEarlier t gd && match registerFoots t (withPool t gd) with
      | .ok c2 u => c2 == { gd with started := true, foot := [(.scratch 0 0, false), (.scratch 0 4, true)] } && leads (exec (.cardStart 7) t)
          (releaseSlot (putCard u c2) c2)
      | _ => false) = true) ∧
    (let q : Card := { copyCard with id := 5, op := 0xB3, record := barrierRec 0x26, started := true }
     let w : State := { (carded copyCard idle0).modBlock 0 (fun k => { k with wFifo := List.replicate 256 { bytes := List.replicate 128 0, poison := none } }) with cards := [q, copyCard] }
     (w.queuedCard? 7 == some copyCard) && waitsSpace w q && leads (exec (.cardStart 7) w) w = true) ∧
    (thenIs (exec (.mainsailGrant 0) m) (fun u => u.cores.head?.any fun k => k.holder == some 0 && k.lease == 7 && k.reqs == [(1, 9)]) = true) ∧
    (thenIs (exec (.sorrelHotMigrate 0 4 3 true) h) (fun u => u.tables.all fun x => x.hot == [1, 3]) = true) := by decide +kernel
theorem test_witness_EngineEventsComplete_payloads :
    let c := { copyCard with started := true }
    let s := carded c idle0
    let z := { c with op := 0xBB, eng := 4, record := List.replicate 256 0, tile := 5 }
    let b := { c with record := barrierRec 6 }
    let q := { c with op := 0xB3, record := barrierRec 0x26 }
    let sq := (carded q idle0).modCore 0 fun k => { k with holder := some 0 }
    let mu := carded z idle0
    let l := ((inMemory idle0).putBytes 0x10000000 (natLE 8 0x10200001)).putBytes 0x10200000 (natLE 8 0x10400001)
    let p := carded c { l.putBytes 0x10400000 (natLE 8 (2 ^ 52 * 3 + 0x9F)) with tctl := { l.tctl with ctxtbase := 0x10000000 } }
    ((match copyPayload s c with
      | .ok () u => leads (exec (.cardComplete 7) s) (completeCard u c 1 (copyDue s c)) && u.scratchWord 0 512 == 0x030201
      | _ => false) = true) ∧
    (thenIs (exec (.cardComplete 7) mu) (fun u => u.cards.isEmpty) = true) ∧
    (thenIs (exec (.byteBarrierDelivery 7 11) (carded b idle0)) (fun u => (u.cards.map (·.prog)) == [2] && u.scratchWord 0 512 == 0x030201 &&
      (u.barb 0 256) == ((idle0.barb 0 256).deliver 8)) = true) ∧
    (thenIs (exec (.cpyqBeatPush 7) sq) (fun u => (u.cards.map (·.prog)) == [16] && (u.blocks.map (·.wFifo)) ==
      [[{ bytes := [1, 2, 3] ++ List.replicate 13 0, poison := none }]]) = true) ∧
    (let pq : State := { p with cards := [q] }.modCore 0 fun k => { k with holder := some 0 }
     mayPush pq q && thenIs (exec (.cpyqBeatPush 7) pq) (fun u => u.cards.isEmpty && ofWarp u fun w => (w.errs.map (·.trap.sub)) == [4]) = true) ∧
    (thenIs (exec (.mainsailUe 7 5) mu) (fun u => u.cards.isEmpty && ofWarp u fun w => (w.errs.map (·.trap)) == [mkTrap 0 0x0F 4 0 5]) = true) ∧
    ((peerLine p c == some (0, 0, 0)) && thenIs (exec (.linkTimeout 7) p) (fun u => u.cards.isEmpty && ofWarp u fun w =>
      (w.errs.map (·.trap)) == [mkTrap 0 0x0E 4 0 0x01000000]) = true) := by decide +kernel
theorem test_witness_CompletionWritesItsCard :
    let c := { copyCard with started := true }
    let s := (carded c idle0).modWarp r0 fun w => { w with flags := w.flags.set 3 2 }
    (!c.ff && !recB c.record 0 0 && !recB c.record 0 1 && recB c.record 0 2 && ofWarp s (fun w => w.entries.all fun e => !e.waits)) = true ∧
    (s.blocks[0]?).any (fun k => Memory.wf k.bytes) = true ∧ (completeCard s c 1 16).cards = [] ∧ (completeCard s c 1 16).scratchWord 0 0x314 = 1 ∧
    ofWarp (completeCard s c 1 16) (fun w => w.flags[3]? == some 1) = true := by decide +kernel
/-- 11 Table 11.2: a completion word of value 77 at element 80 of view 1. -/
def wordRec : List Byte := w4 1 ++ w4 77 ++ w4 1 ++ w4 80 ++ List.replicate 240 0
theorem test_witness_CompletionWritesItsCard_writes :
    let c := { copyCard with started := true }
    let s := (carded c idle0).modCore 0 fun k => { k with iss := [0, 2, 0, 0] }
    let q : State := { s with cards := [c, { c with id := 9, ticket := some 2, started := false }] }
    let b := { c with record := barrierRec 2 }
    let w := { c with record := wordRec }
    let y := (carded c (waiting (.waitf 8) idle0)).modWarp r0 fun x => { x with flags := x.flags.set 3 1 }
    (((completeCard s c 1 0).cores[0]?).any (fun k => k.seq == [0, 2, 0, 0]) && ((completeCard q c 1 0).cores[0]?).any fun k => k.seq == [0, 1, 0, 0]) = true ∧
    ((completeCard s { b with op := 0xB2, record := barrierRec 0x82 } 1 16).scratchBytes 0 0 1024 == s.scratchBytes 0 0 1024) = true ∧
    (spotAt s b (bbSpot b.record) == some (0, 256) && recB b.record 0 1 && !recB b.record 0 0 && !recB b.record 0 2 &&
      (completeCard s b 1 16).scratchBytes 0 256 8 == [0xF0, 0xFF, 0xFF, 0xFF, 0, 0, 0, 0]) = true ∧
    (spotAt s w (cwSpot w.record) == some (0, 320) && recB w.record 0 0 && (completeCard s w 1 0).scratchBytes 0 320 4 == w4 77) = true ∧
    (y.refs == [r0] && !y.still 0 && ofWarp y (fun x => x.held.isEmpty && x.stores.isEmpty && x.entries.length == 1) &&
      (completeCard y c 1 0).scratchWord 0 0x314 == 1 && ofWarp (completeCard y c 1 0) fun x => x.flags[3]? == some 0 &&
        x.entries.all fun e => e.st == .runnable && e.pc == 16 && e.woken) = true := by decide +kernel
/-! ### What payloads write -/

/-- A view of the tests. -/
def vw (space etype : Nat) (ext : List W32) (str : List W32) (base : Nat) : View :=
  { noView with space := BitVec.ofNat _ space, etype := BitVec.ofNat _ etype, rank := ext.length, ext := ext, str := str, base := BitVec.ofNat _ base, rd := true, wr := true }
/-- The pools of keys and of values, the residency map, FP32 scratchpad, an embedding table of 2 columns with its state, and INT32 scratchpad. -/
def payViews : List View :=
  [vw 0 8 [1, 256] [1, 1] 0x10000, vw 0 8 [1, 256] [1, 1] 0x20000, vw 0 5 [64] [1] 0x30000, vw 1 8 [1024] [1] 0x1000,
   vw 0 8 [2, 8] [1, 2] 0x40000, vw 0 8 [8] [1] 0x50000, vw 1 4 [1024] [1] 0x3000]
/-- A state whose kernel has those views, with one started card and some words of memory and of scratchpad. -/
def pays (c : Card) (mem pad_ : List (Nat × Nat)) : State :=
  let s := (mapped idle0).modGrid 0 fun g => { g with kernel := { g.kernel with views := payViews } }
  let t : State := { s with cards := [{ c with started := true, queued := true }], nextCard := 8 }
  pad_.foldl (fun t x => pad x.1 (w4 x.2) t) (mem.foldl (fun t x => t.putBytes x.1 (w4 x.2)) t)
/-- The card of `pays`. -/
def payCard (op eng : Nat) (head : List Byte) (boxes : List Byte) (desc : List Byte) : Card :=
  { card0 with queued := true, started := true, op := op, eng := eng, ticket := some 1, desc := desc,
               record := List.replicate 0x18 0 ++ head ++ List.replicate (0x28 - head.length) 0 ++ boxes ++ List.replicate (192 - boxes.length) 0 }
/-- A box of rank 2. -/
def box2 (head n m : Nat) : List Byte := w4 head ++ List.replicate 20 0 ++ w4 n ++ w4 m ++ w4 1 ++ w4 1 ++ w4 1 ++ w4 0
/-- The descriptor of the tests' cache: rows of one FP32 element, no rotation, one head, 4 pages. -/
def kvd : List Byte := w4 0x020100 ++ w4 0x0801 ++ w4 1 ++ w4 4 ++ w4 1 ++ List.replicate 300 0
/-- An ATTN of one row and one tile at page 0 with LEN as given. -/
def attnCard (len : Nat) : Card :=
  payCard 0xC0 5 (w4 0x18880000 ++ w4 0 ++ w4 0 ++ w4 0 ++ w4 0 ++ w4 len ++ w4 0x3F800000)
    (box 0x103 0 1 ++ box 0x183 64 1 ++ box2 0x100 1 256 ++ box2 0x101 1 256) kvd
/-- A KVAPPEND of position 3 at page 0, from row 0 of the scratchpad boxes. -/
def appendCard : Card := payCard 0xC1 5 (w4 0 ++ w4 0 ++ w4 0 ++ w4 3) (box 0x103 0 1 ++ box 0x103 64 1 ++ box2 0x180 1 256 ++ box2 0x181 1 256) kvd
/-- A KVMAP of page 1. -/
def mapCard : Card := payCard 0xC2 5 (w4 0 ++ w4 0 ++ w4 0 ++ w4 1) (box 0x106 0 4) kvd
/-- An EMBG of table 4: 3 indices, one bag of all three, summed. -/
def embgCard : Card := { payCard 0xC4 6 (w4 4 ++ w4 1) (box 0x106 0 3 ++ box 0x106 8 2 ++ box 0x183 0 2) [] with version := 9 }
/-- An EMBU of table 4: one index, rate 1.0, plain or row-wise AdaGrad. -/
def embuCard (ada : Nat) : Card := { payCard 0xC5 6 (w4 (4 + ada) ++ w4 0x3F800000 ++ w4 0) (box 0x106 0 1 ++ box 0x103 64 2) [] with version := 9 }
/-- A table with one version of number 9. -/
def table4 : Table :=
  { ctx := 0, tid := 4, hot := [], vers := [{ serial := 9, table := nth noView payViews 4, state := some (nth noView payViews 5), pins := 1, current := true }] }
/-- A Mainsail card: an INT8 MMA of 2 rows in one group under OVW, without WLOAD. -/
def mmaCard : Card := { payCard 0xB8 4 (w4 0x0001000A ++ w4 1) [] [] with scale := [0, 0x3F800000, 0x40000000] }
/-- A block whose A-FIFO holds n rows of 128 codes. -/
def rowsIn (n : Nat) (s : State) : State := s.modBlock 0 fun k => { k with aFifo := List.replicate n { bytes := List.replicate 128 1, poison := none } }
theorem test_witness_EngineEventsComplete_mma :
    let k (n : Nat) : List Beat := List.replicate n { bytes := List.replicate 128 1, poison := none }
    let x := mmaArgs mmaCard.record mmaCard.scale
    (x.acc == 1 && x.rows == 2 && x.af == 0 && !x.wload && x.ovw && x.total == 2 && x.rowBytes == 128 && !recB mmaCard.record 0x18 2) = true ∧
    ((pays mmaCard [] []).startedCard? 7 == some mmaCard && fifoLen (k 1) == 128 && fifoLen (k 3) == 384 && idle0.blocks.all fun b => 1 < b.tiles.length) = true ∧
    (let y : MmaArgs := { x with wload := true, wf := 0 }
     idle0.blocks.all fun b =>
       let st : MmaState := { blk := { b with wFifo := List.replicate 129 { bytes := List.replicate 128 2, poison := none } }, load := [], groups := 0, rows := 0, met := none }
       st.needsTile y && y.tileBytes == 16384 && fifoLen (mmaLoad y st).blk.wFifo == 128 && (mmaLoad y st).groups == 1 && (mmaLoad y st).load.isEmpty) = true := by
  decide +kernel
theorem test_witness_EngineEventsComplete_drain :
    let c := payCard 0xBA 4 (w4 0 ++ w4 0 ++ w4 0x00000104) (List.replicate 48 0 ++ box 0x183 0 128) []
    let s := (pays c [] []).modBlock 0 fun k => k.setRows 1 2 fun r n => BitVec.ofNat 32 (256 * r + n)
    (s.startedCard? 7 == some c && (boxOf c.record 1).valid && !(boxOf c.record 2).valid && !(boxOf c.record 3).valid &&
      (boxView (cardKernel s c) c.record 1).etype.toNat == 8 && match drainPayload s c with
      | .ok () u => leads (exec (.cardComplete 7) s) (completeCard u c 1 (drainBytes s c)) && u.scratchWord 0 0x1000 == 0 && u.scratchWord 0 0x11FC == 127 &&
        u.blocks.all fun k => k.acc 1 0 5 == 0 && k.acc 1 1 5 == 261
      | _ => false) = true := by decide +kernel
theorem test_witness_EngineEventsComplete_attn :
    let c := attnCard 0
    let m (st : Nat) := pays c [(0x30000, st * 2 ^ 30)] [(0x1000, 0x3F800000)]
    (((m 2).startedCard? 7 == some c) && attnEnter (m 2) c == .held && attnEnter (m 0) c == .ok (c.passTile 1) (attnInit (m 0) c) &&
      attnEnter (m 3) c == .ok (c.passTile 3) (attnInit (m 3) c) && (match attnEnter (m 1) c with
        | .ok d u => d.prog == 1 && memGet u.mem 0x3000C == 1 && leads (exec (.cardComplete 7) (m 1)) (putCard u d)
        | _ => false)) = true ∧
    (let f : Card := { c with prog := 2, stat := [1] }
     let s := pays f [(0x30000, 2 ^ 30)] []
     f.prog == kvSteps f && match attnFinish s f with
       | .ok () u => leads (exec (.cardComplete 7) s) (completeCard (writeStatuses u f [1]) f 1 4) && ofWarp (writeStatuses u { f with dest := 9 } [1]) fun w =>
           (w.lane 0).v[9]? == some { val := 1, poison := false } && (w.lane 1).v[9]? == some { val := 0xFFFFFFFF, poison := false }
       | _ => false) = true := by decide +kernel
theorem test_witness_EngineEventsComplete_tile :
    let c := { attnCard 0 with prog := 1 }
    let s := pays c [(0x30000, 2 ^ 30), (0x3000C, 1)] [(0x1000, 0x3F800000)]
    (match readBox s c 0 with
     | .ok q t1 => (match kvEntry t1 c 0 with
       | .ok e t2 => q == [0x3F800000] && e.st == 1 && e.rdr == 1 && t2 == s
       | _ => false)
     | _ => false) = true ∧
    (match attnTile s c with
     | .ok d u => d.prog == 2 && d.stat == [1] && memGet u.mem 0x3000C == 0
     | _ => false) = true := by decide +kernel
theorem test_witness_EngineEventsComplete_cache :
    let s (st rdr : Nat) := pays appendCard [(0x30000, st * 2 ^ 30), (0x3000C, rdr), (0x30010, 2 ^ 30 + 7), (0x3001C, rdr)] [(0x1000, 0x3F800000), (0x1100, 0x40000000)]
    (match pageEnter (s 1 0) appendCard 0 with
     | .ok d u => d.prog == 1 && memGet u.mem 0x30003 == 0x80
     | _ => false) = true ∧
    (pageEnter (s 0 0) appendCard 0 == .held && pageWrite (s 2 5) appendCard 0 (fun _ s => .ok () s) == .held) = true ∧
    (match pageWrite (s 2 0) appendCard 0 (appendRows appendCard 0 [0x3F800000] [0x40000000]) with
     | .ok d u => d.prog == 1 && memGet u.mem 0x30003 == 0x40 && u.bytes 0x1000C 4 == w4 0x3F800000 && u.bytes 0x2000C 4 == w4 0x40000000
     | _ => false) = true ∧
    (let t (rdr : Nat) := pays mapCard [(0x30010, 2 ^ 30 + 7), (0x3001C, rdr)] [(0x3000, 2 ^ 30 + 3), (0x3004, 5), (0x3008, 6)]
     mapAdvance (t 1) mapCard == .held && match mapAdvance (t 0) mapCard with
       | .ok d u => d.prog == 1 && u.bytes 0x30010 12 == w4 (2 ^ 30 + 3) ++ w4 5 ++ w4 6
       | _ => false) = true := by decide +kernel
theorem test_witness_EngineEventsComplete_tables :
    let s : State := { pays embgCard [(0x40000, 0x3F800000), (0x40004, 0x40000000), (0x40008, 0x3F800000)] [(0x3000, 0), (0x3004, 1), (0x3008, 0), (0x3020, 0), (0x3024, 3)] with tables := [table4] }
    let u (a : Nat) : State := { pays (embuCard a) [(0x40000, 0x40000000), (0x40004, 0x40400000)] [(0x3000, 0), (0x1100, 0x3F800000), (0x1104, 0x3F800000)] with tables := [table4] }
    let w : Card := { payCard 0xC6 6 (w4 4) [] [] with version := 9 }
    let x (n : Nat) : State := { pays w [] [] with tables := [{ table4 with vers := table4.vers.map (fun v => { v with pins := n }) ++ [{ serial := 7, table := noView, state := none, pins := 0, current := true }] }] }
    ((versionOf s embgCard).isSome && match embgPayload s embgCard with
      | .ok () t => t.scratchWord 0 0x1000 == 0x40400000 && t.scratchWord 0 0x1004 == 0x40800000 && (t.tables.map fun y => y.vers.map (·.pins)) == [[0]]
      | _ => false) = true ∧
    (match embuPayload (u 0) (embuCard 0) with
     | .ok () t => t.bytes 0x40000 8 == w4 0x3F800000 ++ w4 0x40000000
     | _ => false) = true ∧
    (match embuPayload (u 256) (embuCard 256) with
     | .ok () t => t.bytes 0x40000 8 == w4 0x3F800000 ++ w4 0x40000000 && t.bytes 0x50000 4 == w4 0x3F800000
     | _ => false) = true ∧
    (leads (exec (.cardComplete 7) (x 1)) (x 1) && thenIs (exec (.cardComplete 7) (x 0)) (fun t => (t.tables.map fun y => y.vers.map (·.serial)) == [[7]] && t.cards.isEmpty)) = true := by
  decide +kernel
theorem test_witness_EngineEventsComplete_asks :
    let q : Card := { copyCard with op := 0xB3, record := barrierRec 0x26, started := true }
    let s := carded q idle0
    (readyPush s q && (askPush s 0).cores.head?.any fun k => k.reqs == [(0, 0)] && k.holder.isNone) = true ∧
    (match payHome (mapped s) q 0 0 0x80 .write with | .ok pa t => pa == 0x80 && t.bad.isEmpty | _ => false) = true := by decide +kernel

/-- Masks of cores 0 and 1, stack 0, and nothing else. -/
def few : Masks := { cores := 3, hbm := 1, stay := 0, eth := 1 }
/-- Partition 0 with two cores, a pool, and context 0 bound to it (20 R367, R390). -/
def part0 (s : State) : State :=
  { s with parts := s.parts.set 0 { Part.fresh with w := few, a := few }, spool := s.spool.set 0 0x40000FFF,
           ctxs := [(0, { part := some 0, life := .live, noPlace := false, signed := [] })], mstat := { s.mstat with boot := 3 } }
/-- Queue 5 of context 0. -/
def queue5 (f : Queue → Queue) (s : State) : State := { s with queues := [(5, f { Queue.fresh with logn := 4 })] }
/-- The kernel of the tests, eight registers, gang `n`. -/
def kern0 (n : Nat) : Kernel := { placedKernel (.nop { g := gT }) false with nv := 8, gang := n, nacc := 0, quota := 8 }
/-- A grid of `n` blocks to place, from queue 5, with a completion record at 0x80000. -/
def grid0 (n gang : Nat) : Grid := { placedGrid (kern0 gang) with queue := 5, index := 9, gx := n, next := 0, cpl := some 0x80000 }
/-- A module with partition 0, queue 5 and one grid. -/
def offered (n gang : Nat) : State := { queue5 (fun d => { d with en := true, head := 1, tail := 1 }) (part0 State.reset) with grids := [grid0 n gang] }
theorem test_witness_SchedulerEventsComplete_queues :
    let q := queue5 id (part0 State.reset)
    let e := tabled (queue5 (fun d => { d with en := true, tail := 1, ring := 0x2000 }) (part0 State.reset))
    let g := entryGrid e 5 (headEntry e (e.queue 5))
    (leads (exec (.qtailWrite 5 3) q) (queue5 (fun d => { d with tail := 3 }) q) &&
      leads (exec (.queueDisable 5) e) (queue5 (fun d => { d with tail := 1, ring := 0x2000 }) e) &&
      leads (exec (.qenergyRead 5) (queue5 (fun d => { d with energy := 0x300000002 }) q)) (queue5 (fun d => { d with energy := 0x300000002, energyH := 3 }) q) &&
      leads (exec (.qenergyWrite 5 7) q) (queue5 (fun d => { d with energy := 7 }) q) = true) ∧
    (!(q.queue 5).en && (q.queue 5).ring.toNat % 128 == 0 && !(partCores q 0).isEmpty && q.boundPart 0 == some 0 && thenIs (exec (.queueEnable 5) q) (fun t =>
      t.queues == assocSet q.queues 5 { q.queue 5 with en := true } && t.ctxPart 0 == some 0) = true) ∧
    (leads (exec (.registerWrite 0x44100 0x80001205) q) { q with frz := { q.frz with arm := true, fcode := 0x12, fsrc := 5 } } &&
      leads (exec (.registerWrite 0x40038 0x123456789ABCDEF0) q) { q with tctl := { q.tctl with ctxtbase := 0x000456789ABCC000 } } = true) ∧
    (entryReady e 5 && (entryReject e 5 (headEntry e (e.queue 5)) g).isSome && thenIs (exec (.launchEntryTake 5) e) (fun t =>
      t.queues == assocSet e.queues 5 { e.queue 5 with head := 1 } && t.grids == [{ g with kernel := noKernel, status := .rejected 9 0x10 }]) = true) := by
  decide +kernel
theorem test_witness_SchedulerEventsComplete_places :
    let s := offered 3 1
    let l := (offered 64 64).modGrid 0 fun g => { g with kernel := { g.kernel with nacc := 1 } }
    let w : State := { s with resv := [{ grid := 0, part := 0, die := 0, since := 0, lent := [], noLend := false }], cycle := 64 * 3300 }
    let o : State := { s with grids := [{ grid0 3 1 with next := 3 }] }
    ((!restoreReady s 0 && (serveOrder s 0).head? == some 0 && match (serveOrder s 0).findSome? (placeGang s) with
      | some t => leads (exec (.blockPlace 0) s) (noteWaits 0 t) && t.blocks.length == 1 && (t.grids.map (·.next)) == [1] && (t.blocks.map (·.core)) == [0]
      | none => false) = true) ∧
    ((noteWaits 0 l).grids == l.grids.map fun g => { g with waitAt := some 0 }) = true ∧
    ((waitingGangs (noteWaits 0 l)).head? == some (0, 0, 0) && ((noteWaits 0 l).resvOn (roomiest (noteWaits 0 l) 0)).isNone && thenIs (exec (.gangReserve 0) l) (fun t =>
      t.resv == [{ grid := 0, part := 0, die := 0, since := 0, lent := [], noLend := false }]) = true) ∧
    (thenIs (exec (.gangLendCutoff 0) w) (fun t => (t.resv.map (·.noLend)) == [true]) = true) ∧
    (gridOver o 0 { grid0 3 1 with next := 3 } && thenIs (exec (.gridComplete 0) o) (fun t =>
      t.grids == [{ grid0 3 1 with next := 3, recorded := true, status := .done }] && t.bytes 0x80000 8 == natLE 8 0x900000001 && (t.queue 5).done == 1) = true) := by
  decide +kernel
theorem test_witness_SchedulerEventsComplete_nodes :
    let n (s : State) : State := { s with nodes := [{ ctx := 0, node := 0, bytes := List.replicate 16 1, cycle := 0, grid := 0, die := 0 }], cycle := 7 * 3300 }
    let s := n (noded 2 (tabled (placed 0x0070000000000000)))
    let f := s.putBytes 0x2000001A (natLE 2 7)
    ((match f.node? 0 0 with
      | some d => d.flush == 7 && d.fits && leads (exec (.nodeFlushTimer 0 0) f) (launchNode f 0 0 d 1) && (launchNode f 0 0 d 1).nodes.isEmpty
      | none => false) = true) ∧
    (leads (exec (.nodeFlushTimer 0 0) s) s = true) := by decide +kernel
theorem test_witness_SchedulerEventsComplete_saves :
    let s := part0 State.reset
    let x : Part := { Part.fresh with w := few, a := { few with cores := 1 } }
    let c : State := { s with parts := (s.parts.set 0 x) }
    let v := match placeGang (offered 3 1) 0 with | some t => t | none => s
    let z := (v.modBlock 0 fun k => { k with place := .saved })
    (thenIs (exec (.preemptRequest 2 0x3000) s) (fun t => t.pcmd0 == 2 && t.pcmd1 == 0x3000 && t.blocks.isEmpty && t.bytes 0x3018 8 == [2, 0, 0, 0, 0, 0, 0, 0]) = true) ∧
    ((z.ctxPlaces (z.ctxOf 0) && firstBack z 0 && match reseat z 0 with
      | some u => !anyIdle u (gangOf z 0) && leads (exec (.blockRestore 0) z) ((gangOf z 0).foldl restoreBlock u)
      | none => false) = true) ∧
    (leads (exec (.pcfgCommit 0) c) { c with parts := c.parts.set 0 { x with a := few, cstat := 1 } } = true) ∧
    (thenIs (exec (.powerWindow 0 500 900 [] { core := 0, pj := 12700000, units := [] }) { s with parts := s.parts.set 0 { x with pcap := 400 } }) (fun t => t.mstat.mpower == 900 &&
      (t.parts[0]?).any fun y => y.ppower == 500 && y.pidlee == 12 && y.carry == 700000 && y.duty == 51) = true) ∧
    (thenIs (exec (.powerWindow 0 0 0 [] { core := 0, pj := 3500000, units := [(5, 2)] }) s) (fun t => (t.queue 5).energy == 3 && (t.queue 5).carry == 500000) = true) ∧
    (let q0 := (part0 idle0).modGrid 0 fun g => { g with ctx := 512, sysCtx := true }
     let q : State := { q0 with blocks := q0.blocks ++ q0.blocks.map fun k => { k with core := 1, lin := 1 } }
     chooseCores q 0 1 == [0] && victims q [0] == [0] && q.ctxOf 0 == 512 && leads (exec (.preemptRequest 1 0x3000) q)
       { q with pcmd0 := 1, pcmd1 := 0x3000, preempts := [{ part := 0, cores := [0], pa := 0x3000, halted := [] }] } = true) ∧
    ((registerRead s 0x41218 == (some 1, s)) && (registerRead s 0x40030 == (some 256, s)) && (registerRead s 0x50000 == (some 0, s)) = true) ∧
    (leads (exec (.thermalThrottle 5000 70) s) { s with mstat := { s.mstat with fclk := 3300, temp := 70 } } = true) ∧
    (!coreBusy s 0 && thenIs (exec (.idleEntry 0) { s with cycle := 66000 }) (fun t => t.cores.head?.any fun k => k.idle == 3) &&
      thenIs (exec (.idleExit 0) s) (fun t => t == s) = true) := by decide +kernel
theorem test_witness_SchedulerEventsComplete_preemptions :
    let s := part0 State.reset
    let two (q : State) : State := { q with blocks := q.blocks ++ q.blocks.map fun k => { k with core := 1, lin := 1 } }
    let q := two (part0 (placed 0x0070000000000000))
    ((partCores s 0).length == 2 && chooseCores s 0 1 == [0] && victims s [0] == [] && thenIs (exec (.preemptRequest 1 0x3000) s) (fun t => t.preempts.isEmpty &&
      t.bytes 0x3000 32 == natLE 8 1 ++ natLE 8 0 ++ natLE 8 0 ++ natLE 8 0x101 && (t.parts[0]?).any fun x => x.a.cores == 2) = true) ∧
    (chooseCores q 0 1 == [0] && victims q [0] == [0] && q.ctxOf 0 == 0 && !passesHeld [0].contains q && ofWarp q (fun w => w.cur.isSome) &&
      thenIs (exec (.preemptRequest 1 0x3000) q) (fun t => t.preempts == [{ part := 0, cores := [0], pa := 0x3000, halted := [0] }] &&
        (t.blocks.map (·.halted)) == [true, false] && t.parts == q.parts) = true) := by decide +kernel
/-- A block placed from `offered`, halted at its clause boundary for a pre-emption of its core. -/
def leaving : State :=
  match placeGang (offered 3 1) 0 with
  | some t => { t.modBlock 0 (fun k => { k with halted := true }) with preempts := [{ part := 0, cores := [0], pa := 0x3000, halted := [0] }] }
  | none => State.reset
/-- The pre-emption of `leaving` comes to the saving of its block, which can be saved. -/
def saves (s : State) : Option (State × List (Card × Nat)) :=
  match (quietAll [0] s).bind (drainOut [0].contains) with
  | some x => if stillThere x.1 [0] == [0] && (quietBlock (dropWaiting x.1 0) 0).isSome then some x else none
  | none => none
theorem test_witness_SchedulerEventsComplete_preempted :
    (victims leaving [0] == [0] && leaving.ctxOf 0 == 0 && !passesHeld [0].contains leaving && runningOf leaving [0] == [] &&
      leaving.blocks.all fun k => k.warps.all fun w => w.cur.isNone) = true ∧
    ∃ x w, (quietAll [0] leaving).bind (drainOut [0].contains) = some x ∧ saveAll x.2 (stillThere x.1 [0]) x.1 = some w := by
  refine ⟨by decide +kernel, ?_⟩
  have h : (saves leaving).isSome = true := by decide +kernel
  unfold saves at h
  split at h
  · rename_i x hx
    split at h
    · rename_i hs
      simp only [Bool.and_eq_true, beq_iff_eq] at hs
      obtain ⟨q, hq⟩ := Option.isSome_iff_exists.mp hs.2
      have hb : ∀ cs, ∃ w, saveBlock x.1 0 cs true = some w := fun cs => by rw [saveBlock, hq]; exact ⟨_, rfl⟩
      obtain ⟨w, hw⟩ := hb (x.2.filter fun c => c.1.blk == 0)
      exact ⟨x, w, hx, by rw [hs.1, saveAll, hw]; rfl⟩
    · cases h
  · cases h

/-- A translation command on the first gigabyte of context 0, status at 0x90000 (19 Table 19.5). -/
def cmd0 (op phase : Nat) (cores : List Nat) : TCmd :=
  { ticket := 4, w0 := 0, w1 := 0x40000000, w2 := 0x400, w3 := BitVec.ofNat 64 (0x90000 + op), phase := phase, cores := cores, stayed := none }
/-- A state with one outstanding command. -/
def told (c : TCmd) (s : State) : State := { s with tctl := { s.tctl with cmds := [c], ticket := 4 } }
/-- A page of context 0 that its tables map at address 0. -/
def page0 : Xlate := { ctx := 0, va := 0, bits := 30, pa := 0, rd := true, wr := true, ex := true }
theorem test_witness_TranslationEventsComplete_commands :
    let s (op : Nat) := told (if op = 2 ∨ op = 3 then cmd0 op 0 [] else { cmd0 op 0 [] with w1 := 0 }) (tabled State.reset)
    let c (op : Nat) : TCmd := if op = 2 ∨ op = 3 then cmd0 op 0 [] else { cmd0 op 0 [] with w1 := 0 }
    let late3 := (s 3).putBytes 0x10000008 (natLE 8 0x5000) |>.putBytes 0x5000 [1]
    ((nextCmd (s 0) [0] == some (c 0)) && !(c 0).bad (s 0) && leads (exec .shoot (s 0)) (putCmd (s 0) { c 0 with phase := 1, cores := List.range 144 }) &&
      (nextCmd (s 1) [1] == some (c 1)) && !(c 1).bad (s 1) && leads (exec .shootctx (s 1)) (putCmd (s 1) { c 1 with phase := 1, cores := List.range 144 }) = true) ∧
    ((nextCmd (s 2) [2] == some (c 2)) && !(c 2).bad (s 2) && goodLeaf (s 2) (c 2) == some 0x10400000 && thenIs (exec .migrate (s 2)) (fun t =>
      memGet t.mem 0x10400000 == 0x3F && t.tctl == (putCmd (s 2) { c 2 with phase := 1, cores := List.range 144 }).tctl) = true) ∧
    (!(c 3).bad (s 3) && late (s 3) (c 3) == .no && goodLeaf (s 3) (c 3) == some 0x10400000 && thenIs (exec .promote (s 3)) (fun t => memGet t.mem 0x10400000 == 0x3F) &&
      late late3 (c 3) == .yes && leads (exec .promote late3) (endCmd late3 (c 3) 2) = true) ∧
    ((nextCmd (s 6) [4, 5, 6, 7] == some (c 6)) && leads (exec .badcmd (s 6)) (endCmd (s 6) (c 6) 3) &&
      (endCmd (s 6) (c 6) 3).bytes 0x90000 8 == [3, 0, 0, 0, 4, 0, 0, 0] && (endCmd (s 6) (c 6) 3).tctl.cmds.isEmpty = true) := by decide +kernel
theorem test_witness_TranslationEventsComplete_sweeps :
    let b := mapped (lanes (fun l => { l with lastPage := some page0 }) (pinned0 (List.replicate 128 7) 0xF0 (tabled idle0)))
    let s := told { cmd0 0 1 [0, 3] with w1 := 0 } b
    let e := told { cmd0 0 1 [] with w1 := 0 } b
    let m := told (cmd0 2 1 []) b
    let k := (told (cmd0 2 2 []) (tabled State.reset)).setMig 0x10400000 true |>.putBytes 0x80 [1, 2]
    (thenIs (exec (.coreSweep 0 4) s) (fun t => (t.tctl.cmds.map (·.cores)) == [[3]] && (t.cores[0]?).any (fun x => x.tlb.isEmpty) &&
      t.bytes 3 3 == [0, 7, 7] && ofWarp t fun w => w.lanes.all (fun l => l.lastPage.isNone) && w.held.all fun h => h.dirty == 0) = true) ∧
    (leads (exec (.shootComplete 4) e) (endCmd (replay (dropCmdTags e { cmd0 0 1 [] with w1 := 0 }) 0) { cmd0 0 1 [] with w1 := 0 } 1) = true) ∧
    (leads (exec (.shootComplete 4) m) (putCmd (dropCmdTags m (cmd0 2 1 [])) (cmd0 2 2 [])) = true) ∧
    (leads (exec (.migrationCopyDone 4) k) (finishMove k (cmd0 2 2 [])) && (finishMove k (cmd0 2 2 [])).bytes 0x10400000 8 == [0x1F, 0, 0, 0x40, 0, 0, 0, 0] &&
      (finishMove k (cmd0 2 2 [])).bytes 0x40000080 2 == [1, 2] && (finishMove k (cmd0 2 2 [])).tctl.cmds.map (·.phase) == [3] && (finishMove k (cmd0 2 2 [])).replays == [.finish 4 1] &&
      (finishCmd (finishMove k (cmd0 2 2 [])) 4 1).bytes 0x90000 8 == [1, 0, 0, 0, 4, 0, 0, 0] &&
      (finishCmd (finishMove k (cmd0 2 2 [])) 4 1).tctl.cmds.isEmpty = true) := by
  decide +kernel
theorem test_witness_TranslationEventsComplete_walks :
    let s := tabled idle0
    let y := waiting (.translation 0) s
    let z := waiting (.translation 0x40000000) s
    (leads (exec (.pageWalk 0 0 0x40 .write) s) (translate s { core := 0, lane := none } 0 0x40 .write).2 && walk s 0 0x40 == .ok page0 (some 0x10400000) &&
      match translate s { core := 0, lane := none } 0 0x40 .write with
      | (x, t) => x == .ok 0x40 && memGet t.mem 0x10400001 == 3 && (t.cores[0]?).any fun k => k.tlb.head? == some page0 = true) ∧
    (leads (exec (.translationParityError (.coreTlb 0 0 0x40)) (mapped s)) ((mapped s).modCore 0 fun k => { k with tlb := [] }) &&
      leads (exec (.translationParityError (.lastPage 0 0 3)) (lanes (fun l => { l with lastPage := some page0 }) s))
        ((lanes (fun l => { l with lastPage := some page0 }) s).modWarp r0 (·.modLane 3 fun l => { l with lastPage := none })) = true) ∧
    ((match waitersOn y 0 0 0 with
      | [(q, g)] => q == r0 && walk y 0 0 == .ok page0 (some 0x10400000) && pageVerdict y 0 g 0 0 == (0, 0, false) && !y.unreachable 0 0
      | _ => false) = true) ∧
    ((match waitersOn z 0 0 0x40000000 with
      | [(q, g)] => walk z 0 0x40000000 == .fail && leads (exec (.dergusTranslate 0 0 0x40000000) z) (faultWaiters z [(q, g)] g 0x40000000 2 0) &&
          ofWarp (faultWaiters z [(q, g)] g 0x40000000 2 0) fun w => w.entries.all fun e => e.isParked
      | _ => false) = true) := by decide +kernel
/-- A die whose cache is empty takes a translation of any size. -/
theorem cachePage_fresh {s : State} {die : Nat} {d : Die} (h : s.dies[die]? = some d) (ht : d.tags = []) (g : Grid) (page : VAddr) (pa : PAddr)
    (sgn : Bool) : ∃ u, cachePage s die g page pa sgn = some u := by
  have hn : 1 + Config.tagBlocks s.tick % 127 ≤ Config.tcacheBlocks := by unfold Config.tcacheBlocks; omega
  simp [cachePage, h, ht, makeRoom, tagSpot, hn]
theorem test_witness_TranslationEventsComplete_pages :
    ∃ u, cachePage (waiting (.translation 0) (tabled idle0)) 0 (placedGrid (placedKernel (.nop { g := gT }) false)) 0 0 false = some u :=
  cachePage_fresh (d := Die.fresh) (by decide +kernel) rfl _ _ _ _
theorem test_witness_ModuleEventsComplete_chervil :
    let s : State := { State.reset with fuses := 2, mem := [(5, 1), (2 ^ 52, 9)], meas := [1, 2, 3, 4, 5, 6],
                                        dies := State.reset.dies.map fun d => { d with tags := [{ tag0 [] with sobj := true, secver := 2 }, tag0 []] } }
    (thenIs (exec (.secfuseRaise true) s) (fun t => t.fuses == 3 && t.reports == [.secfuse 3] && t.dies.all fun d => d.secfuse == 3 && d.tags == [tag0 []]) = true) ∧
    (leads (exec (.getMeasurements 4) s) { s with spdm := [4] } = true) ∧
    (let x : Image := { data := [1, 2], sig := [], secver := 2 }
     let img : BootImages := { fw := x, rails := true, tardun := [], link := true, trained := true, dergus := x, dump := x }
     let at_ (n : Nat) : State := { s with boot := some { rom := 5, img := img, step := n } }
     thenIs (exec (.reset 5 img) s) (fun t => t.mstat.boot == 0 && t.boot == some { rom := 5, img := img, step := 1 } && t.mem == s.mem && t.fuses == 2 &&
       t.dies.all fun d => d.secfuse == 2) &&
     (bootStep (at_ 4)).mem == [(2 ^ 52, 9)] && (bootStep (at_ 4)).mstat.boot == 2 && (bootStep (at_ 6)).mstat.boot == 3 &&
     (bootStep (at_ 6)).boot.isNone = true) := by
  decide +kernel
theorem test_witness_ModuleEventsComplete_boot (img : BootImages) (h : img.fw.secver = 1) (g : img.dergus.secver = 1) :
    let s : State := { State.reset with fuses := 2, boot := some { rom := 5, img := img, step := 1 } }
    let u : State := { s with boot := some { rom := 5, img := img, step := 5 } }
    imageVerified img.fw s.fuses = false ∧ imageVerified img.dergus u.fuses = false ∧ (bootStep s).mstat.boot = 4 ∧ (bootStep u).mstat.boot = 4 := by
  simp [imageVerified, bootStep, State.bootFailed, h, g]
theorem test_witness_ModuleEventsComplete_port :
    let s : State := { State.reset with frz := { State.reset.frz with arm := true, fsrc := 5, fcnt := 7 }, cycle := 7 }
    (leads (exec (.frzsel 0x00120034) s) { s with test := { s.test with sel := 0x00120034, index := 0x34 } } && leads (exec .bypass s) { s with test := { s.test with byp := true } } = true) ∧
    (leads (exec .freezePin s) { s with frz := { s.frz with frozen := true, fcause := 5 } } &&
      leads (exec .freezeCounter s) { s with frz := { s.frz with frozen := true, fcause := 4 } } = true) ∧
    (dieUnits (pinned0 (List.replicate 128 7) 0 idle0) 0 != [] && thenIs (exec .frzdata s) (fun t => t.test.index == s.test.index + 1) = true) ∧
    (thenIs (exec (.correctableError 3 4) s) (fun t => t.log == [[3, 0, 0, 0, 4, 0, 0, 0, 0, 0, 0, 0]]) && leads (exec (.ucieDegrade 2) s) { s with ucie := 2 } &&
      thenIs (exec (.hbmSectorUe 0x47) s) (fun t => t.bad == [0x40]) = true) ∧
    ((State.resident idle0 0).length == 1 && (State.resident idle0 0).all (fun k => k.warps.zipIdx.all fun (w, j) => (pieces (w.words j)).all (dieUnits idle0 0).contains) &&
      (dieUnits idle0 0).any (·.contains (idle0.coreCycle 0)) = true) := by decide +kernel
theorem test_witness_ModuleEventsComplete_errors :
    let s := tabled (pinned0 (List.replicate 128 7) 0xF0 idle0)
    let k := (pinned0 (List.replicate 128 7) 0 s)
    let d := ent (fun e => { e with st := .trapParked ((List.range 32).map fun l => mkTrap l 0x0F 1 0 5) 0 }) idle0
    let f := ent (fun e => { e with st := .trapParked ((List.range 32).map fun l => mkTrap l 4 1 0 5) 0 }) (part0 (queue5 (fun q => { q with en := true }) idle0))
    let g := { beside 0x0070000000000000 with ctxs := f.ctxs }
    let h := { f with blocks := f.blocks ++ (g.blocks.drop 1).map fun b => { b with grid := 0 } }
    (holdersOf s 0 0 == [r0] && dirtyIn s 0 [r0] && leads (exec (.lineStoreUe 0 0 0) s) (s.modWarp r0 fun w => { w with held := w.held.map fun x => { x with dirty := 0, lost := true } }) &&
      leads (exec (.lineStoreUe 0 0 0) k) (k.modWarp r0 fun w => { w with held := w.held.map fun x => { x with data := List.replicate 128 0 } }) = true) ∧
    (thenIs (exec (.registerUe 0 0 9 77) idle0) (fun t => ofWarp t fun w => (w.entries.map (·.mask)) == [0xFFFFFDFF, 0x200] &&
      w.entries.any fun e => e.st == .trapParked [mkTrap 9 0x0F 2 0 77] 0 && e.pc == 8) = true) ∧
    (d.blocks.any hasMemoryError && leads (exec (.scratchUe 0 r0 0 5) d) (endBlock d 0) && leads (exec (.scratchUe 0 { b := 1, w := 0 } 0 5) idle0) (endBlock idle0 0) = true) ∧
    (let y := idle0.modBlock 0 fun k => { k with ending := true }
     leads (exec (.scratchUe 0 r0 0 5) y) (endBlock y 0) = true) ∧
    (hasFault f 0 && (f.ctxInfo 0).life == .live && thenIs (exec (.contextFault 0) f) (fun t => (t.ctxInfo 0).life == .live) = true) ∧
    (hasFault h 0 && !(beginFault h 0).stopped 0 (fun _ => true) && thenIs (exec (.contextFault 0) h) (fun t => (t.ctxInfo 0).life == .faulted && t.blocks.all (·.halted) &&
      t.queues.all fun q => !q.2.en) = true) := by decide +kernel
theorem test_witness_ModuleEventsComplete_links :
    let m : Masks := { few with stay := 2 }
    let s := part0 State.reset
    let a : PeerAgent := { mod := 3, id := 4, card := false }
    let u : State := tabled { queue5 id s with parts := s.parts.set 0 { Part.fresh with w := m, a := m }, ports := s.ports.set 1 { up := true, errs := 3, downs := 0, retries := 15 } }
    (thenIs (exec (.stayFlitRetry 1) u) (fun t => t.ports[1]? == some { up := false, errs := 4, downs := 1, retries := 0 }) &&
      thenIs (exec (.stayFlitRetry 0) u) (fun t => t.ports[0]? == some { up := false, errs := 1, downs := 0, retries := 1 }) &&
      thenIs (exec (.stayLinkUp 0) u) (fun t => t.ports[0]? == some { up := true, errs := 0, downs := 0, retries := 0 }) = true) ∧
    (thenIs (exec (.stayRequestArrive 1 (.write a 0x80 [1, 2])) u) (fun t => t.bytes 0x80 2 == [1, 2]) &&
      thenIs (exec (.stayRequestArrive 1 (.read a 0x10000000 2)) u) (fun t => t.peerOut == [[1, 0]]) &&
      thenIs (exec (.stayRequestArrive 1 (.register a 0x85 true)) u) (fun t => t.peerRegs == [{ agent := a, line := 0x80, write := true }] && t.peerOut == [[0, 0, 0, 0]]) &&
      (let z : State := { u with parts := State.reset.parts }
       thenIs (exec (.stayRequestArrive 1 (.read a 0x80 2)) z) fun t => t.peerOut == [[]]) = true) ∧
    (let c : State := { u with cards := [{ card0 with queued := true, started := true, foot := [(.line 0x80, true)] }] }
     outsideHeld c (some a) 0x80 2 false && thenIs (exec (.stayRequestArrive 1 (.read a 0x80 2)) c) (fun t =>
         t.inbox == [{ place := 0, since := c.cycle, access := .stay (.read a 0x80 2) }] && t.peerOut.isEmpty) &&
       peerVerdict c a 0x80 true false == some 5 && roceHome c (nextPlace c) 0 0x80 8 true == .held &&
       leads (exec (.roceIncoming 0 0 (.fetchAdd 0x80 5)) c) { c with inbox := [{ place := 0, since := c.cycle, access := .roce 0 (.fetchAdd 0x80 5) [] }] } = true) ∧
    (let w : State := { u with cards := [{ card0 with queued := true, started := true, foot := [(.line 0x80, true)] }] }
     let g : State := { u with peerRegs := [{ agent := a, line := 0x80, write := true }] }
     let h : State := { g with cards := [{ card0 with queued := true, foot := [(.line 0x80, true)], place := some 2 }] }
     let b : PeerAgent := { a with id := 5 }
     !peerHolds w a 0x80 true && !heldBefore w (some a) none 0x80 && thenIs (exec (.stayRequestArrive 1 (.register a 0x85 true)) w) (fun t =>
         t.peerRegs.isEmpty && t.peerOut == [natLE 4 5 ++ natLE 4 (auxPeer 0).toNat]) &&
       thenIs (exec (.stayRequestArrive 1 (.register { a with card := true } 0x85 true)) w) (fun t => t.peerRegs.isEmpty && t.peerOut.isEmpty &&
         t.inbox == [{ place := 0, since := w.cycle, access := .stay (.register { a with card := true } 0x85 true) }]) &&
       peerHolds g a 0x80 true && thenIs (exec (.stayRequestArrive 1 (.register a 0x85 true)) g) (fun t => t.peerRegs == g.peerRegs && t.peerOut == [[0, 0, 0, 0]]) &&
       !peerHolds h b 0x80 true && heldBefore h (some b) none 0x80 && thenIs (exec (.stayRequestArrive 1 (.register b 0x85 true)) h) (fun t =>
         t.peerRegs == h.peerRegs && t.inbox == [{ place := 3, since := h.cycle, access := .stay (.register b 0x85 true) }]) = true) ∧
    (ethPart u 0 == some 0 && u.boundPart 0 == some 0 && roceHome u 0 0 0x80 8 true == .home 0x80 && nextPlace u == 0 && roceHome u 0 0 0x80 2 false == .home 0x80 &&
      !peerHolds u (roceAgent 0) 0x80 true && thenIs (exec (.roceIncoming 0 0 (.fetchAdd 0x80 5)) (u.putBytes 0x80 [250, 1])) (fun t => t.bytes 0x80 2 == [250, 1] &&
        t.inbox == [{ place := 0, since := u.cycle, access := .roce 0 (.fetchAdd 0x80 5) [] }] && peerHolds t (roceAgent 0) 0x80 true && t.peerOut.isEmpty &&
        (serveInbox t).bytes 0x80 2 == [255, 1] && (serveInbox t).peerOut == [[250, 1, 0, 0, 0, 0, 0, 0]] && (serveInbox t).peerRegs.isEmpty && (serveInbox t).inbox.isEmpty) &&
      thenIs (exec (.roceIncoming 0 0 (.rdmaRead 0x80 2)) (u.putBytes 0x80 [250, 1])) (fun t => t.peerOut == [[250, 1]]) = true) ∧
    (let x := roceWrite u 3 0 0x80 [1, 2]
     let g : State := { u with peerRegs := [{ agent := roceAgent 3, line := 0x80, write := true }] }
     let y := roceWrite g 3 0 0x80 [1, 2]
     x.stop == some .held && x.rest == [1, 2] && peerHolds x.s (roceAgent 3) 0x80 true && y.stop.isNone && y.rest.isEmpty && y.s.bytes 0x80 2 == [1, 2] &&
       y.s.peerRegs.isEmpty && g.ctxOf 0 != sysCtx && (g.conflict r0 0x80 false false).any (fun z => z.1 == 3) = true) ∧
    (leads (exec (.roceWorkRequest 5 0 (.send 0x80 2)) u) { u with peerOut := [[0, 0]], roce := [{ qp := 5, data := [0, 0] }] } = true) := by decide +kernel

/-! ## The machine -/

/-- The hypotheses of the first part of `StepRunsTheDecodedWord`, and what it says. -/
def begins (s : State) (hdr : W64) : Bool :=
  match s.warp? r0, s.entry? r0 0, s.seat? 0 with
  | some w, some e, some (core, g) =>
    match s.tag? core g (g.kernel.codeVa e.pc) with
    | some t =>
      chainFrom (fun off => some (t.word off)) (e.pc.toNat % 4096) 513 0 == .clause 0 hdr && e.pc.toNat % 4096 == 0 && !(unpackHeader hdr).bad &&
        flagsClear w (unpackHeader hdr).wait && ofWarp (beginClause s r0 0) fun x => (x.entries.map (·.pc)) == [8] &&
          x.cur == some { e := 0, hdr := hdr, hpc := 0, left := 2, word := 0, code := [0x0170010203002001, 0x0070000000000000], stay := none }
    | none => false
  | _, _, _ => false
/-- The hypotheses of the second part. -/
def atWord (s : State) (word : W64) : Bool :=
  let u := advance s
  !s.frz.frozen && !u.frz.frozen && s.agenda.isEmpty && match u.ctx? with
  | some c => u.onCore u.turn && !u.errDue u.turn && c.cur.code == [word] && (partner? u u.turn).isNone &&
      match decodeWord word with
      | .ok i => !stalled u c.r c.kern i
      | .error _ => true
  | none => false
/-- Two warps of one block and slot, with half of the lanes each, whose clauses stand at the same word. -/
def paired (word : W64) : State :=
  (State.reset.withFetchWord 64 word.toNat).modBlock 0 fun k => { k with warps := k.warps.flatMap fun w =>
    [{ w with entries := w.entries.map fun e => { e with mask := 0xFFFF } }, { w with entries := w.entries.map fun e => { e with mask := 0xFFFF0000 } }] }
/-- The hypotheses of the last part for an IADD: both words complete. -/
def asPair : Bool :=
  let u := advance (paired 0x0170010203002001)
  let a : WarpRef := { b := 0, w := 0 }
  let q : WarpRef := { b := 0, w := 1 }
  let i : Instr := .iadd { g := gT, d := v 1, a := v 2, b := .reg (v 3), sat := true, u := true }
  let hand (x : State) (r : WarpRef) : State := State.modWarp { x with turn := r } r fun y : Warp =>
    { y with cur := y.cur.map fun k => { k with word := 0x0170010203002001, code := [] }, issued := some x.cycle }
  u.turn == a && partner? u a == some q && pairReady a q u && !u.errDue a && !u.errDue q &&
    match exec i (hand ((u.modWarp a Warp.noteFused).modWarp q Warp.noteFused) a) with
    | .next v1 => (match ({ rankWarp v1 a with turn := q }).ctx?, exec i (hand (rankWarp v1 a) q) with
      | some d, .next v2 => d.cur.code == [0x0170010203002001] && (v2.blocks.flatMap (·.warps)).map (·.fuseCnt) == [1, 1]
      | _, _ => false)
    | _ => false
theorem test_witness_StepRunsTheDecodedWord_resumes :
    let b : Begun := { hdr := 2 ^ 44, hpc := 0, start := 8, code := [0x0070000000000000, 0x0170010203002001] }
    let s := ent (fun e => { e with pc := 16, begun := some b }) idle0
    let y := s.modWarp r0 fun w => { w with flags := w.flags.set 0 1 }
    (b.from? 16 == some [0x0170010203002001] && ofWarp s (flagsClear · (unpackHeader b.hdr).wait) && ofWarp (beginClause s r0 0) fun x =>
      x.cur == some { e := 0, hdr := b.hdr, hpc := 0, left := 1, word := 0, code := [0x0170010203002001], stay := none } &&
        x.entries.all fun e => e.begun.isNone && e.pc == 16) = true ∧
    (ofWarp y (fun w => !flagsClear w (unpackHeader b.hdr).wait) && ofWarp (beginClause y r0 0) fun x => x.cur.isNone &&
      x.entries.all fun e => e.st == .waiting .clauseWait && e.begun == some b) = true ∧
    (let p := placed 0x0170010203002001
     ofWarp p (fun w => w.cur.isSome) && ofWarp (dropClause p r0) fun x => x.cur.isNone && x.entries.all fun e => e.begun.any fun b => b.start == e.pc) = true := by
  decide +kernel
theorem test_witness_StepRunsTheDecodedWord_pair : asPair = true := by decide +kernel
theorem test_witness_StepRunsTheDecodedWord :
    begins (ent (fun e => { e with pc := 0 }) (coded (natLE 8 0x0100000000000000 ++ natLE 8 0x0170010203002001 ++ natLE 8 0x0070000000000000) idle0))
      0x0100000000000000 = true ∧
    atWord (State.reset.withFetchWord 64 0x0170010203002001) 0x0170010203002001 = true ∧
    atWord (State.reset.withFetchWord 64 0x0170010203000002) 0x0170010203000002 = true := by decide +kernel
theorem test_witness_EncodeAndDecodeAgree :
    WellFormed (.iadd { g := gT, d := v 1, a := v 2, b := .reg (v 3), sat := true, u := true }) = true ∧
    encode (.iadd { g := gT, d := v 1, a := v 2, b := .reg (v 3), sat := true, u := true }) = some 0x0170010203002001 ∧
    decodeWord 0x0170010203002001 = .ok (.iadd { g := gT, d := v 1, a := v 2, b := .reg (v 3), sat := true, u := true }) := by decide +kernel
theorem test_witness_StepKeepsTheInvariant :
    let s := State.reset.withFetchWord 64 0x0170010203002001
    Inv s ∧ ∃ t, step s = .next t := by
  refine ⟨⟨?_, ?_, ?_, ?_, ?_, ?_, ?_, ?_, ?_⟩, ?_⟩
  all_goals first | decide +kernel | skip
  have h : (match step (State.reset.withFetchWord 64 0x0170010203002001) with | .next _ => true | _ => false) = true := by decide +kernel
  split at h
  · exact ⟨_, by assumption⟩
  · cases h

end Sys2Proof.Tests
end

/-! PROOFS. The integer arithmetic words (08 R180-R182): what their shared shapes deliver, and the value of each. -/
section
namespace Sys2Proof.Machine

open Sys2Proof

/-! ## What the shapes of the integer words deliver -/

/-- A computing word without flags gives its results. -/
theorem gives_of_flagless {s : State} {c : Ctx} {i : Instr} {d : Option Reg} {r : Nat → LaneRes} {f : Ctx → Nat → LaneRes} {g : Guard}
    (h : Issues s c i) (he : exec i s = computeWord (opcodeOf i) i g false d f s) (hg : guardOf i = g) (hr : ∀ l, f c l = r l)
    (hfl : ∀ l, (r l).fl = 0) : Gives s c i d false r :=
  gives_of h f (by rw [he, hg]) (calm_of_zero hfl) (funext hr)

theorem gives_of_ibinWord {s : State} {c : Ctx} {i : Instr} {o : IBin} {op : W32 → W32 → W32} {x : Nat → W32} (h : Issues s c i)
    (he : exec i s = ibinWord (opcodeOf i) i o op s) (hg : guardOf i = o.g) (hx : ∀ l, op (c.val o.a l) (c.srcVal o.b l) = x l) :
    Gives s c i (some o.d) false fun l => res32 (x l) (c.bad o.a l || c.srcBad o.b l) :=
  gives_of_flagless h he hg (fun l => congrArg (res32 · _) (hx l)) fun _ => rfl

theorem gives_of_ibinWord64 {s : State} {c : Ctx} {i : Instr} {o : IBin} {op : W64 → W64 → W64} {x : Nat → W64} (h : Issues s c i)
    (he : exec i s = ibinWord64 (opcodeOf i) i o op s) (hg : guardOf i = o.g) (hx : ∀ l, op (c.pairVal o.a l) (c.src64Val o.b l) = x l) :
    Gives s c i (some o.d) false fun l => res64 (x l) (c.pairBad o.a l || c.src64Bad o.b l) :=
  gives_of_flagless h he hg (fun l => congrArg (res64 · _) (hx l)) fun _ => rfl

theorem gives_of_iunWord {s : State} {c : Ctx} {i : Instr} {o : IUn} {op : W32 → W32} {x : Nat → W32} (h : Issues s c i)
    (he : exec i s = iunWord (opcodeOf i) i o op s) (hg : guardOf i = o.g) (hx : ∀ l, op (c.val o.a l) = x l) :
    Gives s c i (some o.d) false fun l => res32 (x l) (c.bad o.a l) :=
  gives_of_flagless h he hg (fun l => congrArg (res32 · _) (hx l)) fun _ => rfl

theorem gives_of_iterWord {s : State} {c : Ctx} {i : Instr} {o : ITer} {op : W32 → W32 → W32 → W32} {x : Nat → W32} (h : Issues s c i)
    (he : exec i s = iterWord (opcodeOf i) i o op s) (hg : guardOf i = o.g)
    (hx : ∀ l, op (c.val o.a l) (c.val o.b l) (c.val o.c l) = x l) :
    Gives s c i (some o.d) false fun l => res32 (x l) (c.bad o.a l || c.bad o.b l || c.bad o.c l) :=
  gives_of_flagless h he hg (fun l => congrArg (res32 · _) (hx l)) fun _ => rfl

/-! ## Exact values and narrowing (08 R180) -/

theorem allOnes_eq_ofInt (n : Nat) : BitVec.allOnes n = BitVec.ofInt n (2 ^ n - 1) := by
  have hcast : ((2 ^ n - 1 : Nat) : Int) = 2 ^ n - 1 := by push_cast [Nat.one_le_two_pow]; rfl
  rw [← hcast, BitVec.ofInt_natCast]
  exact BitVec.eq_of_toNat_eq (by simp [Nat.mod_eq_of_lt])

/-- Sat to a type whose largest value is `m - 1`, by where the exact value lies. -/
theorem clamp_eq_ite {lo m : Int} (h : lo < m) (x : Int) : max lo (min (m - 1) x) = if x < lo then lo else if m ≤ x then m - 1 else x := by
  split_ifs with hlo hhi
  · exact max_eq_left (by omega)
  · rw [min_eq_left (by omega), max_eq_right (by omega)]
  · rw [min_eq_right (by omega), max_eq_right (by omega)]

theorem narrow_eq_narrowed (u sat : Bool) (n : Nat) (x : Int) : narrow u sat n x = narrowed u sat n x := by
  cases sat with
  | false => rfl
  | true =>
    cases u with
    | true =>
      have hpos : (0 : Int) < 2 ^ n := by positivity
      simp [narrow, narrowed, intMin, intMax, clamp_eq_ite hpos, apply_ite (BitVec.ofInt n), allOnes_eq_ofInt]
    | false =>
      have hpos : -(2 ^ (n - 1) : Int) < 2 ^ (n - 1) := neg_lt_self (by positivity)
      simp [narrow, narrowed, intMin, intMax, clamp_eq_ite hpos, apply_ite (BitVec.ofInt n)]

theorem aluIdot4_eq (ua ub sat : Bool) (a b c : W32) :
    aluIdot4 ua ub sat a b c = narrowed (ua && ub) sat 32 (readInt (ua && ub) c +
      readInt ua (byteOf a 0) * readInt ub (byteOf b 0) + readInt ua (byteOf a 1) * readInt ub (byteOf b 1) +
      readInt ua (byteOf a 2) * readInt ub (byteOf b 2) + readInt ua (byteOf a 3) * readInt ub (byteOf b 3)) := by
  simp [aluIdot4, narrow_eq_narrowed, List.range_succ, add_assoc]

theorem aluIdot2_eq (ua ub sat : Bool) (a b c : W32) :
    aluIdot2 ua ub sat a b c = narrowed (ua && ub) sat 32 (readInt (ua && ub) c +
      readInt ua (halfOf a 0) * readInt ub (halfOf b 0) + readInt ua (halfOf a 1) * readInt ub (halfOf b 1)) := by
  simp [aluIdot2, narrow_eq_narrowed, List.range_succ, add_assoc]

theorem aluIsad_eq (u sat : Bool) (a b c : W32) :
    aluIsad u sat a b c = narrowed u sat 32 (|readInt u a - readInt u b| + readInt u c) := by
  simp [aluIsad, narrow_eq_narrowed]

theorem aluIabs_eq (sat : Bool) (a : W32) : aluIabs sat a = narrowed false sat 32 |a.toInt| := by
  simp [aluIabs, narrow_eq_narrowed]

/-! ## Products, minima and maxima (08 R180) -/

theorem mul_eq_ofNat_toNat_mul {n : Nat} (a b : BitVec n) : a * b = BitVec.ofNat n (a.toNat * b.toNat) :=
  BitVec.eq_of_toNat_eq (by simp)

theorem aluMin_eq (u : Bool) (a b : W32) : aluMin u a b = if readInt u b < readInt u a then b else a := by
  simp only [aluMin, ← Int.not_lt, ite_not]

theorem aluMax_eq (u : Bool) (a b : W32) : aluMax u a b = if readInt u b < readInt u a then a else b := by
  simp only [aluMax, ← Int.not_lt, ite_not]

/-- Read as unsigned, patterns compare as `BitVec` does. -/
theorem readInt_unsigned_lt_iff {n : Nat} (a b : BitVec n) : readInt true a < readInt true b ↔ a < b := Int.ofNat_lt

/-! ## Divisions (08 R182) -/

theorem aluIdiv_eq (a b : W32) : aluIdiv a b =
    if b = 0 then 0xFFFFFFFF else if a = 0x80000000 ∧ b = 0xFFFFFFFF then 0x80000000 else BitVec.ofInt 32 (a.toInt.tdiv b.toInt) := by
  unfold aluIdiv
  split_ifs with h0 hov
  · rfl
  · obtain ⟨rfl, rfl⟩ := hov; rfl
  · rfl

theorem aluIrem_eq (a b : W32) : aluIrem a b =
    if b = 0 then a else if a = 0x80000000 ∧ b = 0xFFFFFFFF then 0
    else BitVec.ofInt 32 (a.toInt - a.toInt.tdiv b.toInt * b.toInt) := by
  unfold aluIrem
  split_ifs with h0 hov
  · rfl
  · obtain ⟨rfl, rfl⟩ := hov; rfl
  · rw [Int.tmod_def, Int.mul_comm]

theorem aluNdiv_eq (a b : W32) : aluNdiv a b = if b = 0 then 0xFFFFFFFF else a / b := by
  rw [aluNdiv, BitVec.udiv_def]

/-- Quotient and remainder of words make up the dividend. -/
theorem umod_add_udiv_mul {n : Nat} (a b : BitVec n) : a % b + a / b * b = a :=
  calc a % b + a / b * b
      = BitVec.ofNat n (a.toNat % b.toNat) + BitVec.ofNat n (a.toNat / b.toNat) * BitVec.ofNat n b.toNat := by
        rw [BitVec.umod_def, BitVec.udiv_def, BitVec.ofNat_toNat, BitVec.setWidth_eq]
    _ = BitVec.ofNat n (a.toNat % b.toNat + a.toNat / b.toNat * b.toNat) := by rw [BitVec.ofNat_add, BitVec.ofNat_mul]
    _ = a := by rw [Nat.mod_add_div', BitVec.ofNat_toNat, BitVec.setWidth_eq]

theorem aluNrem_eq (a b : W32) : aluNrem a b = if b = 0 then a else a - a / b * b := by
  rw [aluNrem, ← BitVec.umod_def, eq_sub_of_add_eq (umod_add_udiv_mul a b)]

/-! ## Carry chains (08 R181) -/

/-- The result of a carry word: one word, and the carry or "no borrow" in `pout`, both poisoned when a source or `pin` is. -/
def Ctx.carryRes (c : Ctx) (o : Carry) (l : Nat) (x : W32) (carry : Bool) : LaneRes :=
  let poison := c.bad o.a l || c.bad o.b l || c.predBad o.pin l
  { words := [{ val := x, poison := poison }], preds := [(o.pout, { val := carry, poison := poison })], fl := 0 }

theorem gives_of_carryWord {s : State} {c : Ctx} {i : Instr} {o : Carry} {sum : Ctx → Nat → W32} {out : Ctx → Nat → Bool}
    {x : Nat → W32} {carry : Nat → Bool} (h : Issues s c i)
    (he : exec i s = computeWord (opcodeOf i) i o.g false (some o.d) (fun c l => c.carryRes o l (sum c l) (out c l)) s)
    (hg : guardOf i = o.g) (hx : ∀ l, sum c l = x l) (hc : ∀ l, out c l = carry l) :
    Gives s c i (some o.d) false fun l => c.carryRes o l (x l) (carry l) :=
  gives_of_flagless h he hg (fun l => by rw [hx, hc]) fun _ => rfl

theorem ofNat_eq_ofNat_mod (n x : Nat) : BitVec.ofNat n x = BitVec.ofNat n (x % 2 ^ n) := BitVec.eq_of_toNat_eq (by simp)

/-- A clear `pin` is one borrowed. -/
theorem borrow_eq (a b : Nat) (pin : Bool) :
    (a : Int) - b - (if pin then 0 else 1) = a - b - (1 - ((if pin then 1 else 0 : Nat) : Int)) := by
  cases pin <;> rfl

/-- The difference is not negative exactly when nothing is borrowed. -/
theorem borrow_nonneg_iff (a b : Nat) (pin : Bool) :
    0 ≤ (a : Int) - b - (if pin then 0 else 1) ↔ b + (1 - if pin then 1 else 0) ≤ a := by
  cases pin
  · simp only [Bool.false_eq_true, if_false]; omega
  · simp only [if_true]; omega

end Sys2Proof.Machine

open Sys2Proof Sys2Proof.Machine

/-- Settles O1: each word is one of the shapes above, and its value is the exact value narrowed. -/
theorem integerArithmetic : Obligations.IntegerArithmetic := by
  refine ⟨fun s c => ⟨fun o h => ?iadd, fun o h => ?isub, fun o h => ?iadd3, fun o h => ?imad, fun o h => ?iabs, fun o h => ?ineg,
      fun o h => ?isad, fun o h => ?idot4, fun o h => ?idot2, fun o h => ?iadd64, fun o h => ?isub64⟩,
    fun s c => ⟨fun o h => ?imul, fun o h => ?imulh, fun o h => ?imulhn, fun o h => ?imul64, fun o h => ?imin, fun o h => ?imax,
      fun o h => ?nmin, fun o h => ?nmax⟩⟩
  case iadd => exact gives_of_ibinWord h rfl rfl fun _ => narrow_eq_narrowed ..
  case isub => exact gives_of_ibinWord h rfl rfl fun _ => narrow_eq_narrowed ..
  case iadd3 => exact gives_of_iterWord h rfl rfl fun _ => narrow_eq_narrowed ..
  case imad => exact gives_of_iterWord h rfl rfl fun _ => narrow_eq_narrowed ..
  case iabs => exact gives_of_iunWord h rfl rfl fun _ => aluIabs_eq ..
  case ineg => exact gives_of_iunWord h rfl rfl fun _ => narrow_eq_narrowed ..
  case isad => exact gives_of_iterWord h rfl rfl fun _ => aluIsad_eq ..
  case idot4 => exact gives_of_iterWord h rfl rfl fun _ => aluIdot4_eq ..
  case idot2 => exact gives_of_iterWord h rfl rfl fun _ => aluIdot2_eq ..
  case iadd64 => exact gives_of_ibinWord64 h rfl rfl fun _ => narrow_eq_narrowed ..
  case isub64 => exact gives_of_ibinWord64 h rfl rfl fun _ => narrow_eq_narrowed ..
  case imul => exact gives_of_ibinWord h rfl rfl fun _ => mul_eq_ofNat_toNat_mul ..
  case imulh => exact gives_of_ibinWord h rfl rfl fun _ => rfl
  case imulhn => exact gives_of_ibinWord h rfl rfl fun _ => rfl
  case imul64 => exact gives_of_ibinWord64 h rfl rfl fun _ => mul_eq_ofNat_toNat_mul ..
  case imin => exact gives_of_ibinWord h rfl rfl fun _ => aluMin_eq false ..
  case imax => exact gives_of_ibinWord h rfl rfl fun _ => aluMax_eq false ..
  case nmin => exact gives_of_ibinWord h rfl rfl fun _ => (aluMin_eq true ..).trans (if_congr (readInt_unsigned_lt_iff ..) rfl rfl)
  case nmax => exact gives_of_ibinWord h rfl rfl fun _ => (aluMax_eq true ..).trans (if_congr (readInt_unsigned_lt_iff ..) rfl rfl)

/-- Settles O2: the carry words by the exact sum and difference, the divisions by the cases of 08 R182. -/
theorem carriesAndDivisions : Obligations.CarriesAndDivisions := by
  refine ⟨fun s c o => ⟨fun h => ?iaddc, fun h => ?isubb⟩,
    fun s c o => ⟨fun h => ?idiv, fun h => ?irem, fun h => ?ndiv, fun h => ?nrem⟩⟩
  case iaddc => exact gives_of_carryWord h rfl rfl (fun _ => ofNat_eq_ofNat_mod ..) fun _ => rfl
  case isubb =>
    exact gives_of_carryWord h rfl rfl (fun _ => congrArg (BitVec.ofInt 32) (borrow_eq ..))
      fun _ => decide_eq_decide.mpr (borrow_nonneg_iff ..)
  case idiv => exact gives_of_ibinWord h rfl rfl fun _ => aluIdiv_eq ..
  case irem => exact gives_of_ibinWord h rfl rfl fun _ => aluIrem_eq ..
  case ndiv => exact gives_of_ibinWord h rfl rfl fun _ => aluNdiv_eq ..
  case nrem => exact gives_of_ibinWord h rfl rfl fun _ => aluNrem_eq ..
end

/-! PROOFS. The cross-lane words (09 R213-R220): what they read and move, the lanes they read from, and the folds and the tree of the reductions. -/
section
namespace Sys2Proof.Machine

open Sys2Proof

/-! ## A word that issues -/

theorem Issues.wellFormed {s : State} {c : Ctx} {i : Instr} (h : Issues s c i) : WellFormed i = true := by
  have hok : fieldsOk i c.kern = true := by
    have hd := h.decode
    unfold Ctx.decodeTrap at hd
    split_ifs at hd with _ _ _ hlegal
    simpa using hlegal
  obtain ⟨hwf, -⟩ := Bool.and_eq_true_iff.mp hok
  exact (Bool.and_eq_true_iff.mp hwf).1

/-- The modifiers of a word that issues are among those its encoding table lists. -/
theorem Issues.form {s : State} {c : Ctx} {i : Instr} (h : Issues s c i) : i.form = true :=
  (Bool.and_eq_true_iff.mp h.wellFormed).2

theorem Issues.lanesFor_eq_cons {s : State} {c : Ctx} {i : Instr} (h : Issues s c i) : ∃ a as, c.lanesFor i = a :: as :=
  List.exists_cons_of_ne_nil h.active

/-! ## Fields, sources and register writes -/

theorem bitVec2_cases (m : BitVec 2) : m = 0 ∨ m = 1 ∨ m = 2 ∨ m = 3 := by decide +revert
theorem bitVec3_cases (m : BitVec 3) : m = 0 ∨ m = 1 ∨ m = 2 ∨ m = 3 ∨ m = 4 ∨ m = 5 ∨ m = 6 ∨ m = 7 := by decide +revert

@[simp] theorem Lane.setVs_origin (l : Lane) (n : Nat) (xs : List PW) : (l.setVs n xs).origin = l.origin := by rw [Lane.setVs_eq]
@[simp] theorem Lane.setVs_retired (l : Lane) (n : Nat) (xs : List PW) : (l.setVs n xs).retired = l.retired := by rw [Lane.setVs_eq]

theorem reg_val (c : Ctx) (r : Reg) (l : Nat) : (c.wp.reg r l).val = c.val r l := rfl
theorem reg_poison (c : Ctx) (r : Reg) (l : Nat) : (c.wp.reg r l).poison = c.bad r l := rfl
theorem src_val (c : Ctx) (b : Src) (l : Nat) : (c.wp.src b l).val = c.srcVal b l := rfl
theorem src_poison (c : Ctx) (b : Src) (l : Nat) : (c.wp.src b l).poison = c.srcBad b l := rfl

/-! ## What a cross-lane word moves -/

/-- Register `r + k` of lane `l`, poisoned also when `q`. -/
def Ctx.movedWord (c : Ctx) (r : Reg) (l : Nat) (q : Bool) (k : Nat) : PW :=
  { val := c.val (regPlus r k) l, poison := c.bad (regPlus r k) l || q }

@[simp] theorem regPlus_zero (r : Reg) : regPlus r 0 = r := by simp [regPlus]

/-- A copied value that takes the poison of a lane operand. -/
theorem copyReg_poisoned (c : Ctx) (r : Reg) (pair : Bool) (l : Nat) (q : Bool) :
    ((copyReg c.wp r pair l).map fun x => { x with poison := x.poison || q }) =
      if pair then [c.movedWord r l q 0, c.movedWord r l q 1] else [c.movedWord r l q 0] := by
  cases pair <;> simp [copyReg, copyWords, Ctx.movedWord, Ctx.val, Ctx.bad]

theorem lowestOrigin_eq_firstOrigin (c : Ctx) (ls : List Nat) (bad : Nat → Bool) : lowestOrigin c.wp ls bad = firstOrigin c ls bad := by
  rw [lowestOrigin, ← List.head?_filter, firstOrigin]
  cases ls.filter bad <;> rfl

/-- A word whose arm of the dispatch is the cross-lane word `x` crosses with what `x` leaves in each lane. -/
theorem crosses_of_body {s : State} {c : Ctx} {i : Instr} {nf : Bool} {d : Option Reg} {r : Nat → LaneRes} {org : Nat → Option VAddr}
    {x : Out} {f : Ctx → List Nat → Nat → CrossRes} (h : Issues s c i) (hx : x = crossWord (opcodeOf i) i (guardOf i) nf d f s)
    (he : exec i s = x) (calm : Calm c i nf r) (hr : ∀ l, f c (c.lanesFor i) l = { res := r l, origin := org l }) :
    Crosses s c i d nf r org :=
  crosses_of h f (he.trans hx) calm hr

/-! ## The source lane of SHFL (09 R215) -/

/-- The first lane of the segment of lane `i`. -/
def shflBase (w : BitVec 3) (i : Nat) : Nat := i - i % 2 ^ w.toNat

/-- The lane that SHFL names in lane `i`, inside its segment or not. -/
def shflPlace (m : BitVec 2) (w : BitVec 3) (i : Nat) (b : W32) : Int :=
  if m = 0 then ((shflBase w i + b.toNat % 2 ^ w.toNat : Nat) : Int)
  else if m = 1 then ((shflBase w i + (i - shflBase w i + b.toNat) % 2 ^ w.toNat : Nat) : Int)
  else if m = 2 then (i : Int) + b.toInt
  else ((shflBase w i + ((i - shflBase w i) ^^^ (b.toNat % 2 ^ w.toNat)) : Nat) : Int)

/-- A place lies in the segment of lane `i`. -/
def inSegment (w : BitVec 3) (i : Nat) (j : Int) : Bool :=
  decide ((shflBase w i : Int) ≤ j ∧ j < ((shflBase w i + 2 ^ w.toNat : Nat) : Int))

theorem inSegment_base_add {w : BitVec 3} (i : Nat) {k : Nat} (h : k < 2 ^ w.toNat) :
    inSegment w i ((shflBase w i + k : Nat) : Int) = true :=
  decide_eq_true ⟨by omega, by omega⟩

theorem sub_shflBase_lt (w : BitVec 3) (i : Nat) : i - shflBase w i < 2 ^ w.toNat := by
  have := Nat.mod_lt i (Nat.two_pow_pos w.toNat)
  unfold shflBase
  omega

/-- SHFL has a source lane when the lane it names lies in the segment; modes 0, 1 and 3 never leave it. -/
theorem shflSource_eq (m : BitVec 2) (w : BitVec 3) (i : Nat) (b : W32) :
    shflSource m w i b = if inSegment w i (shflPlace m w i b) then some (shflPlace m w i b).toNat else none := by
  have hpos : 0 < 2 ^ w.toNat := Nat.two_pow_pos _
  have hbase : i / 2 ^ w.toNat * 2 ^ w.toNat = shflBase w i := Nat.div_mul_self_eq_mod_sub_self
  have inside {k : Nat} (hk : k < 2 ^ w.toNat) : some (shflBase w i + k) =
      if inSegment w i ((shflBase w i + k : Nat) : Int) then some ((shflBase w i + k : Nat) : Int).toNat else none := by
    rw [if_pos (inSegment_base_add i hk), Int.toNat_natCast]
  rw [shflSource, hbase]
  obtain rfl | rfl | rfl | rfl := bitVec2_cases m
  · exact inside (Nat.mod_lt _ hpos)
  · exact inside (Nat.mod_lt _ hpos)
  · have outside (j : Int) : (decide (j < shflBase w i) || decide ((shflBase w i + (2 ^ w.toNat : Nat) : Int) ≤ j)) = !inSegment w i j := by
      rw [inSegment, ← decide_not, ← Bool.decide_or, decide_eq_decide]
      omega
    change (if (_ || _) = true then none else _) = if inSegment w i ((i : Int) + b.toInt) then some ((i : Int) + b.toInt).toNat else none
    rw [outside]
    cases inSegment w i ((i : Int) + b.toInt) <;> rfl
  · exact inside (Nat.xor_lt_two_pow (sub_shflBase_lt w i) (Nat.mod_lt _ hpos))

/-- A source lane that is not active is none. -/
theorem shflSource_filter (m : BitVec 2) (w : BitVec 3) (i : Nat) (b : W32) (act : List Nat) :
    ((shflSource m w i b).filter fun j => act.contains j) =
      if inSegment w i (shflPlace m w i b) && act.contains (shflPlace m w i b).toNat then some (shflPlace m w i b).toNat else none := by
  rw [shflSource_eq]
  cases inSegment w i (shflPlace m w i b) <;> simp [Option.filter]

/-! ## Votes, matches and elections (09 R217) -/

theorem voteVal_val (c : Ctx) (pa : BitVec 3) (n : Bool) (l : Nat) : (voteVal c pa n l).val = Bool.xor (c.predVal pa l) n := rfl
theorem voteVal_poison (c : Ctx) (pa : BitVec 3) (n : Bool) (l : Nat) : (voteVal c pa n l).poison = c.predBad pa l := rfl

theorem maskWords_res (wide : Bool) (m : LaneMask) (q : Bool) :
    ({ words := maskWords wide m q, preds := [], fl := 0 } : LaneRes) = if wide then res64 m q else res32 (m.extractLsb' 0 32) q := by
  cases wide <;> rfl

/-- MATCH compares words as words and pairs as pairs. -/
theorem matchVal_beq (c : Ctx) (pair : Bool) (a : Reg) (k l : Nat) :
    ((matchVal c pair a k).val == (matchVal c pair a l).val) =
      if pair then c.pairVal a k == c.pairVal a l else c.val a k == c.val a l := by
  cases pair with
  | true => rfl
  | false =>
    have inj : (c.val a k).setWidth 64 = (c.val a l).setWidth 64 ↔ c.val a k = c.val a l :=
      ⟨fun e => by simpa using congrArg (BitVec.setWidth 32) e, fun e => by rw [e]⟩
    exact decide_eq_decide.mpr inj

theorem matchVal_poison (c : Ctx) (pair : Bool) (a : Reg) (l : Nat) :
    (matchVal c pair a l).poison = if pair then c.pairBad a l else c.bad a l := by
  cases pair <;> rfl

/-- The lowest active lane is the head of the active lanes. -/
theorem head?_beq_first {s : State} {c : Ctx} {i : Instr} (h : Issues s c i) (l : Nat) :
    ((c.lanesFor i).head? == some l) = (l == c.first i) := by
  obtain ⟨a, as, hact⟩ := h.lanesFor_eq_cons
  simp [Ctx.first, hact, Bool.beq_comm]

/-! ## Quad words (09 R216) -/

/-- The quads of some lanes hold lane `l` when one of the lanes is of its quad. -/
theorem quadsOf_maskOf_bit {ls : List Nat} {l : Nat} (hl : l < 64) :
    (quadsOf (maskOf ls)).getLsbD l = ls.any fun k => k / 4 == l / 4 := by
  have bit : ∀ k ∈ List.range 4, (maskOf ls).getLsbD (l / 4 * 4 + k) = decide (l / 4 * 4 + k ∈ ls) := fun k hk =>
    maskOf_bit ls _ (by have := List.mem_range.mp hk; omega)
  rw [quadsOf, maskOf_bit _ _ hl, Bool.eq_iff_iff]
  simp only [decide_eq_true_eq, List.mem_filter, List.mem_range, hl, true_and, List.any_eq_true, beq_iff_eq]
  constructor
  · rintro ⟨k, hk, hb⟩
    rw [bit k (List.mem_range.mpr hk)] at hb
    exact ⟨_, of_decide_eq_true hb, by omega⟩
  · rintro ⟨k, hk, hq⟩
    have hk4 : k % 4 < 4 := Nat.mod_lt k (by decide)
    refine ⟨k % 4, hk4, ?_⟩
    rw [bit _ (List.mem_range.mpr hk4), ← hq, Nat.div_add_mod']
    exact decide_eq_true hk

theorem helpers_lt {c : Ctx} {l : Nat} (h : l ∈ c.helpers) : l < 64 := by
  have hw : c.kern.width ≤ 64 := by unfold Kernel.width; split <;> decide
  unfold Ctx.helpers at h
  split at h
  · exact Nat.lt_of_lt_of_le (List.mem_range.mp (List.mem_of_mem_filter h)) hw
  · cases h

/-- The lanes that act in a word, helpers included, are each listed once. -/
theorem acting_nodup (c : Ctx) (i : Instr) : (c.lanesFor i ++ c.helpers).Nodup :=
  List.nodup_append'.mpr ⟨active_nodup c _, helpers_nodup c, fun _ ha hh => helper_not_active hh ha⟩

theorem acting_lt {c : Ctx} {i : Instr} {l : Nat} (h : l ∈ c.lanesFor i ++ c.helpers) : l < 64 :=
  (List.mem_append.mp h).elim (fun ha => (active_entry ha).1) helpers_lt

/-- A lane is written by a quad word when it acts and its quad holds an active lane. -/
theorem mem_quadLanes_iff {c : Ctx} {i : Instr} {l : Nat} :
    (l ∈ (c.lanesFor i ++ c.helpers).filter fun l => (quadsOf (maskOf (c.lanesFor i))).getLsbD l) ↔
      l ∈ c.lanesFor i ++ c.helpers ∧ ((c.lanesFor i).any fun k => k / 4 == l / 4) = true := by
  rw [List.mem_filter]
  exact and_congr_right fun hl => by rw [quadsOf_maskOf_bit (acting_lt hl)]

/-- What lane `l` brings to the lanes it is the source of: zero marked as poisoned when it does not act. -/
def Ctx.quadWords (c : Ctx) (act : List Nat) (o : QuadOp) (l : Nat) : List PW :=
  if l ∈ act then (if o.pair then [c.wp.reg o.a l, c.wp.reg (regPlus o.a 1) l] else [c.wp.reg o.a l])
  else if o.pair then [poisonPW, poisonPW] else [poisonPW]

/-- A lane after a quad word: changed when it acts and its quad holds an active lane. -/
def Ctx.quadLane (c : Ctx) (i : Instr) (o : QuadOp) (src : Nat → Nat) (l : Nat) (x : Lane) : Lane :=
  if l ∈ c.lanesFor i ++ c.helpers ∧ ((c.lanesFor i).any fun k => k / 4 == l / 4) = true then
    { (x.setVs o.d.toNat (c.quadWords (c.lanesFor i ++ c.helpers) o (src l))) with
      origin := x.origin.or (if src l ∈ c.lanesFor i ++ c.helpers ∧ src l ≠ l then (c.wp.lane (src l)).origin else none) }
  else x

theorem quadLane_retired (c : Ctx) (i : Instr) (o : QuadOp) (src : Nat → Nat) (l : Nat) (x : Lane) :
    (c.quadLane i o src l x).retired = x.retired := by
  unfold Ctx.quadLane
  split <;> simp

theorem edits_of_quadWord {s : State} {c : Ctx} {i : Instr} {o : QuadOp} {src : Nat → Nat} (h : Issues s c i) (hg : guardOf i = o.g)
    (he : exec i s = quadWord (opcodeOf i) i o src s) : Edits s c i (c.quadLane i o src) c.wp.s := by
  rw [quadWord, ← hg] at he
  refine edits_of_done h (fun w => w.mapLanes _ _) he rfl (Warp.mapLanes_rest ..) (Warp.mapLanes_entries ..) (Warp.mapLanes_cur ..)
    (fun l => ?_) (Warp.mapLanes_s ..) (quadLane_retired c i o src)
  unfold LaneIs
  rw [Warp.mapLanes_get _ _ _ ((acting_nodup c _).filter _)]
  refine congrArg (Option.map · c.wp.lanes[l]?) (funext fun x => ?_)
  rw [Ctx.quadLane]
  refine if_congr mem_quadLanes_iff ?_ rfl
  simp only [takeOrigin_eq, Lane.setVs_origin, Ctx.quadWords, copyReg, copyWords, List.contains_iff_mem, Bool.and_eq_true, bne_iff_ne]

/-! ## READLANE and WRITELANE (09 R220) -/

/-- Zero marked as poisoned, or a moved value: either takes the poison of a lane operand. -/
theorem readlaneWords_eq (c : Ctx) (r : Reg) (pair : Bool) (act : List Nat) (j : Nat) (q : Bool) :
    (((if j ∈ act then copyReg c.wp r pair j else if pair then [poisonPW, poisonPW] else [poisonPW]) : List PW).map
        fun x => { x with poison := x.poison || q }) =
      if pair then [if j ∈ act then c.movedWord r j q 0 else poisonPW, if j ∈ act then c.movedWord r j q 1 else poisonPW]
      else [if j ∈ act then c.movedWord r j q 0 else poisonPW] := by
  by_cases hj : j ∈ act
  · simp only [hj, if_true, copyReg_poisoned]
  · simp only [hj, if_false]
    cases pair <;> rfl

/-- A change of the issuing warp that is made under a condition. -/
theorem ite_modWarp {s : State} {c : Ctx} (h : s.ctx? = some c) (p : Bool) (f : Warp → Warp) :
    (if p then s.modWarp c.r f else s) = s.modWarp c.r fun w => if p then f w else w := by
  cases p with
  | true => rfl
  | false =>
    have hsame : s.modWarp c.r (fun w => w) = s.modWarp c.r fun _ => c.wp :=
      modWarp_congr s c.r _ _ fun w hw => by rw [ctx?_warp h] at hw; exact (Option.some.inj hw).symm
    exact (hsame.trans (modWarp_self s c.r c.wp (ctx?_warp h))).symm

/-- WRITELANE is a change over one lane, or over none when that lane is not active. -/
theorem ite_modLane_eq_mapLanes (w : Warp) (act : List Nat) (j : Nat) (f : Lane → Lane) :
    (if act.contains j then w.modLane j f else w) = w.mapLanes ([j].filter act.contains) fun _ => f := by
  rw [Warp.mapLanes, List.filter_cons]
  cases act.contains j <;> rfl

/-- The lane that WRITELANE names. -/
def Ctx.writelaneLane (c : Ctx) (o : WriteLaneOp) : Nat := (c.srcVal o.b 0).toNat % c.kern.width

/-- The words that WRITELANE writes. -/
def Ctx.writelaneWords (c : Ctx) (o : WriteLaneOp) : List PW :=
  if o.pair then [c.movedWord (Reg.sc o.a) 0 (c.srcBad o.b 0) 0, c.movedWord (Reg.sc o.a) 0 (c.srcBad o.b 0) 1]
  else [c.movedWord (Reg.sc o.a) 0 (c.srcBad o.b 0) 0]

theorem edits_of_writelane {s : State} {c : Ctx} {o : WriteLaneOp} (h : Issues s c (.writelane o)) :
    Edits s c (.writelane o)
      (fun l x => if l = c.writelaneLane o ∧ c.writelaneLane o ∈ c.lanesFor (.writelane o) then x.setVs o.d.toNat (c.writelaneWords o) else x)
      c.wp.s := by
  refine edits_of_done h
    (fun w => w.mapLanes ([c.writelaneLane o].filter (c.lanesFor (.writelane o)).contains) fun _ x => x.setVs o.d.toNat (c.writelaneWords o))
    (execWritelane.eq_def o s) ?_ (Warp.mapLanes_rest ..) (Warp.mapLanes_entries ..) (Warp.mapLanes_cur ..) (fun l => ?_)
    (Warp.mapLanes_s ..) (fun l x => ?_)
  · simp only [copyReg_poisoned, src_poison, src_val, ite_modWarp h.ctx, ite_modLane_eq_mapLanes]
    rfl
  · unfold LaneIs
    rw [Warp.mapLanes_get _ _ _ ((List.nodup_singleton _).filter _)]
    refine congrArg (Option.map · c.wp.lanes[l]?) (funext fun x => if_congr ?_ rfl rfl)
    simp only [List.mem_filter, List.mem_singleton, List.contains_iff_mem]
    exact and_congr_right fun e => by rw [e]
  · split <;> simp

/-! ## Integer reductions (09 R218) -/

theorem ofInt_readInt {n : Nat} (u : Bool) (p : BitVec n) : BitVec.ofInt n (readInt u p) = p := by
  cases u with
  | true => rw [readInt, if_pos rfl, BitVec.ofInt_natCast, BitVec.ofNat_toNat, BitVec.setWidth_eq]
  | false => exact BitVec.ofInt_toInt

theorem readInt_injective {n : Nat} {u : Bool} {p q : BitVec n} (h : readInt u p = readInt u q) : p = q := by
  rw [← ofInt_readInt u p, h, ofInt_readInt]

theorem readInt_le_intMax {n : Nat} (u : Bool) (p : BitVec n) : readInt u p ≤ intMax u n := by
  cases u with
  | true =>
    have hp : (p.toNat : Int) < 2 ^ n := by exact_mod_cast p.isLt
    exact Int.le_sub_one_of_lt hp
  | false => exact BitVec.toInt_le

theorem intMin_le_readInt {n : Nat} (u : Bool) (p : BitVec n) : intMin u n ≤ readInt u p := by
  cases u with
  | true => exact Int.natCast_nonneg _
  | false => exact BitVec.le_toInt p

theorem readInt_allOnes (n : Nat) : readInt true (BitVec.allOnes n) = intMax true n := by
  simp [readInt, intMax, Nat.one_le_two_pow]

theorem readInt_foldId_min {n : Nat} (hn : 0 < n) (u : Bool) : readInt u (foldId n u 1) = intMax u n := by
  cases u with
  | true => exact readInt_allOnes n
  | false =>
    have hp : (0 : Int) < 2 ^ (n - 1) := by positivity
    exact BitVec.toInt_ofInt_eq_self hn (by omega) (by omega)

theorem readInt_foldId_max {n : Nat} (hn : 0 < n) (u : Bool) : readInt u (foldId n u 2) = intMin u n := by
  cases u with
  | true => simp [readInt, foldId, intMin]
  | false =>
    have hp : (0 : Int) < 2 ^ (n - 1) := by positivity
    exact BitVec.toInt_ofInt_eq_self hn le_rfl (by omega)

theorem readInt_min {n : Nat} (u : Bool) (p q : BitVec n) :
    readInt u (if readInt u q < readInt u p then q else p) = min (readInt u p) (readInt u q) := by
  split
  · next h => exact (min_eq_right h.le).symm
  · next h => exact (min_eq_left (not_lt.mp h)).symm

theorem readInt_max {n : Nat} (u : Bool) (p q : BitVec n) :
    readInt u (if readInt u p < readInt u q then q else p) = max (readInt u p) (readInt u q) := by
  split
  · next h => exact (max_eq_right h.le).symm
  · next h => exact (max_eq_left (not_lt.mp h)).symm

/-- Each operation leaves a value as it is when it starts from its identity. -/
theorem foldOp_foldId {n : Nat} (hn : 0 < n) (u : Bool) (op : BitVec 3) (p : BitVec n) : foldOp u op (foldId n u op) p = p := by
  by_cases h1 : op = 1
  · subst h1
    refine readInt_injective (u := u) ((readInt_min u _ p).trans ?_)
    rw [readInt_foldId_min hn, min_eq_right (readInt_le_intMax u p)]
  by_cases h2 : op = 2
  · subst h2
    refine readInt_injective (u := u) ((readInt_max u _ p).trans ?_)
    rw [readInt_foldId_max hn, max_eq_right (intMin_le_readInt u p)]
  by_cases h3 : op = 3
  · subst h3
    exact BitVec.allOnes_and
  have hid : foldId n u op = 0 := by rw [foldId, if_neg h1, if_neg h2, if_neg h3]
  rw [hid]
  unfold foldOp
  split_ifs <;> simp

theorem setWidth_ofInt_of_le {m n : Nat} (h : n ≤ m) (x : Int) : (BitVec.ofInt m x).setWidth n = BitVec.ofInt n x := by
  have hdvd : ((2 ^ n : Nat) : Int) ∣ ((2 ^ m : Nat) : Int) := Int.natCast_dvd_natCast.mpr (pow_dvd_pow 2 h)
  have hm : 0 ≤ x % ((2 ^ m : Nat) : Int) := Int.emod_nonneg _ (by positivity)
  apply BitVec.eq_of_toNat_eq
  rw [BitVec.toNat_setWidth, BitVec.toNat_ofInt, BitVec.toNat_ofInt, ← Int.emod_emod_of_dvd x hdvd,
    Int.toNat_emod hm (Int.natCast_nonneg _), Int.toNat_natCast]

/-- The width of the reduction's type. -/
def redWidth (o : ReduxOp) : Nat := if o.pair then 64 else 32

theorem redWidth_le (o : ReduxOp) : redWidth o ≤ 64 := by unfold redWidth; split <;> decide
theorem redWidth_pos (o : ReduxOp) : 0 < redWidth o := by unfold redWidth; split <;> decide

theorem redInt_eq {o : ReduxOp} {n : Nat} (hn : redWidth o = n) (x : W64) : redInt o x = readInt o.u (x.setWidth n) := by
  subst hn
  unfold redInt redWidth
  cases o.pair with
  | true => simp
  | false => simp [BitVec.setWidth_eq_extractLsb']

theorem redWrap_eq {o : ReduxOp} {n : Nat} (hn : redWidth o = n) (x : Int) : redWrap o x = readInt o.u (BitVec.ofInt n x) := by
  rw [redWrap, redInt_eq hn, setWidth_ofInt_of_le (hn ▸ redWidth_le o)]

theorem redOp_eq (o : ReduxOp) (x y : Int) : redOp o x y =
    if o.op = 0 then x + y else if o.op = 1 then min x y else if o.op = 2 then max x y
    else if o.op = 3 then redInt o (BitVec.ofInt 64 x &&& BitVec.ofInt 64 y)
    else if o.op = 4 then redInt o (BitVec.ofInt 64 x ||| BitVec.ofInt 64 y)
    else redInt o (BitVec.ofInt 64 x ^^^ BitVec.ofInt 64 y) := by
  unfold redOp
  obtain h | h | h | h | h | h | h | h := bitVec3_cases o.op <;> rw [h] <;> rfl

theorem redId_eq (o : ReduxOp) : redId o =
    if o.op = 1 then intMax o.u (redWidth o) else if o.op = 2 then intMin o.u (redWidth o)
    else if o.op = 3 then redInt o (BitVec.allOnes 64) else 0 := by
  unfold redId
  obtain h | h | h | h | h | h | h | h := bitVec3_cases o.op <;> rw [h] <;> rfl

/-- The exact value `x` stands for the pattern `p` of the reduction's type: it is the value of `p`, or, under add, equal to it modulo the width. -/
structure StandsFor (o : ReduxOp) {n : Nat} (x : Int) (p : BitVec n) : Prop where
  pattern : BitVec.ofInt n x = p
  exact   : o.op ≠ 0 → x = readInt o.u p

theorem standsFor_of_eq {o : ReduxOp} {n : Nat} {x : Int} {p : BitVec n} (h : x = readInt o.u p) : StandsFor o x p :=
  ⟨h ▸ ofInt_readInt .., fun _ => h⟩

theorem StandsFor.wrap {o : ReduxOp} {n : Nat} {x : Int} {p : BitVec n} (hn : redWidth o = n) (h : StandsFor o x p) :
    StandsFor o (redWrap o x) p :=
  standsFor_of_eq (by rw [redWrap_eq hn, h.pattern])

/-- The operation on exact values stands for the operation on patterns. -/
theorem StandsFor.combine {o : ReduxOp} {n : Nat} {x : Int} {p : BitVec n} (hn : redWidth o = n) (h : StandsFor o x p) (q : BitVec n) :
    StandsFor o (redOp o x (readInt o.u q)) (foldOp o.u o.op p q) := by
  by_cases h0 : o.op = 0
  · rw [redOp_eq, foldOp, if_pos h0, if_pos h0]
    exact ⟨by rw [BitVec.ofInt_add, h.pattern, ofInt_readInt], fun hne => absurd h0 hne⟩
  refine standsFor_of_eq ?_
  rw [h.exact h0, redOp_eq, foldOp, if_neg h0, if_neg h0]
  by_cases h1 : o.op = 1
  · rw [if_pos h1, if_pos h1, readInt_min]
  by_cases h2 : o.op = 2
  · rw [if_neg h1, if_neg h1, if_pos h2, if_pos h2, readInt_max]
  rw [if_neg h1, if_neg h1, if_neg h2, if_neg h2]
  have back (y : BitVec n) : (BitVec.ofInt 64 (readInt o.u y)).setWidth n = y := by
    rw [setWidth_ofInt_of_le (hn ▸ redWidth_le o), ofInt_readInt]
  split_ifs
  · rw [redInt_eq hn, BitVec.setWidth_and, back, back]
  · rw [redInt_eq hn, BitVec.setWidth_or, back, back]
  · rw [redInt_eq hn, BitVec.setWidth_xor, back, back]

theorem standsFor_redId {o : ReduxOp} {n : Nat} (hn : redWidth o = n) : StandsFor o (redId o) (foldId n o.u o.op) := by
  have hpos : 0 < n := hn ▸ redWidth_pos o
  refine standsFor_of_eq ?_
  rw [redId_eq, hn]
  by_cases h1 : o.op = 1
  · rw [if_pos h1, h1, readInt_foldId_min hpos]
  by_cases h2 : o.op = 2
  · rw [if_neg h1, if_pos h2, h2, readInt_foldId_max hpos]
  by_cases h3 : o.op = 3
  · have ones : (BitVec.allOnes 64).setWidth n = BitVec.allOnes n := by
      ext k hk
      have hle : n ≤ 64 := hn ▸ redWidth_le o
      rw [BitVec.getElem_setWidth, BitVec.getLsbD_allOnes, BitVec.getElem_allOnes]
      exact decide_eq_true (by omega)
    rw [if_neg h1, if_neg h2, if_pos h3, foldId, if_neg h1, if_neg h2, if_pos h3, redInt_eq hn, ones]
  · rw [if_neg h1, if_neg h2, if_neg h3, foldId, if_neg h1, if_neg h2, if_neg h3]
    cases o.u <;> simp [readInt]

/-- The exact fold of some lanes, from the value of the first. -/
theorem standsFor_fold_cons {o : ReduxOp} {n : Nat} {val : Nat → Int} {pat : Nat → BitVec n} (hn : redWidth o = n)
    (hv : ∀ l, val l = readInt o.u (pat l)) (a : Nat) (as : List Nat) :
    StandsFor o ((as.map val).foldl (redOp o) (val a)) (((a :: as).map pat).foldl (foldOp o.u o.op) (foldId n o.u o.op)) := by
  rw [List.map_cons, List.foldl_cons, foldOp_foldId (hn ▸ redWidth_pos o), List.foldl_map, List.foldl_map]
  exact List.foldl_rel (standsFor_of_eq (hv a)) fun l _ x p h => by rw [hv l]; exact h.combine hn (pat l)

/-- The running value of PREFIX, wrapped at each lane, from the identity. -/
theorem standsFor_fold_wrap {o : ReduxOp} {n : Nat} {val : Nat → Int} {pat : Nat → BitVec n} (hn : redWidth o = n)
    (hv : ∀ l, val l = readInt o.u (pat l)) (ls : List Nat) :
    StandsFor o (ls.foldl (fun acc l => redWrap o (redOp o acc (val l))) (redId o))
      ((ls.map pat).foldl (foldOp o.u o.op) (foldId n o.u o.op)) := by
  rw [List.foldl_map]
  exact List.foldl_rel (standsFor_redId hn) fun l _ x p h => by rw [hv l]; exact (h.combine hn (pat l)).wrap hn

/-- Under add the exact fold is the sum. -/
theorem foldl_redOp_add {o : ReduxOp} (h : o.op = 0) (v : Int) (vs : List Int) : vs.foldl (redOp o) v = (v :: vs).sum := by
  have hadd : redOp o = fun x y => x + y := funext fun x => funext fun y => by rw [redOp_eq, if_pos h]
  rw [hadd, List.sum_eq_foldl, List.foldl_cons, zero_add]

/-! ## What REDUX and PREFIX leave in a lane -/

/-- The exact value of lane `l` in a reduction. -/
def Ctx.redLane (c : Ctx) (o : ReduxOp) (l : Nat) : Int := redInt o (redVal c o l).val

theorem redLane_pair {o : ReduxOp} (hp : o.pair = true) (c : Ctx) (l : Nat) : c.redLane o l = readInt o.u (c.pairVal o.a l) := by
  simp only [Ctx.redLane, redInt, redVal, hp, if_true]
  rfl

theorem redLane_word {o : ReduxOp} (hp : o.pair = false) (c : Ctx) (l : Nat) : c.redLane o l = readInt o.u (c.val o.a l) := by
  have back : ((c.val o.a l).setWidth 64).extractLsb' 0 32 = c.val o.a l := by
    rw [← BitVec.setWidth_eq_extractLsb' (by decide), BitVec.setWidth_setWidth_of_le _ (by decide), BitVec.setWidth_eq]
  rw [Ctx.redLane, redInt, redVal, hp]
  exact congrArg (readInt o.u) back

/-- A source of a reduction is poisoned. -/
def Ctx.redBad (c : Ctx) (o : ReduxOp) (l : Nat) : Bool := if o.pair then c.pairBad o.a l else c.bad o.a l

theorem redVal_poison (c : Ctx) (o : ReduxOp) (l : Nat) : (redVal c o l).poison = c.redBad o l := by
  unfold redVal Ctx.redBad
  cases o.pair <;> rfl

/-- The result of an exact value. -/
def redRes (o : ReduxOp) (x : Int) (q : Bool) : LaneRes := { words := redWords o x q, preds := [], fl := 0 }

/-- The fold of the patterns of some lanes, from the identity (09 R218). -/
def Ctx.foldRes (c : Ctx) (o : ReduxOp) (ls : List Nat) : LaneRes :=
  if o.pair then res64 ((ls.map (c.pairVal o.a)).foldl (foldOp o.u o.op) (foldId 64 o.u o.op)) (ls.any (c.redBad o))
  else res32 ((ls.map (c.val o.a)).foldl (foldOp o.u o.op) (foldId 32 o.u o.op)) (ls.any (c.redBad o))

/-- The sum of the values of some lanes, clamped (09 R218). -/
def Ctx.clampedRes (c : Ctx) (o : ReduxOp) (ls : List Nat) : LaneRes :=
  if o.pair then res64 (narrowed false true 64 (ls.map fun l => (c.pairVal o.a l).toInt).sum) (ls.any (c.redBad o))
  else res32 (narrowed false true 32 (ls.map fun l => (c.val o.a l).toInt).sum) (ls.any (c.redBad o))

/-- Without SAT, an exact value gives the pattern that it stands for. -/
theorem redRes_of_standsFor {c : Ctx} {o : ReduxOp} {ls : List Nat} {x : Int} (hs : o.sat = false)
    (h64 : o.pair = true → StandsFor o x ((ls.map (c.pairVal o.a)).foldl (foldOp o.u o.op) (foldId 64 o.u o.op)))
    (h32 : o.pair = false → StandsFor o x ((ls.map (c.val o.a)).foldl (foldOp o.u o.op) (foldId 32 o.u o.op))) :
    redRes o x (ls.any (c.redBad o)) = c.foldRes o ls := by
  unfold redRes redWords Ctx.foldRes
  cases hp : o.pair with
  | true => rw [← (h64 hp).pattern, hs]; rfl
  | false => rw [← (h32 hp).pattern, hs]; rfl

theorem redRes_fold_cons {c : Ctx} {o : ReduxOp} (hs : o.sat = false) (a : Nat) (as : List Nat) :
    redRes o ((as.map (c.redLane o)).foldl (redOp o) (c.redLane o a)) ((a :: as).any (c.redBad o)) = c.foldRes o (a :: as) :=
  redRes_of_standsFor hs (fun hp => standsFor_fold_cons (by simp [redWidth, hp]) (redLane_pair hp c) a as)
    fun hp => standsFor_fold_cons (by simp [redWidth, hp]) (redLane_word hp c) a as

theorem redRes_fold_wrap {c : Ctx} {o : ReduxOp} (hs : o.sat = false) (ls : List Nat) :
    redRes o (ls.foldl (fun acc l => redWrap o (redOp o acc (c.redLane o l))) (redId o)) (ls.any (c.redBad o)) = c.foldRes o ls :=
  redRes_of_standsFor hs (fun hp => standsFor_fold_wrap (by simp [redWidth, hp]) (redLane_pair hp c) ls)
    fun hp => standsFor_fold_wrap (by simp [redWidth, hp]) (redLane_word hp c) ls

theorem redRes_clamped {c : Ctx} {o : ReduxOp} (hs : o.sat = true) (h0 : o.op = 0) (hu : o.u = false) (a : Nat) (as : List Nat) :
    redRes o ((as.map (c.redLane o)).foldl (redOp o) (c.redLane o a)) ((a :: as).any (c.redBad o)) = c.clampedRes o (a :: as) := by
  rw [foldl_redOp_add h0, ← List.map_cons]
  unfold redRes redWords Ctx.clampedRes
  cases hp : o.pair with
  | true =>
    have hv : c.redLane o = fun l => (c.pairVal o.a l).toInt := funext fun l => by rw [redLane_pair hp, hu]; rfl
    simp only [hs, hu, narrow_eq_narrowed, hv]
    rfl
  | false =>
    have hv : c.redLane o = fun l => (c.val o.a l).toInt := funext fun l => by rw [redLane_word hp, hu]; rfl
    simp only [hs, hu, narrow_eq_narrowed, hv]
    rfl

/-- SAT stands only in a signed add. -/
theorem redux_form_sat {o : ReduxOp} (h : (Instr.redux o).form = true) (hs : o.sat = true) : o.op = 0 ∧ o.u = false := by
  simp only [Instr.form, hs, Bool.and_eq_true, Bool.or_eq_true, beq_iff_eq, Bool.not_eq_true', Bool.true_eq_false, false_or] at h
  obtain ⟨⟨⟨⟨-, hu⟩, h0⟩, -⟩, -⟩ := h
  exact ⟨h0, by simpa [h0] using hu⟩

theorem prefixScan_form_sat {o : ReduxOp} (h : (Instr.prefixScan o).form = true) : o.sat = false := by
  simp only [Instr.form, Bool.and_eq_true, Bool.not_eq_true'] at h
  obtain ⟨⟨⟨-, hs⟩, -⟩, -⟩ := h
  exact hs

/-- The lanes that PREFIX folds for lane `l`: those before it, and it itself without X. -/
theorem scannedLanes_eq (x : Bool) (ls : List Nat) (l : Nat) :
    (ls.filter fun k => if x then decide (k < l) else decide (k ≤ l)) = ls.filter fun k => decide (k < l) || (!x && k == l) := by
  have hle (k : Nat) : decide (k ≤ l) = (decide (k < l) || k == l) := by
    rw [decide_eq_decide.mpr Nat.le_iff_lt_or_eq, Bool.decide_or]
    rfl
  exact List.filter_congr fun k _ => by cases x <;> simp [hle]

/-! ## The tree of FREDUX (09 R219) -/

/-- The node over two nodes. -/
def nodeOver (comb : FRes → FRes → FRes) : Option FRes → Option FRes → Option FRes
  | some x, some y => some (comb x y)
  | some x, none => some x
  | none, y => y

theorem treeNode_succ (comb : FRes → FRes → FRes) (leaf : Nat → Option FRes) (k i : Nat) :
    treeNode comb leaf (k + 1) i = nodeOver comb (treeNode comb leaf k (2 * i)) (treeNode comb leaf k (2 * i + 1)) := by
  rw [treeNode]
  cases treeNode comb leaf k (2 * i) <;> cases treeNode comb leaf k (2 * i + 1) <;> rfl

/-- A combine with the flags of both operands. -/
def fredComb (o : FreduxOp) (x y : FRes) : FRes :=
  let r : FRes := if o.op = 0 then faddV .f32 o.rm false (fval .f32 x.bits) (fval .f32 y.bits)
                  else fminmax .f32 (o.op != 1) x.bits y.bits
  { r with fl := r.fl ||| x.fl ||| y.fl }

theorem fredCombine_eq (o : FreduxOp) (a b : Nat) : fredCombine o a b =
    if o.op = 0 then faddV .f32 o.rm false (fval .f32 a) (fval .f32 b) else fminmax .f32 (o.op != 1) a b := by
  unfold fredCombine
  obtain h | h | h | h := bitVec2_cases o.op <;> rw [h] <;> rfl

theorem fredLevel_cons_cons (o : FreduxOp) (x y : Option FRes) (l : List (Option FRes)) :
    fredLevel o (x :: y :: l) = nodeOver (fredComb o) x y :: fredLevel o l := by
  cases x with
  | none => cases y <;> rfl
  | some x =>
    cases y with
    | none => rfl
    | some y => simp only [fredLevel, nodeOver, fredComb, fredCombine_eq]

/-- A level halves the nodes: each node stands over its two. -/
theorem fredLevel_map_range (o : FreduxOp) (n : Nat) (f : Nat → Option FRes) :
    fredLevel o ((List.range (2 * n)).map f) = (List.range n).map fun i => nodeOver (fredComb o) (f (2 * i)) (f (2 * i + 1)) := by
  induction n generalizing f with
  | zero => rfl
  | succ n ih =>
    rw [Nat.mul_succ, List.range_succ_eq_map, List.range_succ_eq_map, List.range_succ_eq_map]
    simp only [List.map_cons, List.map_map]
    rw [fredLevel_cons_cons, ← Function.comp_assoc, ih]
    rfl

/-- The levels of the tree over the nodes of level `j` end in its root. -/
theorem fredTree_map_range (o : FreduxOp) (leaf : Nat → Option FRes) (k j : Nat) :
    fredTree o k ((List.range (2 ^ k)).map (treeNode (fredComb o) leaf j)) = [treeNode (fredComb o) leaf (k + j) 0] := by
  induction k generalizing j with
  | zero => rw [Nat.zero_add]; rfl
  | succ k ih =>
    have level : fredLevel o ((List.range (2 ^ (k + 1))).map (treeNode (fredComb o) leaf j)) =
        (List.range (2 ^ k)).map (treeNode (fredComb o) leaf (j + 1)) := by
      rw [Nat.pow_succ', fredLevel_map_range]
      exact List.map_congr_left fun i _ => (treeNode_succ ..).symm
    rw [fredTree, level, ih, Nat.succ_add_eq_add_succ]

/-- The root of the tree over 64 leaves. -/
theorem fredTree_root (o : FreduxOp) (leaf : Nat → Option FRes) :
    (fredTree o 6 ((List.range 64).map leaf)).head?.join = treeNode (fredComb o) leaf 6 0 := by
  have h := fredTree_map_range o leaf 6 0
  rw [show (List.range 64).map leaf = (List.range (2 ^ 6)).map (treeNode (fredComb o) leaf 0) from rfl, h]
  rfl

end Sys2Proof.Machine

open Sys2Proof Sys2Proof.Machine

/-- Settles O13: the source lane is the lane the mode names when that lies in the segment and is active. -/
theorem shuffleReadsItsSegment : Obligations.ShuffleReadsItsSegment := by
  intro s c o h seg base n place hit src word
  have hplace (i : Nat) : shflPlace o.m o.w i (c.val o.b i) = place i := by delta shflPlace; rfl
  have hhit (i : Nat) : (inSegment o.w i (place i) && (c.lanesFor (.shfl o)).contains (place i).toNat) = hit i := rfl
  refine crosses_of_body h (execShfl.eq_def o s) rfl (calm_of_zero fun _ => rfl) fun i => ?_
  simp only [copyReg_poisoned, reg_val, reg_poison, shflSource_filter, hplace, hhit, Ctx.movedWord]
  cases hi : hit i <;> simp [src, word, hi]

/-- Settles O14: the quad words and WRITELANE are changes over a list of lanes, READLANE is a cross-lane word. -/
theorem quadAndLaneWords : Obligations.QuadAndLaneWords := by
  refine ⟨fun s c o => ⟨fun h => ?qxch, fun h => ?qbcast⟩, fun s c => ⟨fun o h => ?readlane, fun o h => ?writelane⟩⟩
  case qxch => exact edits_of_quadWord h rfl rfl
  case qbcast =>
    have hsrc : (fun l => l - l % 4 + o.k.toNat) = fun l => l / 4 * 4 + o.k.toNat :=
      funext fun l => by rw [Nat.div_mul_self_eq_mod_sub_self]
    exact edits_of_quadWord (src := fun l => l - l % 4 + o.k.toNat) h rfl (by rw [hsrc]; rfl)
  case readlane =>
    refine crosses_of_body h (execReadlane.eq_def o s) rfl (calm_of_zero fun _ => rfl) fun l => ?_
    simp only [readlaneWords_eq, src_val, src_poison, List.contains_iff_mem, Bool.and_eq_true, bne_iff_ne]
    rfl
  case writelane => exact edits_of_writelane h

/-- Settles O15: each word is a cross-lane word whose result is read off the active lanes. -/
theorem votesMatchesAndElections : Obligations.VotesMatchesAndElections := by
  refine fun s c => ⟨fun o h => ?vote, fun o h => ?ballot, fun o h => ?matchAny, fun o h => ?matchAll, fun o h => ?elect⟩
  case vote =>
    refine crosses_of_body h (execVote.eq_def o s) rfl (calm_of_zero fun _ => rfl) fun l => ?_
    simp only [voteVal_val, voteVal_poison, lowestOrigin_eq_firstOrigin]
    obtain hop | hop | hop | hop := bitVec2_cases o.op <;> rw [hop] <;> rfl
  case ballot =>
    refine crosses_of_body h (execVoteBallot.eq_def o s) rfl (calm_of_zero fun _ => by split <;> rfl) fun l => ?_
    simp only [voteVal_val, voteVal_poison, lowestOrigin_eq_firstOrigin, maskWords_res]
  case matchAny =>
    refine crosses_of_body h (execMatchAny.eq_def o s) rfl (calm_of_zero fun _ => by split <;> rfl) fun l => ?_
    simp only [matchVal_beq, matchVal_poison, lowestOrigin_eq_firstOrigin, maskWords_res]
  case matchAll =>
    refine crosses_of_body h (execMatchAll.eq_def o s) rfl (calm_of_zero fun _ => rfl) fun l => ?_
    simp only [matchVal_beq, matchVal_poison, lowestOrigin_eq_firstOrigin]
  case elect =>
    exact crosses_of_body h (execElect.eq_def o s) rfl (calm_of_zero fun _ => rfl) fun l => by rw [head?_beq_first h]

/-- Settles O16: the exact folds stand for the folds of patterns, and the levels of FREDUX build the tree. -/
theorem reductionsFold : Obligations.ReductionsFold := by
  refine ⟨fun s c o => ⟨fun h => ?redux, fun h => ?prefixScan⟩, fun s c o h => ?fredux⟩
  case redux =>
    refine crosses_of_body h (execRedux.eq_def o s) rfl (calm_of_zero fun _ => ?_) fun l => ?_
    · split_ifs <;> rfl
    · obtain ⟨a, as, hact⟩ := h.lanesFor_eq_cons
      simp only [lowestOrigin_eq_firstOrigin, hact, redVal_poison]
      refine congrArg (CrossRes.mk · (firstOrigin c (a :: as) (c.redBad o))) ?_
      cases hs : o.sat with
      | true =>
        obtain ⟨h0, hu⟩ := redux_form_sat h.form hs
        exact redRes_clamped hs h0 hu a as
      | false => exact redRes_fold_cons hs a as
  case prefixScan =>
    intro seen
    refine crosses_of_body h (execPrefixScan.eq_def o s) rfl (calm_of_zero fun _ => ?_) fun l => ?_
    · split_ifs <;> rfl
    · simp only [lowestOrigin_eq_firstOrigin, redVal_poison, scannedLanes_eq]
      exact congrArg (CrossRes.mk · (firstOrigin c (seen l) (c.redBad o))) (redRes_fold_wrap (prefixScan_form_sat h.form) (seen l))
  case fredux =>
    intro act comb leaf root r calm
    have hcomb : fredComb o = comb := rfl
    have hleaf : (fun l => if (c.lanesFor (.fredux o)).contains l then
        some { bits := (c.wp.reg o.a l).val.toNat, fl := if (f32 (c.wp.reg o.a l).val).isSig then flNV else 0 } else none) = leaf :=
      funext fun l => if_congr List.contains_iff_mem rfl rfl
    refine crosses_of_body h (execFredux.eq_def o s) rfl calm fun l => ?_
    simp only [fredTree_root, lowestOrigin_eq_firstOrigin, hleaf, hcomb]
    rfl
end
